-- ==== Sys2Proof/Word.lean ====
section
/-! DEFINITION. The word types of the machine (spec/00_scope.md R11 to R13): plain names for fixed-width bit
vectors and the two extensions every file uses. -/

namespace Sys2Proof

/-- One byte of memory. -/
abbrev Byte := BitVec 8
/-- A 32-bit word: an instruction, a 32-bit CP0 register. -/
abbrev Word := BitVec 32
/-- A 64-bit doubleword: a general register, a virtual address. -/
abbrev DWord := BitVec 64
/-- A general register number. -/
abbrev RegNum := BitVec 5
/-- A 40-bit physical address (spec/20_memory.md R230). -/
abbrev PAddr := BitVec 40

/-- Sign extension to 64 bits (`sext_64` of spec/00_scope.md R13). -/
abbrev sext64 {n : Nat} (x : BitVec n) : DWord := x.signExtend 64
/-- Zero extension to 64 bits (`zext_64`). -/
abbrev zext64 {n : Nat} (x : BitVec n) : DWord := x.setWidth 64

end Sys2Proof
end

