-- ==== Sys2Proof/Syntax.lean ====
section
/-! DEFINITION. The abstract syntax of the VR10000 instruction set: one constructor for each of the 243 rows of
spec/opcode_table.json, in the table's order.  Operand widths are those of the encoding fields
(spec/30_encoding.md R401); `imm` and `offset` are raw 16-bit fields, extended by the meanings. -/

namespace Sys2Proof

/-- An instruction of the processor (spec/30_encoding.md R402 to R409).  The four CP0 moves carry `sel`, the
instruction bits 3:0 that select a performance register when `rd` = 25 (12_cp0_diag_perf_cache_regs.md R171, R178). -/
inductive Instr where
  -- 40_integer_alu.md
  /-- ADD (R453). -/
  | add (rs : BitVec 5) (rt : BitVec 5) (rd : BitVec 5)
  /-- ADDU (R454). -/
  | addu (rs : BitVec 5) (rt : BitVec 5) (rd : BitVec 5)
  /-- SUB (R455). -/
  | sub (rs : BitVec 5) (rt : BitVec 5) (rd : BitVec 5)
  /-- SUBU (R456). -/
  | subu (rs : BitVec 5) (rt : BitVec 5) (rd : BitVec 5)
  /-- ADDI (R457). -/
  | addi (rs : BitVec 5) (rt : BitVec 5) (imm : BitVec 16)
  /-- ADDIU (R458). -/
  | addiu (rs : BitVec 5) (rt : BitVec 5) (imm : BitVec 16)
  /-- DADD (R459). -/
  | dadd (rs : BitVec 5) (rt : BitVec 5) (rd : BitVec 5)
  /-- DADDU (R460). -/
  | daddu (rs : BitVec 5) (rt : BitVec 5) (rd : BitVec 5)
  /-- DSUB (R461). -/
  | dsub (rs : BitVec 5) (rt : BitVec 5) (rd : BitVec 5)
  /-- DSUBU (R462). -/
  | dsubu (rs : BitVec 5) (rt : BitVec 5) (rd : BitVec 5)
  /-- DADDI (R463). -/
  | daddi (rs : BitVec 5) (rt : BitVec 5) (imm : BitVec 16)
  /-- DADDIU (R464). -/
  | daddiu (rs : BitVec 5) (rt : BitVec 5) (imm : BitVec 16)
  /-- AND (R465). -/
  | and (rs : BitVec 5) (rt : BitVec 5) (rd : BitVec 5)
  /-- OR (R466). -/
  | or (rs : BitVec 5) (rt : BitVec 5) (rd : BitVec 5)
  /-- XOR (R467). -/
  | xor (rs : BitVec 5) (rt : BitVec 5) (rd : BitVec 5)
  /-- NOR (R468). -/
  | nor (rs : BitVec 5) (rt : BitVec 5) (rd : BitVec 5)
  /-- ANDI (R469). -/
  | andi (rs : BitVec 5) (rt : BitVec 5) (imm : BitVec 16)
  /-- ORI (R470). -/
  | ori (rs : BitVec 5) (rt : BitVec 5) (imm : BitVec 16)
  /-- XORI (R471). -/
  | xori (rs : BitVec 5) (rt : BitVec 5) (imm : BitVec 16)
  /-- LUI (R472). -/
  | lui (rt : BitVec 5) (imm : BitVec 16)
  /-- SLT (R473). -/
  | slt (rs : BitVec 5) (rt : BitVec 5) (rd : BitVec 5)
  /-- SLTU (R474). -/
  | sltu (rs : BitVec 5) (rt : BitVec 5) (rd : BitVec 5)
  /-- SLTI (R475). -/
  | slti (rs : BitVec 5) (rt : BitVec 5) (imm : BitVec 16)
  /-- SLTIU (R476). -/
  | sltiu (rs : BitVec 5) (rt : BitVec 5) (imm : BitVec 16)
  /-- SLL (R477). -/
  | sll (rt : BitVec 5) (rd : BitVec 5) (sa : BitVec 5)
  /-- SRL (R478). -/
  | srl (rt : BitVec 5) (rd : BitVec 5) (sa : BitVec 5)
  /-- SRA (R479). -/
  | sra (rt : BitVec 5) (rd : BitVec 5) (sa : BitVec 5)
  /-- SLLV (R480). -/
  | sllv (rs : BitVec 5) (rt : BitVec 5) (rd : BitVec 5)
  /-- SRLV (R481). -/
  | srlv (rs : BitVec 5) (rt : BitVec 5) (rd : BitVec 5)
  /-- SRAV (R482). -/
  | srav (rs : BitVec 5) (rt : BitVec 5) (rd : BitVec 5)
  /-- DSLL (R483). -/
  | dsll (rt : BitVec 5) (rd : BitVec 5) (sa : BitVec 5)
  /-- DSRL (R484). -/
  | dsrl (rt : BitVec 5) (rd : BitVec 5) (sa : BitVec 5)
  /-- DSRA (R485). -/
  | dsra (rt : BitVec 5) (rd : BitVec 5) (sa : BitVec 5)
  /-- DSLLV (R486). -/
  | dsllv (rs : BitVec 5) (rt : BitVec 5) (rd : BitVec 5)
  /-- DSRLV (R487). -/
  | dsrlv (rs : BitVec 5) (rt : BitVec 5) (rd : BitVec 5)
  /-- DSRAV (R488). -/
  | dsrav (rs : BitVec 5) (rt : BitVec 5) (rd : BitVec 5)
  /-- DSLL32 (R489). -/
  | dsll32 (rt : BitVec 5) (rd : BitVec 5) (sa : BitVec 5)
  /-- DSRL32 (R490). -/
  | dsrl32 (rt : BitVec 5) (rd : BitVec 5) (sa : BitVec 5)
  /-- DSRA32 (R491). -/
  | dsra32 (rt : BitVec 5) (rd : BitVec 5) (sa : BitVec 5)
  /-- MOVN (R492). -/
  | movn (rs : BitVec 5) (rt : BitVec 5) (rd : BitVec 5)
  /-- MOVZ (R493). -/
  | movz (rs : BitVec 5) (rt : BitVec 5) (rd : BitVec 5)
  /-- MOVF (R494). -/
  | movf (rs : BitVec 5) (cc : BitVec 3) (rd : BitVec 5)
  /-- MOVT (R495). -/
  | movt (rs : BitVec 5) (cc : BitVec 3) (rd : BitVec 5)
  -- 41_multiply_divide.md
  /-- MULT (R532). -/
  | mult (rs : BitVec 5) (rt : BitVec 5)
  /-- MULTU (R533). -/
  | multu (rs : BitVec 5) (rt : BitVec 5)
  /-- DIV (R534). -/
  | div (rs : BitVec 5) (rt : BitVec 5)
  /-- DIVU (R535). -/
  | divu (rs : BitVec 5) (rt : BitVec 5)
  /-- DMULT (R536). -/
  | dmult (rs : BitVec 5) (rt : BitVec 5)
  /-- DMULTU (R537). -/
  | dmultu (rs : BitVec 5) (rt : BitVec 5)
  /-- DDIV (R538). -/
  | ddiv (rs : BitVec 5) (rt : BitVec 5)
  /-- DDIVU (R539). -/
  | ddivu (rs : BitVec 5) (rt : BitVec 5)
  /-- MFHI (R540). -/
  | mfhi (rd : BitVec 5)
  /-- MFLO (R541). -/
  | mflo (rd : BitVec 5)
  /-- MTHI (R542). -/
  | mthi (rs : BitVec 5)
  /-- MTLO (R543). -/
  | mtlo (rs : BitVec 5)
  -- 42_load_store.md
  /-- LB (R564). -/
  | lb (base : BitVec 5) (rt : BitVec 5) (offset : BitVec 16)
  /-- LBU (R565). -/
  | lbu (base : BitVec 5) (rt : BitVec 5) (offset : BitVec 16)
  /-- LH (R566). -/
  | lh (base : BitVec 5) (rt : BitVec 5) (offset : BitVec 16)
  /-- LHU (R567). -/
  | lhu (base : BitVec 5) (rt : BitVec 5) (offset : BitVec 16)
  /-- LW (R568). -/
  | lw (base : BitVec 5) (rt : BitVec 5) (offset : BitVec 16)
  /-- LWU (R569). -/
  | lwu (base : BitVec 5) (rt : BitVec 5) (offset : BitVec 16)
  /-- LD (R570). -/
  | ld (base : BitVec 5) (rt : BitVec 5) (offset : BitVec 16)
  /-- SB (R571). -/
  | sb (base : BitVec 5) (rt : BitVec 5) (offset : BitVec 16)
  /-- SH (R572). -/
  | sh (base : BitVec 5) (rt : BitVec 5) (offset : BitVec 16)
  /-- SW (R573). -/
  | sw (base : BitVec 5) (rt : BitVec 5) (offset : BitVec 16)
  /-- SD (R574). -/
  | sd (base : BitVec 5) (rt : BitVec 5) (offset : BitVec 16)
  /-- LWL (R576). -/
  | lwl (base : BitVec 5) (rt : BitVec 5) (offset : BitVec 16)
  /-- LWR (R577). -/
  | lwr (base : BitVec 5) (rt : BitVec 5) (offset : BitVec 16)
  /-- SWL (R578). -/
  | swl (base : BitVec 5) (rt : BitVec 5) (offset : BitVec 16)
  /-- SWR (R579). -/
  | swr (base : BitVec 5) (rt : BitVec 5) (offset : BitVec 16)
  /-- LDL (R580). -/
  | ldl (base : BitVec 5) (rt : BitVec 5) (offset : BitVec 16)
  /-- LDR (R581). -/
  | ldr (base : BitVec 5) (rt : BitVec 5) (offset : BitVec 16)
  /-- SDL (R582). -/
  | sdl (base : BitVec 5) (rt : BitVec 5) (offset : BitVec 16)
  /-- SDR (R583). -/
  | sdr (base : BitVec 5) (rt : BitVec 5) (offset : BitVec 16)
  /-- LL (R585). -/
  | ll (base : BitVec 5) (rt : BitVec 5) (offset : BitVec 16)
  /-- LLD (R586). -/
  | lld (base : BitVec 5) (rt : BitVec 5) (offset : BitVec 16)
  /-- SC (R587). -/
  | sc (base : BitVec 5) (rt : BitVec 5) (offset : BitVec 16)
  /-- SCD (R588). -/
  | scd (base : BitVec 5) (rt : BitVec 5) (offset : BitVec 16)
  /-- SYNC (R590). -/
  | sync (stype : BitVec 5)
  /-- PREF (R591). -/
  | pref (base : BitVec 5) (hint : BitVec 5) (offset : BitVec 16)
  /-- PREFX (R592). -/
  | prefx (base : BitVec 5) (index : BitVec 5) (hint : BitVec 5)
  -- 43_branch_jump.md
  /-- J (R636). -/
  | j (target : BitVec 26)
  /-- JAL (R637). -/
  | jal (target : BitVec 26)
  /-- JR (R638). -/
  | jr (rs : BitVec 5)
  /-- JALR (R639). -/
  | jalr (rs : BitVec 5) (rd : BitVec 5)
  /-- BEQ (R640). -/
  | beq (rs : BitVec 5) (rt : BitVec 5) (offset : BitVec 16)
  /-- BNE (R641). -/
  | bne (rs : BitVec 5) (rt : BitVec 5) (offset : BitVec 16)
  /-- BLEZ (R642). -/
  | blez (rs : BitVec 5) (offset : BitVec 16)
  /-- BGTZ (R643). -/
  | bgtz (rs : BitVec 5) (offset : BitVec 16)
  /-- BLTZ (R644). -/
  | bltz (rs : BitVec 5) (offset : BitVec 16)
  /-- BGEZ (R645). -/
  | bgez (rs : BitVec 5) (offset : BitVec 16)
  /-- BLTZAL (R646). -/
  | bltzal (rs : BitVec 5) (offset : BitVec 16)
  /-- BGEZAL (R647). -/
  | bgezal (rs : BitVec 5) (offset : BitVec 16)
  /-- BEQL (R650). -/
  | beql (rs : BitVec 5) (rt : BitVec 5) (offset : BitVec 16)
  /-- BNEL (R651). -/
  | bnel (rs : BitVec 5) (rt : BitVec 5) (offset : BitVec 16)
  /-- BLEZL (R652). -/
  | blezl (rs : BitVec 5) (offset : BitVec 16)
  /-- BGTZL (R653). -/
  | bgtzl (rs : BitVec 5) (offset : BitVec 16)
  /-- BLTZL (R654). -/
  | bltzl (rs : BitVec 5) (offset : BitVec 16)
  /-- BGEZL (R655). -/
  | bgezl (rs : BitVec 5) (offset : BitVec 16)
  /-- BLTZALL (R656). -/
  | bltzall (rs : BitVec 5) (offset : BitVec 16)
  /-- BGEZALL (R657). -/
  | bgezall (rs : BitVec 5) (offset : BitVec 16)
  -- 44_trap_syscall.md
  /-- TGE (R681). -/
  | tge (rs : BitVec 5) (rt : BitVec 5) (code : BitVec 10)
  /-- TGEU (R682). -/
  | tgeu (rs : BitVec 5) (rt : BitVec 5) (code : BitVec 10)
  /-- TLT (R683). -/
  | tlt (rs : BitVec 5) (rt : BitVec 5) (code : BitVec 10)
  /-- TLTU (R684). -/
  | tltu (rs : BitVec 5) (rt : BitVec 5) (code : BitVec 10)
  /-- TEQ (R685). -/
  | teq (rs : BitVec 5) (rt : BitVec 5) (code : BitVec 10)
  /-- TNE (R686). -/
  | tne (rs : BitVec 5) (rt : BitVec 5) (code : BitVec 10)
  /-- TGEI (R687). -/
  | tgei (rs : BitVec 5) (imm : BitVec 16)
  /-- TGEIU (R688). -/
  | tgeiu (rs : BitVec 5) (imm : BitVec 16)
  /-- TLTI (R689). -/
  | tlti (rs : BitVec 5) (imm : BitVec 16)
  /-- TLTIU (R690). -/
  | tltiu (rs : BitVec 5) (imm : BitVec 16)
  /-- TEQI (R691). -/
  | teqi (rs : BitVec 5) (imm : BitVec 16)
  /-- TNEI (R692). -/
  | tnei (rs : BitVec 5) (imm : BitVec 16)
  /-- SYSCALL (R693). -/
  | syscall (code : BitVec 20)
  /-- BREAK (R694). -/
  | brk (code : BitVec 20)
  -- 45_cp0_instructions.md
  /-- MFC0 (R713). -/
  | mfc0 (rt : BitVec 5) (rd : BitVec 5) (sel : BitVec 4)
  /-- DMFC0 (R714). -/
  | dmfc0 (rt : BitVec 5) (rd : BitVec 5) (sel : BitVec 4)
  /-- MTC0 (R715). -/
  | mtc0 (rt : BitVec 5) (rd : BitVec 5) (sel : BitVec 4)
  /-- DMTC0 (R716). -/
  | dmtc0 (rt : BitVec 5) (rd : BitVec 5) (sel : BitVec 4)
  /-- TLBR (R718). -/
  | tlbr
  /-- TLBWI (R719). -/
  | tlbwi
  /-- TLBWR (R720). -/
  | tlbwr
  /-- TLBP (R721). -/
  | tlbp
  /-- ERET (R723). -/
  | eret
  -- 47_fpu_instructions.md
  /-- MFC1 (R812). -/
  | mfc1 (rt : BitVec 5) (fs : BitVec 5)
  /-- DMFC1 (R813). -/
  | dmfc1 (rt : BitVec 5) (fs : BitVec 5)
  /-- MTC1 (R814). -/
  | mtc1 (rt : BitVec 5) (fs : BitVec 5)
  /-- DMTC1 (R815). -/
  | dmtc1 (rt : BitVec 5) (fs : BitVec 5)
  /-- CFC1 (R816). -/
  | cfc1 (rt : BitVec 5) (fs : BitVec 5)
  /-- CTC1 (R817). -/
  | ctc1 (rt : BitVec 5) (fs : BitVec 5)
  /-- LWC1 (R818). -/
  | lwc1 (base : BitVec 5) (ft : BitVec 5) (offset : BitVec 16)
  /-- LDC1 (R819). -/
  | ldc1 (base : BitVec 5) (ft : BitVec 5) (offset : BitVec 16)
  /-- SWC1 (R820). -/
  | swc1 (base : BitVec 5) (ft : BitVec 5) (offset : BitVec 16)
  /-- SDC1 (R821). -/
  | sdc1 (base : BitVec 5) (ft : BitVec 5) (offset : BitVec 16)
  /-- LWXC1 (R822). -/
  | lwxc1 (base : BitVec 5) (index : BitVec 5) (fd : BitVec 5)
  /-- LDXC1 (R823). -/
  | ldxc1 (base : BitVec 5) (index : BitVec 5) (fd : BitVec 5)
  /-- SWXC1 (R824). -/
  | swxc1 (base : BitVec 5) (index : BitVec 5) (fs : BitVec 5)
  /-- SDXC1 (R825). -/
  | sdxc1 (base : BitVec 5) (index : BitVec 5) (fs : BitVec 5)
  /-- BC1F (R826). -/
  | bc1f (cc : BitVec 3) (offset : BitVec 16)
  /-- BC1T (R827). -/
  | bc1t (cc : BitVec 3) (offset : BitVec 16)
  /-- BC1FL (R828). -/
  | bc1fl (cc : BitVec 3) (offset : BitVec 16)
  /-- BC1TL (R829). -/
  | bc1tl (cc : BitVec 3) (offset : BitVec 16)
  /-- ADD.S (R830). -/
  | addS (ft : BitVec 5) (fs : BitVec 5) (fd : BitVec 5)
  /-- ADD.D (R830). -/
  | addD (ft : BitVec 5) (fs : BitVec 5) (fd : BitVec 5)
  /-- SUB.S (R831). -/
  | subS (ft : BitVec 5) (fs : BitVec 5) (fd : BitVec 5)
  /-- SUB.D (R831). -/
  | subD (ft : BitVec 5) (fs : BitVec 5) (fd : BitVec 5)
  /-- MUL.S (R832). -/
  | mulS (ft : BitVec 5) (fs : BitVec 5) (fd : BitVec 5)
  /-- MUL.D (R832). -/
  | mulD (ft : BitVec 5) (fs : BitVec 5) (fd : BitVec 5)
  /-- DIV.S (R833). -/
  | divS (ft : BitVec 5) (fs : BitVec 5) (fd : BitVec 5)
  /-- DIV.D (R833). -/
  | divD (ft : BitVec 5) (fs : BitVec 5) (fd : BitVec 5)
  /-- SQRT.S (R834). -/
  | sqrtS (fs : BitVec 5) (fd : BitVec 5)
  /-- SQRT.D (R834). -/
  | sqrtD (fs : BitVec 5) (fd : BitVec 5)
  /-- ABS.S (R835). -/
  | absS (fs : BitVec 5) (fd : BitVec 5)
  /-- ABS.D (R835). -/
  | absD (fs : BitVec 5) (fd : BitVec 5)
  /-- MOV.S (R836). -/
  | movS (fs : BitVec 5) (fd : BitVec 5)
  /-- MOV.D (R836). -/
  | movD (fs : BitVec 5) (fd : BitVec 5)
  /-- NEG.S (R837). -/
  | negS (fs : BitVec 5) (fd : BitVec 5)
  /-- NEG.D (R837). -/
  | negD (fs : BitVec 5) (fd : BitVec 5)
  /-- ROUND.L.S (R838). -/
  | roundLS (fs : BitVec 5) (fd : BitVec 5)
  /-- ROUND.L.D (R838). -/
  | roundLD (fs : BitVec 5) (fd : BitVec 5)
  /-- TRUNC.L.S (R839). -/
  | truncLS (fs : BitVec 5) (fd : BitVec 5)
  /-- TRUNC.L.D (R839). -/
  | truncLD (fs : BitVec 5) (fd : BitVec 5)
  /-- CEIL.L.S (R840). -/
  | ceilLS (fs : BitVec 5) (fd : BitVec 5)
  /-- CEIL.L.D (R840). -/
  | ceilLD (fs : BitVec 5) (fd : BitVec 5)
  /-- FLOOR.L.S (R841). -/
  | floorLS (fs : BitVec 5) (fd : BitVec 5)
  /-- FLOOR.L.D (R841). -/
  | floorLD (fs : BitVec 5) (fd : BitVec 5)
  /-- ROUND.W.S (R842). -/
  | roundWS (fs : BitVec 5) (fd : BitVec 5)
  /-- ROUND.W.D (R842). -/
  | roundWD (fs : BitVec 5) (fd : BitVec 5)
  /-- TRUNC.W.S (R843). -/
  | truncWS (fs : BitVec 5) (fd : BitVec 5)
  /-- TRUNC.W.D (R843). -/
  | truncWD (fs : BitVec 5) (fd : BitVec 5)
  /-- CEIL.W.S (R844). -/
  | ceilWS (fs : BitVec 5) (fd : BitVec 5)
  /-- CEIL.W.D (R844). -/
  | ceilWD (fs : BitVec 5) (fd : BitVec 5)
  /-- FLOOR.W.S (R845). -/
  | floorWS (fs : BitVec 5) (fd : BitVec 5)
  /-- FLOOR.W.D (R845). -/
  | floorWD (fs : BitVec 5) (fd : BitVec 5)
  /-- CVT.S.D (R846). -/
  | cvtSD (fs : BitVec 5) (fd : BitVec 5)
  /-- CVT.S.W (R846). -/
  | cvtSW (fs : BitVec 5) (fd : BitVec 5)
  /-- CVT.S.L (R846). -/
  | cvtSL (fs : BitVec 5) (fd : BitVec 5)
  /-- CVT.D.S (R847). -/
  | cvtDS (fs : BitVec 5) (fd : BitVec 5)
  /-- CVT.D.W (R847). -/
  | cvtDW (fs : BitVec 5) (fd : BitVec 5)
  /-- CVT.D.L (R847). -/
  | cvtDL (fs : BitVec 5) (fd : BitVec 5)
  /-- CVT.W.S (R848). -/
  | cvtWS (fs : BitVec 5) (fd : BitVec 5)
  /-- CVT.W.D (R848). -/
  | cvtWD (fs : BitVec 5) (fd : BitVec 5)
  /-- CVT.L.S (R849). -/
  | cvtLS (fs : BitVec 5) (fd : BitVec 5)
  /-- CVT.L.D (R849). -/
  | cvtLD (fs : BitVec 5) (fd : BitVec 5)
  /-- MOVF.S (R850). -/
  | movfS (cc : BitVec 3) (fs : BitVec 5) (fd : BitVec 5)
  /-- MOVF.D (R850). -/
  | movfD (cc : BitVec 3) (fs : BitVec 5) (fd : BitVec 5)
  /-- MOVT.S (R851). -/
  | movtS (cc : BitVec 3) (fs : BitVec 5) (fd : BitVec 5)
  /-- MOVT.D (R851). -/
  | movtD (cc : BitVec 3) (fs : BitVec 5) (fd : BitVec 5)
  /-- MOVZ.S (R852). -/
  | movzS (rt : BitVec 5) (fs : BitVec 5) (fd : BitVec 5)
  /-- MOVZ.D (R852). -/
  | movzD (rt : BitVec 5) (fs : BitVec 5) (fd : BitVec 5)
  /-- MOVN.S (R853). -/
  | movnS (rt : BitVec 5) (fs : BitVec 5) (fd : BitVec 5)
  /-- MOVN.D (R853). -/
  | movnD (rt : BitVec 5) (fs : BitVec 5) (fd : BitVec 5)
  /-- RECIP.S (R854). -/
  | recipS (fs : BitVec 5) (fd : BitVec 5)
  /-- RECIP.D (R854). -/
  | recipD (fs : BitVec 5) (fd : BitVec 5)
  /-- RSQRT.S (R855). -/
  | rsqrtS (fs : BitVec 5) (fd : BitVec 5)
  /-- RSQRT.D (R855). -/
  | rsqrtD (fs : BitVec 5) (fd : BitVec 5)
  /-- MADD.S (R856). -/
  | maddS (fr : BitVec 5) (ft : BitVec 5) (fs : BitVec 5) (fd : BitVec 5)
  /-- MADD.D (R856). -/
  | maddD (fr : BitVec 5) (ft : BitVec 5) (fs : BitVec 5) (fd : BitVec 5)
  /-- MSUB.S (R857). -/
  | msubS (fr : BitVec 5) (ft : BitVec 5) (fs : BitVec 5) (fd : BitVec 5)
  /-- MSUB.D (R857). -/
  | msubD (fr : BitVec 5) (ft : BitVec 5) (fs : BitVec 5) (fd : BitVec 5)
  /-- NMADD.S (R858). -/
  | nmaddS (fr : BitVec 5) (ft : BitVec 5) (fs : BitVec 5) (fd : BitVec 5)
  /-- NMADD.D (R858). -/
  | nmaddD (fr : BitVec 5) (ft : BitVec 5) (fs : BitVec 5) (fd : BitVec 5)
  /-- NMSUB.S (R859). -/
  | nmsubS (fr : BitVec 5) (ft : BitVec 5) (fs : BitVec 5) (fd : BitVec 5)
  /-- NMSUB.D (R859). -/
  | nmsubD (fr : BitVec 5) (ft : BitVec 5) (fs : BitVec 5) (fd : BitVec 5)
  /-- C.F.S (R860). -/
  | cFS (ft : BitVec 5) (fs : BitVec 5) (cc : BitVec 3)
  /-- C.UN.S (R860). -/
  | cUnS (ft : BitVec 5) (fs : BitVec 5) (cc : BitVec 3)
  /-- C.EQ.S (R860). -/
  | cEqS (ft : BitVec 5) (fs : BitVec 5) (cc : BitVec 3)
  /-- C.UEQ.S (R860). -/
  | cUeqS (ft : BitVec 5) (fs : BitVec 5) (cc : BitVec 3)
  /-- C.OLT.S (R860). -/
  | cOltS (ft : BitVec 5) (fs : BitVec 5) (cc : BitVec 3)
  /-- C.ULT.S (R860). -/
  | cUltS (ft : BitVec 5) (fs : BitVec 5) (cc : BitVec 3)
  /-- C.OLE.S (R860). -/
  | cOleS (ft : BitVec 5) (fs : BitVec 5) (cc : BitVec 3)
  /-- C.ULE.S (R860). -/
  | cUleS (ft : BitVec 5) (fs : BitVec 5) (cc : BitVec 3)
  /-- C.SF.S (R860). -/
  | cSfS (ft : BitVec 5) (fs : BitVec 5) (cc : BitVec 3)
  /-- C.NGLE.S (R860). -/
  | cNgleS (ft : BitVec 5) (fs : BitVec 5) (cc : BitVec 3)
  /-- C.SEQ.S (R860). -/
  | cSeqS (ft : BitVec 5) (fs : BitVec 5) (cc : BitVec 3)
  /-- C.NGL.S (R860). -/
  | cNglS (ft : BitVec 5) (fs : BitVec 5) (cc : BitVec 3)
  /-- C.LT.S (R860). -/
  | cLtS (ft : BitVec 5) (fs : BitVec 5) (cc : BitVec 3)
  /-- C.NGE.S (R860). -/
  | cNgeS (ft : BitVec 5) (fs : BitVec 5) (cc : BitVec 3)
  /-- C.LE.S (R860). -/
  | cLeS (ft : BitVec 5) (fs : BitVec 5) (cc : BitVec 3)
  /-- C.NGT.S (R860). -/
  | cNgtS (ft : BitVec 5) (fs : BitVec 5) (cc : BitVec 3)
  /-- C.F.D (R860). -/
  | cFD (ft : BitVec 5) (fs : BitVec 5) (cc : BitVec 3)
  /-- C.UN.D (R860). -/
  | cUnD (ft : BitVec 5) (fs : BitVec 5) (cc : BitVec 3)
  /-- C.EQ.D (R860). -/
  | cEqD (ft : BitVec 5) (fs : BitVec 5) (cc : BitVec 3)
  /-- C.UEQ.D (R860). -/
  | cUeqD (ft : BitVec 5) (fs : BitVec 5) (cc : BitVec 3)
  /-- C.OLT.D (R860). -/
  | cOltD (ft : BitVec 5) (fs : BitVec 5) (cc : BitVec 3)
  /-- C.ULT.D (R860). -/
  | cUltD (ft : BitVec 5) (fs : BitVec 5) (cc : BitVec 3)
  /-- C.OLE.D (R860). -/
  | cOleD (ft : BitVec 5) (fs : BitVec 5) (cc : BitVec 3)
  /-- C.ULE.D (R860). -/
  | cUleD (ft : BitVec 5) (fs : BitVec 5) (cc : BitVec 3)
  /-- C.SF.D (R860). -/
  | cSfD (ft : BitVec 5) (fs : BitVec 5) (cc : BitVec 3)
  /-- C.NGLE.D (R860). -/
  | cNgleD (ft : BitVec 5) (fs : BitVec 5) (cc : BitVec 3)
  /-- C.SEQ.D (R860). -/
  | cSeqD (ft : BitVec 5) (fs : BitVec 5) (cc : BitVec 3)
  /-- C.NGL.D (R860). -/
  | cNglD (ft : BitVec 5) (fs : BitVec 5) (cc : BitVec 3)
  /-- C.LT.D (R860). -/
  | cLtD (ft : BitVec 5) (fs : BitVec 5) (cc : BitVec 3)
  /-- C.NGE.D (R860). -/
  | cNgeD (ft : BitVec 5) (fs : BitVec 5) (cc : BitVec 3)
  /-- C.LE.D (R860). -/
  | cLeD (ft : BitVec 5) (fs : BitVec 5) (cc : BitVec 3)
  /-- C.NGT.D (R860). -/
  | cNgtD (ft : BitVec 5) (fs : BitVec 5) (cc : BitVec 3)
  -- 22_caches.md
  /-- CACHE (R365). -/
  | cache (base : BitVec 5) (op : BitVec 5) (offset : BitVec 16)
  -- 45_cp0_instructions.md
  /-- RFE (R724). -/
  | rfe
  -- 30_encoding.md
  /-- COP2 (R409). -/
  | cop2 (cofun : BitVec 26)
  /-- LWC2 (R409). -/
  | lwc2 (cofun : BitVec 26)
  /-- SWC2 (R409). -/
  | swc2 (cofun : BitVec 26)
  /-- LDC2 (R409). -/
  | ldc2 (cofun : BitVec 26)
  /-- SDC2 (R409). -/
  | sdc2 (cofun : BitVec 26)
deriving DecidableEq, Repr

end Sys2Proof
end

