-- ==== Sys2Proof/Decode.lean ====
section
/-! DEFINITION. The decoder, total on every 32-bit word, and the encoder (spec/30_encoding.md R400 to R408, R414;
spec/opcode_table.json). -/

namespace Sys2Proof

/-- Why a word is no instruction.  What the machine does with each is spec/30_encoding.md R410, R412, R413
(Sys2Proof.Machine.execReject). -/
inductive DecodeReject where
  /-- An undefined major opcode, bits 31:26 (R402). -/
  | reservedMajor
  /-- An undefined SPECIAL minor opcode, bits 5:0 (R403). -/
  | reservedSpecial
  /-- An undefined REGIMM minor opcode, bits 20:16 (R404). -/
  | reservedRegimm
  /-- A COP0 word that is no defined COP0 function (R405). -/
  | undefinedCop0
  /-- An undefined COP1 *sub* value with bits 25:24 = 0 or 1 (R406). -/
  | undefinedCop1Sub
  /-- An undefined COP1 format, or an undefined function of a defined format (R406, R407). -/
  | undefinedCop1Op
  /-- An undefined COP1X function (R408). -/
  | undefinedCop1x
deriving DecidableEq, Repr

/-- Instruction bits 3:0 of a CP0 move: significant only when `rd` = 25, else ignored (R414). -/
def selField (w : Word) : BitVec 4 :=
  if w.extractLsb' 11 5 = 25#5 then w.extractLsb' 0 4 else 0#4

/-- SPECIAL minor opcodes, bits 5:0 (R403). -/
def decodeSpecial (w : Word) : Except DecodeReject Instr :=
  match w.extractLsb' 0 6 with
  | 0x20#6 => .ok (.add (w.extractLsb' 21 5) (w.extractLsb' 16 5) (w.extractLsb' 11 5))
  | 0x21#6 => .ok (.addu (w.extractLsb' 21 5) (w.extractLsb' 16 5) (w.extractLsb' 11 5))
  | 0x22#6 => .ok (.sub (w.extractLsb' 21 5) (w.extractLsb' 16 5) (w.extractLsb' 11 5))
  | 0x23#6 => .ok (.subu (w.extractLsb' 21 5) (w.extractLsb' 16 5) (w.extractLsb' 11 5))
  | 0x2c#6 => .ok (.dadd (w.extractLsb' 21 5) (w.extractLsb' 16 5) (w.extractLsb' 11 5))
  | 0x2d#6 => .ok (.daddu (w.extractLsb' 21 5) (w.extractLsb' 16 5) (w.extractLsb' 11 5))
  | 0x2e#6 => .ok (.dsub (w.extractLsb' 21 5) (w.extractLsb' 16 5) (w.extractLsb' 11 5))
  | 0x2f#6 => .ok (.dsubu (w.extractLsb' 21 5) (w.extractLsb' 16 5) (w.extractLsb' 11 5))
  | 0x24#6 => .ok (.and (w.extractLsb' 21 5) (w.extractLsb' 16 5) (w.extractLsb' 11 5))
  | 0x25#6 => .ok (.or (w.extractLsb' 21 5) (w.extractLsb' 16 5) (w.extractLsb' 11 5))
  | 0x26#6 => .ok (.xor (w.extractLsb' 21 5) (w.extractLsb' 16 5) (w.extractLsb' 11 5))
  | 0x27#6 => .ok (.nor (w.extractLsb' 21 5) (w.extractLsb' 16 5) (w.extractLsb' 11 5))
  | 0x2a#6 => .ok (.slt (w.extractLsb' 21 5) (w.extractLsb' 16 5) (w.extractLsb' 11 5))
  | 0x2b#6 => .ok (.sltu (w.extractLsb' 21 5) (w.extractLsb' 16 5) (w.extractLsb' 11 5))
  | 0x00#6 => .ok (.sll (w.extractLsb' 16 5) (w.extractLsb' 11 5) (w.extractLsb' 6 5))
  | 0x02#6 => .ok (.srl (w.extractLsb' 16 5) (w.extractLsb' 11 5) (w.extractLsb' 6 5))
  | 0x03#6 => .ok (.sra (w.extractLsb' 16 5) (w.extractLsb' 11 5) (w.extractLsb' 6 5))
  | 0x04#6 => .ok (.sllv (w.extractLsb' 21 5) (w.extractLsb' 16 5) (w.extractLsb' 11 5))
  | 0x06#6 => .ok (.srlv (w.extractLsb' 21 5) (w.extractLsb' 16 5) (w.extractLsb' 11 5))
  | 0x07#6 => .ok (.srav (w.extractLsb' 21 5) (w.extractLsb' 16 5) (w.extractLsb' 11 5))
  | 0x38#6 => .ok (.dsll (w.extractLsb' 16 5) (w.extractLsb' 11 5) (w.extractLsb' 6 5))
  | 0x3a#6 => .ok (.dsrl (w.extractLsb' 16 5) (w.extractLsb' 11 5) (w.extractLsb' 6 5))
  | 0x3b#6 => .ok (.dsra (w.extractLsb' 16 5) (w.extractLsb' 11 5) (w.extractLsb' 6 5))
  | 0x14#6 => .ok (.dsllv (w.extractLsb' 21 5) (w.extractLsb' 16 5) (w.extractLsb' 11 5))
  | 0x16#6 => .ok (.dsrlv (w.extractLsb' 21 5) (w.extractLsb' 16 5) (w.extractLsb' 11 5))
  | 0x17#6 => .ok (.dsrav (w.extractLsb' 21 5) (w.extractLsb' 16 5) (w.extractLsb' 11 5))
  | 0x3c#6 => .ok (.dsll32 (w.extractLsb' 16 5) (w.extractLsb' 11 5) (w.extractLsb' 6 5))
  | 0x3e#6 => .ok (.dsrl32 (w.extractLsb' 16 5) (w.extractLsb' 11 5) (w.extractLsb' 6 5))
  | 0x3f#6 => .ok (.dsra32 (w.extractLsb' 16 5) (w.extractLsb' 11 5) (w.extractLsb' 6 5))
  | 0x0b#6 => .ok (.movn (w.extractLsb' 21 5) (w.extractLsb' 16 5) (w.extractLsb' 11 5))
  | 0x0a#6 => .ok (.movz (w.extractLsb' 21 5) (w.extractLsb' 16 5) (w.extractLsb' 11 5))
  | 0x01#6 => if w.extractLsb' 16 1 = 0#1 then .ok (.movf (w.extractLsb' 21 5) (w.extractLsb' 18 3) (w.extractLsb' 11 5))
      else .ok (.movt (w.extractLsb' 21 5) (w.extractLsb' 18 3) (w.extractLsb' 11 5))
  | 0x18#6 => .ok (.mult (w.extractLsb' 21 5) (w.extractLsb' 16 5))
  | 0x19#6 => .ok (.multu (w.extractLsb' 21 5) (w.extractLsb' 16 5))
  | 0x1a#6 => .ok (.div (w.extractLsb' 21 5) (w.extractLsb' 16 5))
  | 0x1b#6 => .ok (.divu (w.extractLsb' 21 5) (w.extractLsb' 16 5))
  | 0x1c#6 => .ok (.dmult (w.extractLsb' 21 5) (w.extractLsb' 16 5))
  | 0x1d#6 => .ok (.dmultu (w.extractLsb' 21 5) (w.extractLsb' 16 5))
  | 0x1e#6 => .ok (.ddiv (w.extractLsb' 21 5) (w.extractLsb' 16 5))
  | 0x1f#6 => .ok (.ddivu (w.extractLsb' 21 5) (w.extractLsb' 16 5))
  | 0x10#6 => .ok (.mfhi (w.extractLsb' 11 5))
  | 0x12#6 => .ok (.mflo (w.extractLsb' 11 5))
  | 0x11#6 => .ok (.mthi (w.extractLsb' 21 5))
  | 0x13#6 => .ok (.mtlo (w.extractLsb' 21 5))
  | 0x0f#6 => .ok (.sync (w.extractLsb' 6 5))
  | 0x08#6 => .ok (.jr (w.extractLsb' 21 5))
  | 0x09#6 => .ok (.jalr (w.extractLsb' 21 5) (w.extractLsb' 11 5))
  | 0x30#6 => .ok (.tge (w.extractLsb' 21 5) (w.extractLsb' 16 5) (w.extractLsb' 6 10))
  | 0x31#6 => .ok (.tgeu (w.extractLsb' 21 5) (w.extractLsb' 16 5) (w.extractLsb' 6 10))
  | 0x32#6 => .ok (.tlt (w.extractLsb' 21 5) (w.extractLsb' 16 5) (w.extractLsb' 6 10))
  | 0x33#6 => .ok (.tltu (w.extractLsb' 21 5) (w.extractLsb' 16 5) (w.extractLsb' 6 10))
  | 0x34#6 => .ok (.teq (w.extractLsb' 21 5) (w.extractLsb' 16 5) (w.extractLsb' 6 10))
  | 0x36#6 => .ok (.tne (w.extractLsb' 21 5) (w.extractLsb' 16 5) (w.extractLsb' 6 10))
  | 0x0c#6 => .ok (.syscall (w.extractLsb' 6 20))
  | 0x0d#6 => .ok (.brk (w.extractLsb' 6 20))
  | _ => .error .reservedSpecial

/-- REGIMM minor opcodes, bits 20:16 (R404). -/
def decodeRegimm (w : Word) : Except DecodeReject Instr :=
  match w.extractLsb' 16 5 with
  | 0x00#5 => .ok (.bltz (w.extractLsb' 21 5) (w.extractLsb' 0 16))
  | 0x01#5 => .ok (.bgez (w.extractLsb' 21 5) (w.extractLsb' 0 16))
  | 0x10#5 => .ok (.bltzal (w.extractLsb' 21 5) (w.extractLsb' 0 16))
  | 0x11#5 => .ok (.bgezal (w.extractLsb' 21 5) (w.extractLsb' 0 16))
  | 0x02#5 => .ok (.bltzl (w.extractLsb' 21 5) (w.extractLsb' 0 16))
  | 0x03#5 => .ok (.bgezl (w.extractLsb' 21 5) (w.extractLsb' 0 16))
  | 0x12#5 => .ok (.bltzall (w.extractLsb' 21 5) (w.extractLsb' 0 16))
  | 0x13#5 => .ok (.bgezall (w.extractLsb' 21 5) (w.extractLsb' 0 16))
  | 0x08#5 => .ok (.tgei (w.extractLsb' 21 5) (w.extractLsb' 0 16))
  | 0x09#5 => .ok (.tgeiu (w.extractLsb' 21 5) (w.extractLsb' 0 16))
  | 0x0a#5 => .ok (.tlti (w.extractLsb' 21 5) (w.extractLsb' 0 16))
  | 0x0b#5 => .ok (.tltiu (w.extractLsb' 21 5) (w.extractLsb' 0 16))
  | 0x0c#5 => .ok (.teqi (w.extractLsb' 21 5) (w.extractLsb' 0 16))
  | 0x0e#5 => .ok (.tnei (w.extractLsb' 21 5) (w.extractLsb' 0 16))
  | _ => .error .reservedRegimm

/-- COP0 operations, selected by bits 5:0 when bit 25 is set (R405). -/
def decodeCop0Function (w : Word) : Except DecodeReject Instr :=
  match w.extractLsb' 0 6 with
  | 0x01#6 => .ok (.tlbr)
  | 0x02#6 => .ok (.tlbwi)
  | 0x06#6 => .ok (.tlbwr)
  | 0x08#6 => .ok (.tlbp)
  | 0x18#6 => .ok (.eret)
  | 0x10#6 => .ok (.rfe)
  | _ => .error .undefinedCop0

/-- COP0: the moves by bits 25:21, the operations when bit 25 is set (R405). -/
def decodeCop0 (w : Word) : Except DecodeReject Instr :=
  if w.extractLsb' 25 1 = 1#1 then decodeCop0Function w
  else match w.extractLsb' 21 5 with
    | 0x00#5 => .ok (.mfc0 (w.extractLsb' 16 5) (w.extractLsb' 11 5) (selField w))
    | 0x01#5 => .ok (.dmfc0 (w.extractLsb' 16 5) (w.extractLsb' 11 5) (selField w))
    | 0x04#5 => .ok (.mtc0 (w.extractLsb' 16 5) (w.extractLsb' 11 5) (selField w))
    | 0x05#5 => .ok (.dmtc0 (w.extractLsb' 16 5) (w.extractLsb' 11 5) (selField w))
    | _ => .error .undefinedCop0

/-- The four BC1 branches, by `nd` and `tf`, bits 17:16 (R406). -/
def decodeBc1 (w : Word) : Except DecodeReject Instr :=
  match w.extractLsb' 16 2 with
  | 0x0#2 => .ok (.bc1f (w.extractLsb' 18 3) (w.extractLsb' 0 16))
  | 0x1#2 => .ok (.bc1t (w.extractLsb' 18 3) (w.extractLsb' 0 16))
  | 0x2#2 => .ok (.bc1fl (w.extractLsb' 18 3) (w.extractLsb' 0 16))
  | 0x3#2 => .ok (.bc1tl (w.extractLsb' 18 3) (w.extractLsb' 0 16))

/-- COP1 functions for fmt = S, bits 5:0 (R407). -/
def decodeCop1S (w : Word) : Except DecodeReject Instr :=
  match w.extractLsb' 0 6 with
  | 0x00#6 => .ok (.addS (w.extractLsb' 16 5) (w.extractLsb' 11 5) (w.extractLsb' 6 5))
  | 0x01#6 => .ok (.subS (w.extractLsb' 16 5) (w.extractLsb' 11 5) (w.extractLsb' 6 5))
  | 0x02#6 => .ok (.mulS (w.extractLsb' 16 5) (w.extractLsb' 11 5) (w.extractLsb' 6 5))
  | 0x03#6 => .ok (.divS (w.extractLsb' 16 5) (w.extractLsb' 11 5) (w.extractLsb' 6 5))
  | 0x04#6 => .ok (.sqrtS (w.extractLsb' 11 5) (w.extractLsb' 6 5))
  | 0x05#6 => .ok (.absS (w.extractLsb' 11 5) (w.extractLsb' 6 5))
  | 0x06#6 => .ok (.movS (w.extractLsb' 11 5) (w.extractLsb' 6 5))
  | 0x07#6 => .ok (.negS (w.extractLsb' 11 5) (w.extractLsb' 6 5))
  | 0x08#6 => .ok (.roundLS (w.extractLsb' 11 5) (w.extractLsb' 6 5))
  | 0x09#6 => .ok (.truncLS (w.extractLsb' 11 5) (w.extractLsb' 6 5))
  | 0x0a#6 => .ok (.ceilLS (w.extractLsb' 11 5) (w.extractLsb' 6 5))
  | 0x0b#6 => .ok (.floorLS (w.extractLsb' 11 5) (w.extractLsb' 6 5))
  | 0x0c#6 => .ok (.roundWS (w.extractLsb' 11 5) (w.extractLsb' 6 5))
  | 0x0d#6 => .ok (.truncWS (w.extractLsb' 11 5) (w.extractLsb' 6 5))
  | 0x0e#6 => .ok (.ceilWS (w.extractLsb' 11 5) (w.extractLsb' 6 5))
  | 0x0f#6 => .ok (.floorWS (w.extractLsb' 11 5) (w.extractLsb' 6 5))
  | 0x21#6 => .ok (.cvtDS (w.extractLsb' 11 5) (w.extractLsb' 6 5))
  | 0x24#6 => .ok (.cvtWS (w.extractLsb' 11 5) (w.extractLsb' 6 5))
  | 0x25#6 => .ok (.cvtLS (w.extractLsb' 11 5) (w.extractLsb' 6 5))
  | 0x11#6 => if w.extractLsb' 16 1 = 0#1 then .ok (.movfS (w.extractLsb' 18 3) (w.extractLsb' 11 5) (w.extractLsb' 6 5))
      else .ok (.movtS (w.extractLsb' 18 3) (w.extractLsb' 11 5) (w.extractLsb' 6 5))
  | 0x12#6 => .ok (.movzS (w.extractLsb' 16 5) (w.extractLsb' 11 5) (w.extractLsb' 6 5))
  | 0x13#6 => .ok (.movnS (w.extractLsb' 16 5) (w.extractLsb' 11 5) (w.extractLsb' 6 5))
  | 0x15#6 => .ok (.recipS (w.extractLsb' 11 5) (w.extractLsb' 6 5))
  | 0x16#6 => .ok (.rsqrtS (w.extractLsb' 11 5) (w.extractLsb' 6 5))
  | 0x30#6 => .ok (.cFS (w.extractLsb' 16 5) (w.extractLsb' 11 5) (w.extractLsb' 8 3))
  | 0x31#6 => .ok (.cUnS (w.extractLsb' 16 5) (w.extractLsb' 11 5) (w.extractLsb' 8 3))
  | 0x32#6 => .ok (.cEqS (w.extractLsb' 16 5) (w.extractLsb' 11 5) (w.extractLsb' 8 3))
  | 0x33#6 => .ok (.cUeqS (w.extractLsb' 16 5) (w.extractLsb' 11 5) (w.extractLsb' 8 3))
  | 0x34#6 => .ok (.cOltS (w.extractLsb' 16 5) (w.extractLsb' 11 5) (w.extractLsb' 8 3))
  | 0x35#6 => .ok (.cUltS (w.extractLsb' 16 5) (w.extractLsb' 11 5) (w.extractLsb' 8 3))
  | 0x36#6 => .ok (.cOleS (w.extractLsb' 16 5) (w.extractLsb' 11 5) (w.extractLsb' 8 3))
  | 0x37#6 => .ok (.cUleS (w.extractLsb' 16 5) (w.extractLsb' 11 5) (w.extractLsb' 8 3))
  | 0x38#6 => .ok (.cSfS (w.extractLsb' 16 5) (w.extractLsb' 11 5) (w.extractLsb' 8 3))
  | 0x39#6 => .ok (.cNgleS (w.extractLsb' 16 5) (w.extractLsb' 11 5) (w.extractLsb' 8 3))
  | 0x3a#6 => .ok (.cSeqS (w.extractLsb' 16 5) (w.extractLsb' 11 5) (w.extractLsb' 8 3))
  | 0x3b#6 => .ok (.cNglS (w.extractLsb' 16 5) (w.extractLsb' 11 5) (w.extractLsb' 8 3))
  | 0x3c#6 => .ok (.cLtS (w.extractLsb' 16 5) (w.extractLsb' 11 5) (w.extractLsb' 8 3))
  | 0x3d#6 => .ok (.cNgeS (w.extractLsb' 16 5) (w.extractLsb' 11 5) (w.extractLsb' 8 3))
  | 0x3e#6 => .ok (.cLeS (w.extractLsb' 16 5) (w.extractLsb' 11 5) (w.extractLsb' 8 3))
  | 0x3f#6 => .ok (.cNgtS (w.extractLsb' 16 5) (w.extractLsb' 11 5) (w.extractLsb' 8 3))
  | _ => .error .undefinedCop1Op

/-- COP1 functions for fmt = D, bits 5:0 (R407). -/
def decodeCop1D (w : Word) : Except DecodeReject Instr :=
  match w.extractLsb' 0 6 with
  | 0x00#6 => .ok (.addD (w.extractLsb' 16 5) (w.extractLsb' 11 5) (w.extractLsb' 6 5))
  | 0x01#6 => .ok (.subD (w.extractLsb' 16 5) (w.extractLsb' 11 5) (w.extractLsb' 6 5))
  | 0x02#6 => .ok (.mulD (w.extractLsb' 16 5) (w.extractLsb' 11 5) (w.extractLsb' 6 5))
  | 0x03#6 => .ok (.divD (w.extractLsb' 16 5) (w.extractLsb' 11 5) (w.extractLsb' 6 5))
  | 0x04#6 => .ok (.sqrtD (w.extractLsb' 11 5) (w.extractLsb' 6 5))
  | 0x05#6 => .ok (.absD (w.extractLsb' 11 5) (w.extractLsb' 6 5))
  | 0x06#6 => .ok (.movD (w.extractLsb' 11 5) (w.extractLsb' 6 5))
  | 0x07#6 => .ok (.negD (w.extractLsb' 11 5) (w.extractLsb' 6 5))
  | 0x08#6 => .ok (.roundLD (w.extractLsb' 11 5) (w.extractLsb' 6 5))
  | 0x09#6 => .ok (.truncLD (w.extractLsb' 11 5) (w.extractLsb' 6 5))
  | 0x0a#6 => .ok (.ceilLD (w.extractLsb' 11 5) (w.extractLsb' 6 5))
  | 0x0b#6 => .ok (.floorLD (w.extractLsb' 11 5) (w.extractLsb' 6 5))
  | 0x0c#6 => .ok (.roundWD (w.extractLsb' 11 5) (w.extractLsb' 6 5))
  | 0x0d#6 => .ok (.truncWD (w.extractLsb' 11 5) (w.extractLsb' 6 5))
  | 0x0e#6 => .ok (.ceilWD (w.extractLsb' 11 5) (w.extractLsb' 6 5))
  | 0x0f#6 => .ok (.floorWD (w.extractLsb' 11 5) (w.extractLsb' 6 5))
  | 0x20#6 => .ok (.cvtSD (w.extractLsb' 11 5) (w.extractLsb' 6 5))
  | 0x24#6 => .ok (.cvtWD (w.extractLsb' 11 5) (w.extractLsb' 6 5))
  | 0x25#6 => .ok (.cvtLD (w.extractLsb' 11 5) (w.extractLsb' 6 5))
  | 0x11#6 => if w.extractLsb' 16 1 = 0#1 then .ok (.movfD (w.extractLsb' 18 3) (w.extractLsb' 11 5) (w.extractLsb' 6 5))
      else .ok (.movtD (w.extractLsb' 18 3) (w.extractLsb' 11 5) (w.extractLsb' 6 5))
  | 0x12#6 => .ok (.movzD (w.extractLsb' 16 5) (w.extractLsb' 11 5) (w.extractLsb' 6 5))
  | 0x13#6 => .ok (.movnD (w.extractLsb' 16 5) (w.extractLsb' 11 5) (w.extractLsb' 6 5))
  | 0x15#6 => .ok (.recipD (w.extractLsb' 11 5) (w.extractLsb' 6 5))
  | 0x16#6 => .ok (.rsqrtD (w.extractLsb' 11 5) (w.extractLsb' 6 5))
  | 0x30#6 => .ok (.cFD (w.extractLsb' 16 5) (w.extractLsb' 11 5) (w.extractLsb' 8 3))
  | 0x31#6 => .ok (.cUnD (w.extractLsb' 16 5) (w.extractLsb' 11 5) (w.extractLsb' 8 3))
  | 0x32#6 => .ok (.cEqD (w.extractLsb' 16 5) (w.extractLsb' 11 5) (w.extractLsb' 8 3))
  | 0x33#6 => .ok (.cUeqD (w.extractLsb' 16 5) (w.extractLsb' 11 5) (w.extractLsb' 8 3))
  | 0x34#6 => .ok (.cOltD (w.extractLsb' 16 5) (w.extractLsb' 11 5) (w.extractLsb' 8 3))
  | 0x35#6 => .ok (.cUltD (w.extractLsb' 16 5) (w.extractLsb' 11 5) (w.extractLsb' 8 3))
  | 0x36#6 => .ok (.cOleD (w.extractLsb' 16 5) (w.extractLsb' 11 5) (w.extractLsb' 8 3))
  | 0x37#6 => .ok (.cUleD (w.extractLsb' 16 5) (w.extractLsb' 11 5) (w.extractLsb' 8 3))
  | 0x38#6 => .ok (.cSfD (w.extractLsb' 16 5) (w.extractLsb' 11 5) (w.extractLsb' 8 3))
  | 0x39#6 => .ok (.cNgleD (w.extractLsb' 16 5) (w.extractLsb' 11 5) (w.extractLsb' 8 3))
  | 0x3a#6 => .ok (.cSeqD (w.extractLsb' 16 5) (w.extractLsb' 11 5) (w.extractLsb' 8 3))
  | 0x3b#6 => .ok (.cNglD (w.extractLsb' 16 5) (w.extractLsb' 11 5) (w.extractLsb' 8 3))
  | 0x3c#6 => .ok (.cLtD (w.extractLsb' 16 5) (w.extractLsb' 11 5) (w.extractLsb' 8 3))
  | 0x3d#6 => .ok (.cNgeD (w.extractLsb' 16 5) (w.extractLsb' 11 5) (w.extractLsb' 8 3))
  | 0x3e#6 => .ok (.cLeD (w.extractLsb' 16 5) (w.extractLsb' 11 5) (w.extractLsb' 8 3))
  | 0x3f#6 => .ok (.cNgtD (w.extractLsb' 16 5) (w.extractLsb' 11 5) (w.extractLsb' 8 3))
  | _ => .error .undefinedCop1Op

/-- COP1 functions for fmt = W, bits 5:0 (R407). -/
def decodeCop1W (w : Word) : Except DecodeReject Instr :=
  match w.extractLsb' 0 6 with
  | 0x20#6 => .ok (.cvtSW (w.extractLsb' 11 5) (w.extractLsb' 6 5))
  | 0x21#6 => .ok (.cvtDW (w.extractLsb' 11 5) (w.extractLsb' 6 5))
  | _ => .error .undefinedCop1Op

/-- COP1 functions for fmt = L, bits 5:0 (R407). -/
def decodeCop1L (w : Word) : Except DecodeReject Instr :=
  match w.extractLsb' 0 6 with
  | 0x20#6 => .ok (.cvtSL (w.extractLsb' 11 5) (w.extractLsb' 6 5))
  | 0x21#6 => .ok (.cvtDL (w.extractLsb' 11 5) (w.extractLsb' 6 5))
  | _ => .error .undefinedCop1Op

/-- COP1 by its *sub* field, bits 25:21 (R406): undefined values with bits 25:24 = 0 or 1 are reserved
subs, those with 2 or 3 are undefined formats. -/
def decodeCop1 (w : Word) : Except DecodeReject Instr :=
  match w.extractLsb' 21 5 with
  | 0x00#5 => .ok (.mfc1 (w.extractLsb' 16 5) (w.extractLsb' 11 5))
  | 0x01#5 => .ok (.dmfc1 (w.extractLsb' 16 5) (w.extractLsb' 11 5))
  | 0x04#5 => .ok (.mtc1 (w.extractLsb' 16 5) (w.extractLsb' 11 5))
  | 0x05#5 => .ok (.dmtc1 (w.extractLsb' 16 5) (w.extractLsb' 11 5))
  | 0x02#5 => .ok (.cfc1 (w.extractLsb' 16 5) (w.extractLsb' 11 5))
  | 0x06#5 => .ok (.ctc1 (w.extractLsb' 16 5) (w.extractLsb' 11 5))
  | 0x08#5 => decodeBc1 w
  | 0x10#5 => decodeCop1S w
  | 0x11#5 => decodeCop1D w
  | 0x14#5 => decodeCop1W w
  | 0x15#5 => decodeCop1L w
  | _ => if w.extractLsb' 25 1 = 0#1 then .error .undefinedCop1Sub else .error .undefinedCop1Op

/-- COP1X functions, bits 5:0 (R408). -/
def decodeCop1x (w : Word) : Except DecodeReject Instr :=
  match w.extractLsb' 0 6 with
  | 0x0f#6 => .ok (.prefx (w.extractLsb' 21 5) (w.extractLsb' 16 5) (w.extractLsb' 11 5))
  | 0x00#6 => .ok (.lwxc1 (w.extractLsb' 21 5) (w.extractLsb' 16 5) (w.extractLsb' 6 5))
  | 0x01#6 => .ok (.ldxc1 (w.extractLsb' 21 5) (w.extractLsb' 16 5) (w.extractLsb' 6 5))
  | 0x08#6 => .ok (.swxc1 (w.extractLsb' 21 5) (w.extractLsb' 16 5) (w.extractLsb' 11 5))
  | 0x09#6 => .ok (.sdxc1 (w.extractLsb' 21 5) (w.extractLsb' 16 5) (w.extractLsb' 11 5))
  | 0x20#6 => .ok (.maddS (w.extractLsb' 21 5) (w.extractLsb' 16 5) (w.extractLsb' 11 5) (w.extractLsb' 6 5))
  | 0x21#6 => .ok (.maddD (w.extractLsb' 21 5) (w.extractLsb' 16 5) (w.extractLsb' 11 5) (w.extractLsb' 6 5))
  | 0x28#6 => .ok (.msubS (w.extractLsb' 21 5) (w.extractLsb' 16 5) (w.extractLsb' 11 5) (w.extractLsb' 6 5))
  | 0x29#6 => .ok (.msubD (w.extractLsb' 21 5) (w.extractLsb' 16 5) (w.extractLsb' 11 5) (w.extractLsb' 6 5))
  | 0x30#6 => .ok (.nmaddS (w.extractLsb' 21 5) (w.extractLsb' 16 5) (w.extractLsb' 11 5) (w.extractLsb' 6 5))
  | 0x31#6 => .ok (.nmaddD (w.extractLsb' 21 5) (w.extractLsb' 16 5) (w.extractLsb' 11 5) (w.extractLsb' 6 5))
  | 0x38#6 => .ok (.nmsubS (w.extractLsb' 21 5) (w.extractLsb' 16 5) (w.extractLsb' 11 5) (w.extractLsb' 6 5))
  | 0x39#6 => .ok (.nmsubD (w.extractLsb' 21 5) (w.extractLsb' 16 5) (w.extractLsb' 11 5) (w.extractLsb' 6 5))
  | _ => .error .undefinedCop1x

/-- The decoder, total on every word (R402 to R408): an instruction, or the name of the reserved encoding. Fields
that must be zero are ignored (R414). -/
def decode (w : Word) : Except DecodeReject Instr :=
  match w.extractLsb' 26 6 with
  | 0x00#6 => decodeSpecial w
  | 0x01#6 => decodeRegimm w
  | 0x10#6 => decodeCop0 w
  | 0x11#6 => decodeCop1 w
  | 0x13#6 => decodeCop1x w
  | 0x08#6 => .ok (.addi (w.extractLsb' 21 5) (w.extractLsb' 16 5) (w.extractLsb' 0 16))
  | 0x09#6 => .ok (.addiu (w.extractLsb' 21 5) (w.extractLsb' 16 5) (w.extractLsb' 0 16))
  | 0x18#6 => .ok (.daddi (w.extractLsb' 21 5) (w.extractLsb' 16 5) (w.extractLsb' 0 16))
  | 0x19#6 => .ok (.daddiu (w.extractLsb' 21 5) (w.extractLsb' 16 5) (w.extractLsb' 0 16))
  | 0x0c#6 => .ok (.andi (w.extractLsb' 21 5) (w.extractLsb' 16 5) (w.extractLsb' 0 16))
  | 0x0d#6 => .ok (.ori (w.extractLsb' 21 5) (w.extractLsb' 16 5) (w.extractLsb' 0 16))
  | 0x0e#6 => .ok (.xori (w.extractLsb' 21 5) (w.extractLsb' 16 5) (w.extractLsb' 0 16))
  | 0x0f#6 => .ok (.lui (w.extractLsb' 16 5) (w.extractLsb' 0 16))
  | 0x0a#6 => .ok (.slti (w.extractLsb' 21 5) (w.extractLsb' 16 5) (w.extractLsb' 0 16))
  | 0x0b#6 => .ok (.sltiu (w.extractLsb' 21 5) (w.extractLsb' 16 5) (w.extractLsb' 0 16))
  | 0x20#6 => .ok (.lb (w.extractLsb' 21 5) (w.extractLsb' 16 5) (w.extractLsb' 0 16))
  | 0x24#6 => .ok (.lbu (w.extractLsb' 21 5) (w.extractLsb' 16 5) (w.extractLsb' 0 16))
  | 0x21#6 => .ok (.lh (w.extractLsb' 21 5) (w.extractLsb' 16 5) (w.extractLsb' 0 16))
  | 0x25#6 => .ok (.lhu (w.extractLsb' 21 5) (w.extractLsb' 16 5) (w.extractLsb' 0 16))
  | 0x23#6 => .ok (.lw (w.extractLsb' 21 5) (w.extractLsb' 16 5) (w.extractLsb' 0 16))
  | 0x27#6 => .ok (.lwu (w.extractLsb' 21 5) (w.extractLsb' 16 5) (w.extractLsb' 0 16))
  | 0x37#6 => .ok (.ld (w.extractLsb' 21 5) (w.extractLsb' 16 5) (w.extractLsb' 0 16))
  | 0x28#6 => .ok (.sb (w.extractLsb' 21 5) (w.extractLsb' 16 5) (w.extractLsb' 0 16))
  | 0x29#6 => .ok (.sh (w.extractLsb' 21 5) (w.extractLsb' 16 5) (w.extractLsb' 0 16))
  | 0x2b#6 => .ok (.sw (w.extractLsb' 21 5) (w.extractLsb' 16 5) (w.extractLsb' 0 16))
  | 0x3f#6 => .ok (.sd (w.extractLsb' 21 5) (w.extractLsb' 16 5) (w.extractLsb' 0 16))
  | 0x22#6 => .ok (.lwl (w.extractLsb' 21 5) (w.extractLsb' 16 5) (w.extractLsb' 0 16))
  | 0x26#6 => .ok (.lwr (w.extractLsb' 21 5) (w.extractLsb' 16 5) (w.extractLsb' 0 16))
  | 0x2a#6 => .ok (.swl (w.extractLsb' 21 5) (w.extractLsb' 16 5) (w.extractLsb' 0 16))
  | 0x2e#6 => .ok (.swr (w.extractLsb' 21 5) (w.extractLsb' 16 5) (w.extractLsb' 0 16))
  | 0x1a#6 => .ok (.ldl (w.extractLsb' 21 5) (w.extractLsb' 16 5) (w.extractLsb' 0 16))
  | 0x1b#6 => .ok (.ldr (w.extractLsb' 21 5) (w.extractLsb' 16 5) (w.extractLsb' 0 16))
  | 0x2c#6 => .ok (.sdl (w.extractLsb' 21 5) (w.extractLsb' 16 5) (w.extractLsb' 0 16))
  | 0x2d#6 => .ok (.sdr (w.extractLsb' 21 5) (w.extractLsb' 16 5) (w.extractLsb' 0 16))
  | 0x30#6 => .ok (.ll (w.extractLsb' 21 5) (w.extractLsb' 16 5) (w.extractLsb' 0 16))
  | 0x34#6 => .ok (.lld (w.extractLsb' 21 5) (w.extractLsb' 16 5) (w.extractLsb' 0 16))
  | 0x38#6 => .ok (.sc (w.extractLsb' 21 5) (w.extractLsb' 16 5) (w.extractLsb' 0 16))
  | 0x3c#6 => .ok (.scd (w.extractLsb' 21 5) (w.extractLsb' 16 5) (w.extractLsb' 0 16))
  | 0x33#6 => .ok (.pref (w.extractLsb' 21 5) (w.extractLsb' 16 5) (w.extractLsb' 0 16))
  | 0x02#6 => .ok (.j (w.extractLsb' 0 26))
  | 0x03#6 => .ok (.jal (w.extractLsb' 0 26))
  | 0x04#6 => .ok (.beq (w.extractLsb' 21 5) (w.extractLsb' 16 5) (w.extractLsb' 0 16))
  | 0x05#6 => .ok (.bne (w.extractLsb' 21 5) (w.extractLsb' 16 5) (w.extractLsb' 0 16))
  | 0x06#6 => .ok (.blez (w.extractLsb' 21 5) (w.extractLsb' 0 16))
  | 0x07#6 => .ok (.bgtz (w.extractLsb' 21 5) (w.extractLsb' 0 16))
  | 0x14#6 => .ok (.beql (w.extractLsb' 21 5) (w.extractLsb' 16 5) (w.extractLsb' 0 16))
  | 0x15#6 => .ok (.bnel (w.extractLsb' 21 5) (w.extractLsb' 16 5) (w.extractLsb' 0 16))
  | 0x16#6 => .ok (.blezl (w.extractLsb' 21 5) (w.extractLsb' 0 16))
  | 0x17#6 => .ok (.bgtzl (w.extractLsb' 21 5) (w.extractLsb' 0 16))
  | 0x31#6 => .ok (.lwc1 (w.extractLsb' 21 5) (w.extractLsb' 16 5) (w.extractLsb' 0 16))
  | 0x35#6 => .ok (.ldc1 (w.extractLsb' 21 5) (w.extractLsb' 16 5) (w.extractLsb' 0 16))
  | 0x39#6 => .ok (.swc1 (w.extractLsb' 21 5) (w.extractLsb' 16 5) (w.extractLsb' 0 16))
  | 0x3d#6 => .ok (.sdc1 (w.extractLsb' 21 5) (w.extractLsb' 16 5) (w.extractLsb' 0 16))
  | 0x2f#6 => .ok (.cache (w.extractLsb' 21 5) (w.extractLsb' 16 5) (w.extractLsb' 0 16))
  | 0x12#6 => .ok (.cop2 (w.extractLsb' 0 26))
  | 0x32#6 => .ok (.lwc2 (w.extractLsb' 0 26))
  | 0x3a#6 => .ok (.swc2 (w.extractLsb' 0 26))
  | 0x36#6 => .ok (.ldc2 (w.extractLsb' 0 26))
  | 0x3e#6 => .ok (.sdc2 (w.extractLsb' 0 26))
  | _ => .error .reservedMajor

/-- An R-format word (R401): `opcode rs rt rd sa function`; also the COP1 and COP1X forms with their fields in the
same columns. -/
def encR (op : BitVec 6) (rs rt rd sa : BitVec 5) (fn : BitVec 6) : Word := op ++ rs ++ rt ++ rd ++ sa ++ fn

/-- An I-format word (R401): `opcode rs rt immediate`. -/
def encI (op : BitVec 6) (rs rt : BitVec 5) (imm : BitVec 16) : Word := op ++ rs ++ rt ++ imm

/-- A J-format word (R401): `opcode instr_index`. -/
def encJ (op : BitVec 6) (target : BitVec 26) : Word := op ++ target

/-- The `code` forms of SYSCALL and BREAK: a 20-bit code in bits 25:6 (R401). -/
def encCode20 (code : BitVec 20) (fn : BitVec 6) : Word := 0#6 ++ code ++ fn

/-- The register-form traps: a 10-bit code in bits 15:6 (R401). -/
def encCode10 (rs rt : BitVec 5) (code : BitVec 10) (fn : BitVec 6) : Word := 0#6 ++ rs ++ rt ++ code ++ fn

/-- The `rt` column of the condition-code forms: `cc` 20:18, `nd` 17, `tf` 16 (R401). -/
def ccColumn (cc : BitVec 3) (nd tf : BitVec 1) : BitVec 5 := cc ++ nd ++ tf

/-- The `sa` column of the compares: `cc` 10:8, zero 7:6 (R401). -/
def cmpColumn (cc : BitVec 3) : BitVec 5 := cc ++ 0#2

/-- The `sa` column and function field of a CP0 move: zero but for bits 3:0 (R401, R178). -/
def encCp0Move (sub rt rd : BitVec 5) (sel : BitVec 4) : Word := 0x10#6 ++ sub ++ rt ++ rd ++ 0#7 ++ sel

/-- The word of an instruction, written from the encoding tables of spec/30_encoding.md (must-be-zero fields 0). -/
def encode : Instr → Word
  | .add rs rt rd => encR 0x00#6 rs rt rd 0x00#5 0x20#6
  | .addu rs rt rd => encR 0x00#6 rs rt rd 0x00#5 0x21#6
  | .sub rs rt rd => encR 0x00#6 rs rt rd 0x00#5 0x22#6
  | .subu rs rt rd => encR 0x00#6 rs rt rd 0x00#5 0x23#6
  | .addi rs rt imm => encI 0x08#6 rs rt imm
  | .addiu rs rt imm => encI 0x09#6 rs rt imm
  | .dadd rs rt rd => encR 0x00#6 rs rt rd 0x00#5 0x2c#6
  | .daddu rs rt rd => encR 0x00#6 rs rt rd 0x00#5 0x2d#6
  | .dsub rs rt rd => encR 0x00#6 rs rt rd 0x00#5 0x2e#6
  | .dsubu rs rt rd => encR 0x00#6 rs rt rd 0x00#5 0x2f#6
  | .daddi rs rt imm => encI 0x18#6 rs rt imm
  | .daddiu rs rt imm => encI 0x19#6 rs rt imm
  | .and rs rt rd => encR 0x00#6 rs rt rd 0x00#5 0x24#6
  | .or rs rt rd => encR 0x00#6 rs rt rd 0x00#5 0x25#6
  | .xor rs rt rd => encR 0x00#6 rs rt rd 0x00#5 0x26#6
  | .nor rs rt rd => encR 0x00#6 rs rt rd 0x00#5 0x27#6
  | .andi rs rt imm => encI 0x0c#6 rs rt imm
  | .ori rs rt imm => encI 0x0d#6 rs rt imm
  | .xori rs rt imm => encI 0x0e#6 rs rt imm
  | .lui rt imm => encI 0x0f#6 0x00#5 rt imm
  | .slt rs rt rd => encR 0x00#6 rs rt rd 0x00#5 0x2a#6
  | .sltu rs rt rd => encR 0x00#6 rs rt rd 0x00#5 0x2b#6
  | .slti rs rt imm => encI 0x0a#6 rs rt imm
  | .sltiu rs rt imm => encI 0x0b#6 rs rt imm
  | .sll rt rd sa => encR 0x00#6 0x00#5 rt rd sa 0x00#6
  | .srl rt rd sa => encR 0x00#6 0x00#5 rt rd sa 0x02#6
  | .sra rt rd sa => encR 0x00#6 0x00#5 rt rd sa 0x03#6
  | .sllv rs rt rd => encR 0x00#6 rs rt rd 0x00#5 0x04#6
  | .srlv rs rt rd => encR 0x00#6 rs rt rd 0x00#5 0x06#6
  | .srav rs rt rd => encR 0x00#6 rs rt rd 0x00#5 0x07#6
  | .dsll rt rd sa => encR 0x00#6 0x00#5 rt rd sa 0x38#6
  | .dsrl rt rd sa => encR 0x00#6 0x00#5 rt rd sa 0x3a#6
  | .dsra rt rd sa => encR 0x00#6 0x00#5 rt rd sa 0x3b#6
  | .dsllv rs rt rd => encR 0x00#6 rs rt rd 0x00#5 0x14#6
  | .dsrlv rs rt rd => encR 0x00#6 rs rt rd 0x00#5 0x16#6
  | .dsrav rs rt rd => encR 0x00#6 rs rt rd 0x00#5 0x17#6
  | .dsll32 rt rd sa => encR 0x00#6 0x00#5 rt rd sa 0x3c#6
  | .dsrl32 rt rd sa => encR 0x00#6 0x00#5 rt rd sa 0x3e#6
  | .dsra32 rt rd sa => encR 0x00#6 0x00#5 rt rd sa 0x3f#6
  | .movn rs rt rd => encR 0x00#6 rs rt rd 0x00#5 0x0b#6
  | .movz rs rt rd => encR 0x00#6 rs rt rd 0x00#5 0x0a#6
  | .movf rs cc rd => encR 0x00#6 rs (ccColumn cc 0#1 0#1) rd 0x00#5 0x01#6
  | .movt rs cc rd => encR 0x00#6 rs (ccColumn cc 0#1 1#1) rd 0x00#5 0x01#6
  | .mult rs rt => encR 0x00#6 rs rt 0x00#5 0x00#5 0x18#6
  | .multu rs rt => encR 0x00#6 rs rt 0x00#5 0x00#5 0x19#6
  | .div rs rt => encR 0x00#6 rs rt 0x00#5 0x00#5 0x1a#6
  | .divu rs rt => encR 0x00#6 rs rt 0x00#5 0x00#5 0x1b#6
  | .dmult rs rt => encR 0x00#6 rs rt 0x00#5 0x00#5 0x1c#6
  | .dmultu rs rt => encR 0x00#6 rs rt 0x00#5 0x00#5 0x1d#6
  | .ddiv rs rt => encR 0x00#6 rs rt 0x00#5 0x00#5 0x1e#6
  | .ddivu rs rt => encR 0x00#6 rs rt 0x00#5 0x00#5 0x1f#6
  | .mfhi rd => encR 0x00#6 0x00#5 0x00#5 rd 0x00#5 0x10#6
  | .mflo rd => encR 0x00#6 0x00#5 0x00#5 rd 0x00#5 0x12#6
  | .mthi rs => encR 0x00#6 rs 0x00#5 0x00#5 0x00#5 0x11#6
  | .mtlo rs => encR 0x00#6 rs 0x00#5 0x00#5 0x00#5 0x13#6
  | .lb base rt offset => encI 0x20#6 base rt offset
  | .lbu base rt offset => encI 0x24#6 base rt offset
  | .lh base rt offset => encI 0x21#6 base rt offset
  | .lhu base rt offset => encI 0x25#6 base rt offset
  | .lw base rt offset => encI 0x23#6 base rt offset
  | .lwu base rt offset => encI 0x27#6 base rt offset
  | .ld base rt offset => encI 0x37#6 base rt offset
  | .sb base rt offset => encI 0x28#6 base rt offset
  | .sh base rt offset => encI 0x29#6 base rt offset
  | .sw base rt offset => encI 0x2b#6 base rt offset
  | .sd base rt offset => encI 0x3f#6 base rt offset
  | .lwl base rt offset => encI 0x22#6 base rt offset
  | .lwr base rt offset => encI 0x26#6 base rt offset
  | .swl base rt offset => encI 0x2a#6 base rt offset
  | .swr base rt offset => encI 0x2e#6 base rt offset
  | .ldl base rt offset => encI 0x1a#6 base rt offset
  | .ldr base rt offset => encI 0x1b#6 base rt offset
  | .sdl base rt offset => encI 0x2c#6 base rt offset
  | .sdr base rt offset => encI 0x2d#6 base rt offset
  | .ll base rt offset => encI 0x30#6 base rt offset
  | .lld base rt offset => encI 0x34#6 base rt offset
  | .sc base rt offset => encI 0x38#6 base rt offset
  | .scd base rt offset => encI 0x3c#6 base rt offset
  | .sync stype => encR 0x00#6 0x00#5 0x00#5 0x00#5 stype 0x0f#6
  | .pref base hint offset => encI 0x33#6 base hint offset
  | .prefx base index hint => encR 0x13#6 base index hint 0x00#5 0x0f#6
  | .j target => encJ 0x02#6 target
  | .jal target => encJ 0x03#6 target
  | .jr rs => encR 0x00#6 rs 0x00#5 0x00#5 0x00#5 0x08#6
  | .jalr rs rd => encR 0x00#6 rs 0x00#5 rd 0x00#5 0x09#6
  | .beq rs rt offset => encI 0x04#6 rs rt offset
  | .bne rs rt offset => encI 0x05#6 rs rt offset
  | .blez rs offset => encI 0x06#6 rs 0x00#5 offset
  | .bgtz rs offset => encI 0x07#6 rs 0x00#5 offset
  | .bltz rs offset => encI 0x01#6 rs 0x00#5 offset
  | .bgez rs offset => encI 0x01#6 rs 0x01#5 offset
  | .bltzal rs offset => encI 0x01#6 rs 0x10#5 offset
  | .bgezal rs offset => encI 0x01#6 rs 0x11#5 offset
  | .beql rs rt offset => encI 0x14#6 rs rt offset
  | .bnel rs rt offset => encI 0x15#6 rs rt offset
  | .blezl rs offset => encI 0x16#6 rs 0x00#5 offset
  | .bgtzl rs offset => encI 0x17#6 rs 0x00#5 offset
  | .bltzl rs offset => encI 0x01#6 rs 0x02#5 offset
  | .bgezl rs offset => encI 0x01#6 rs 0x03#5 offset
  | .bltzall rs offset => encI 0x01#6 rs 0x12#5 offset
  | .bgezall rs offset => encI 0x01#6 rs 0x13#5 offset
  | .tge rs rt code => encCode10 rs rt code 0x30#6
  | .tgeu rs rt code => encCode10 rs rt code 0x31#6
  | .tlt rs rt code => encCode10 rs rt code 0x32#6
  | .tltu rs rt code => encCode10 rs rt code 0x33#6
  | .teq rs rt code => encCode10 rs rt code 0x34#6
  | .tne rs rt code => encCode10 rs rt code 0x36#6
  | .tgei rs imm => encI 0x01#6 rs 0x08#5 imm
  | .tgeiu rs imm => encI 0x01#6 rs 0x09#5 imm
  | .tlti rs imm => encI 0x01#6 rs 0x0a#5 imm
  | .tltiu rs imm => encI 0x01#6 rs 0x0b#5 imm
  | .teqi rs imm => encI 0x01#6 rs 0x0c#5 imm
  | .tnei rs imm => encI 0x01#6 rs 0x0e#5 imm
  | .syscall code => encCode20 code 0x0c#6
  | .brk code => encCode20 code 0x0d#6
  | .mfc0 rt rd sel => encCp0Move 0x00#5 rt rd sel
  | .dmfc0 rt rd sel => encCp0Move 0x01#5 rt rd sel
  | .mtc0 rt rd sel => encCp0Move 0x04#5 rt rd sel
  | .dmtc0 rt rd sel => encCp0Move 0x05#5 rt rd sel
  | .tlbr => encR 0x10#6 0x10#5 0x00#5 0x00#5 0x00#5 0x01#6
  | .tlbwi => encR 0x10#6 0x10#5 0x00#5 0x00#5 0x00#5 0x02#6
  | .tlbwr => encR 0x10#6 0x10#5 0x00#5 0x00#5 0x00#5 0x06#6
  | .tlbp => encR 0x10#6 0x10#5 0x00#5 0x00#5 0x00#5 0x08#6
  | .eret => encR 0x10#6 0x10#5 0x00#5 0x00#5 0x00#5 0x18#6
  | .mfc1 rt fs => encR 0x11#6 0x00#5 rt fs 0x00#5 0x00#6
  | .dmfc1 rt fs => encR 0x11#6 0x01#5 rt fs 0x00#5 0x00#6
  | .mtc1 rt fs => encR 0x11#6 0x04#5 rt fs 0x00#5 0x00#6
  | .dmtc1 rt fs => encR 0x11#6 0x05#5 rt fs 0x00#5 0x00#6
  | .cfc1 rt fs => encR 0x11#6 0x02#5 rt fs 0x00#5 0x00#6
  | .ctc1 rt fs => encR 0x11#6 0x06#5 rt fs 0x00#5 0x00#6
  | .lwc1 base ft offset => encI 0x31#6 base ft offset
  | .ldc1 base ft offset => encI 0x35#6 base ft offset
  | .swc1 base ft offset => encI 0x39#6 base ft offset
  | .sdc1 base ft offset => encI 0x3d#6 base ft offset
  | .lwxc1 base index fd => encR 0x13#6 base index 0x00#5 fd 0x00#6
  | .ldxc1 base index fd => encR 0x13#6 base index 0x00#5 fd 0x01#6
  | .swxc1 base index fs => encR 0x13#6 base index fs 0x00#5 0x08#6
  | .sdxc1 base index fs => encR 0x13#6 base index fs 0x00#5 0x09#6
  | .bc1f cc offset => encI 0x11#6 0x08#5 (ccColumn cc 0#1 0#1) offset
  | .bc1t cc offset => encI 0x11#6 0x08#5 (ccColumn cc 0#1 1#1) offset
  | .bc1fl cc offset => encI 0x11#6 0x08#5 (ccColumn cc 1#1 0#1) offset
  | .bc1tl cc offset => encI 0x11#6 0x08#5 (ccColumn cc 1#1 1#1) offset
  | .addS ft fs fd => encR 0x11#6 0x10#5 ft fs fd 0x00#6
  | .addD ft fs fd => encR 0x11#6 0x11#5 ft fs fd 0x00#6
  | .subS ft fs fd => encR 0x11#6 0x10#5 ft fs fd 0x01#6
  | .subD ft fs fd => encR 0x11#6 0x11#5 ft fs fd 0x01#6
  | .mulS ft fs fd => encR 0x11#6 0x10#5 ft fs fd 0x02#6
  | .mulD ft fs fd => encR 0x11#6 0x11#5 ft fs fd 0x02#6
  | .divS ft fs fd => encR 0x11#6 0x10#5 ft fs fd 0x03#6
  | .divD ft fs fd => encR 0x11#6 0x11#5 ft fs fd 0x03#6
  | .sqrtS fs fd => encR 0x11#6 0x10#5 0x00#5 fs fd 0x04#6
  | .sqrtD fs fd => encR 0x11#6 0x11#5 0x00#5 fs fd 0x04#6
  | .absS fs fd => encR 0x11#6 0x10#5 0x00#5 fs fd 0x05#6
  | .absD fs fd => encR 0x11#6 0x11#5 0x00#5 fs fd 0x05#6
  | .movS fs fd => encR 0x11#6 0x10#5 0x00#5 fs fd 0x06#6
  | .movD fs fd => encR 0x11#6 0x11#5 0x00#5 fs fd 0x06#6
  | .negS fs fd => encR 0x11#6 0x10#5 0x00#5 fs fd 0x07#6
  | .negD fs fd => encR 0x11#6 0x11#5 0x00#5 fs fd 0x07#6
  | .roundLS fs fd => encR 0x11#6 0x10#5 0x00#5 fs fd 0x08#6
  | .roundLD fs fd => encR 0x11#6 0x11#5 0x00#5 fs fd 0x08#6
  | .truncLS fs fd => encR 0x11#6 0x10#5 0x00#5 fs fd 0x09#6
  | .truncLD fs fd => encR 0x11#6 0x11#5 0x00#5 fs fd 0x09#6
  | .ceilLS fs fd => encR 0x11#6 0x10#5 0x00#5 fs fd 0x0a#6
  | .ceilLD fs fd => encR 0x11#6 0x11#5 0x00#5 fs fd 0x0a#6
  | .floorLS fs fd => encR 0x11#6 0x10#5 0x00#5 fs fd 0x0b#6
  | .floorLD fs fd => encR 0x11#6 0x11#5 0x00#5 fs fd 0x0b#6
  | .roundWS fs fd => encR 0x11#6 0x10#5 0x00#5 fs fd 0x0c#6
  | .roundWD fs fd => encR 0x11#6 0x11#5 0x00#5 fs fd 0x0c#6
  | .truncWS fs fd => encR 0x11#6 0x10#5 0x00#5 fs fd 0x0d#6
  | .truncWD fs fd => encR 0x11#6 0x11#5 0x00#5 fs fd 0x0d#6
  | .ceilWS fs fd => encR 0x11#6 0x10#5 0x00#5 fs fd 0x0e#6
  | .ceilWD fs fd => encR 0x11#6 0x11#5 0x00#5 fs fd 0x0e#6
  | .floorWS fs fd => encR 0x11#6 0x10#5 0x00#5 fs fd 0x0f#6
  | .floorWD fs fd => encR 0x11#6 0x11#5 0x00#5 fs fd 0x0f#6
  | .cvtSD fs fd => encR 0x11#6 0x11#5 0x00#5 fs fd 0x20#6
  | .cvtSW fs fd => encR 0x11#6 0x14#5 0x00#5 fs fd 0x20#6
  | .cvtSL fs fd => encR 0x11#6 0x15#5 0x00#5 fs fd 0x20#6
  | .cvtDS fs fd => encR 0x11#6 0x10#5 0x00#5 fs fd 0x21#6
  | .cvtDW fs fd => encR 0x11#6 0x14#5 0x00#5 fs fd 0x21#6
  | .cvtDL fs fd => encR 0x11#6 0x15#5 0x00#5 fs fd 0x21#6
  | .cvtWS fs fd => encR 0x11#6 0x10#5 0x00#5 fs fd 0x24#6
  | .cvtWD fs fd => encR 0x11#6 0x11#5 0x00#5 fs fd 0x24#6
  | .cvtLS fs fd => encR 0x11#6 0x10#5 0x00#5 fs fd 0x25#6
  | .cvtLD fs fd => encR 0x11#6 0x11#5 0x00#5 fs fd 0x25#6
  | .movfS cc fs fd => encR 0x11#6 0x10#5 (ccColumn cc 0#1 0#1) fs fd 0x11#6
  | .movfD cc fs fd => encR 0x11#6 0x11#5 (ccColumn cc 0#1 0#1) fs fd 0x11#6
  | .movtS cc fs fd => encR 0x11#6 0x10#5 (ccColumn cc 0#1 1#1) fs fd 0x11#6
  | .movtD cc fs fd => encR 0x11#6 0x11#5 (ccColumn cc 0#1 1#1) fs fd 0x11#6
  | .movzS rt fs fd => encR 0x11#6 0x10#5 rt fs fd 0x12#6
  | .movzD rt fs fd => encR 0x11#6 0x11#5 rt fs fd 0x12#6
  | .movnS rt fs fd => encR 0x11#6 0x10#5 rt fs fd 0x13#6
  | .movnD rt fs fd => encR 0x11#6 0x11#5 rt fs fd 0x13#6
  | .recipS fs fd => encR 0x11#6 0x10#5 0x00#5 fs fd 0x15#6
  | .recipD fs fd => encR 0x11#6 0x11#5 0x00#5 fs fd 0x15#6
  | .rsqrtS fs fd => encR 0x11#6 0x10#5 0x00#5 fs fd 0x16#6
  | .rsqrtD fs fd => encR 0x11#6 0x11#5 0x00#5 fs fd 0x16#6
  | .maddS fr ft fs fd => encR 0x13#6 fr ft fs fd 0x20#6
  | .maddD fr ft fs fd => encR 0x13#6 fr ft fs fd 0x21#6
  | .msubS fr ft fs fd => encR 0x13#6 fr ft fs fd 0x28#6
  | .msubD fr ft fs fd => encR 0x13#6 fr ft fs fd 0x29#6
  | .nmaddS fr ft fs fd => encR 0x13#6 fr ft fs fd 0x30#6
  | .nmaddD fr ft fs fd => encR 0x13#6 fr ft fs fd 0x31#6
  | .nmsubS fr ft fs fd => encR 0x13#6 fr ft fs fd 0x38#6
  | .nmsubD fr ft fs fd => encR 0x13#6 fr ft fs fd 0x39#6
  | .cFS ft fs cc => encR 0x11#6 0x10#5 ft fs (cmpColumn cc) 0x30#6
  | .cUnS ft fs cc => encR 0x11#6 0x10#5 ft fs (cmpColumn cc) 0x31#6
  | .cEqS ft fs cc => encR 0x11#6 0x10#5 ft fs (cmpColumn cc) 0x32#6
  | .cUeqS ft fs cc => encR 0x11#6 0x10#5 ft fs (cmpColumn cc) 0x33#6
  | .cOltS ft fs cc => encR 0x11#6 0x10#5 ft fs (cmpColumn cc) 0x34#6
  | .cUltS ft fs cc => encR 0x11#6 0x10#5 ft fs (cmpColumn cc) 0x35#6
  | .cOleS ft fs cc => encR 0x11#6 0x10#5 ft fs (cmpColumn cc) 0x36#6
  | .cUleS ft fs cc => encR 0x11#6 0x10#5 ft fs (cmpColumn cc) 0x37#6
  | .cSfS ft fs cc => encR 0x11#6 0x10#5 ft fs (cmpColumn cc) 0x38#6
  | .cNgleS ft fs cc => encR 0x11#6 0x10#5 ft fs (cmpColumn cc) 0x39#6
  | .cSeqS ft fs cc => encR 0x11#6 0x10#5 ft fs (cmpColumn cc) 0x3a#6
  | .cNglS ft fs cc => encR 0x11#6 0x10#5 ft fs (cmpColumn cc) 0x3b#6
  | .cLtS ft fs cc => encR 0x11#6 0x10#5 ft fs (cmpColumn cc) 0x3c#6
  | .cNgeS ft fs cc => encR 0x11#6 0x10#5 ft fs (cmpColumn cc) 0x3d#6
  | .cLeS ft fs cc => encR 0x11#6 0x10#5 ft fs (cmpColumn cc) 0x3e#6
  | .cNgtS ft fs cc => encR 0x11#6 0x10#5 ft fs (cmpColumn cc) 0x3f#6
  | .cFD ft fs cc => encR 0x11#6 0x11#5 ft fs (cmpColumn cc) 0x30#6
  | .cUnD ft fs cc => encR 0x11#6 0x11#5 ft fs (cmpColumn cc) 0x31#6
  | .cEqD ft fs cc => encR 0x11#6 0x11#5 ft fs (cmpColumn cc) 0x32#6
  | .cUeqD ft fs cc => encR 0x11#6 0x11#5 ft fs (cmpColumn cc) 0x33#6
  | .cOltD ft fs cc => encR 0x11#6 0x11#5 ft fs (cmpColumn cc) 0x34#6
  | .cUltD ft fs cc => encR 0x11#6 0x11#5 ft fs (cmpColumn cc) 0x35#6
  | .cOleD ft fs cc => encR 0x11#6 0x11#5 ft fs (cmpColumn cc) 0x36#6
  | .cUleD ft fs cc => encR 0x11#6 0x11#5 ft fs (cmpColumn cc) 0x37#6
  | .cSfD ft fs cc => encR 0x11#6 0x11#5 ft fs (cmpColumn cc) 0x38#6
  | .cNgleD ft fs cc => encR 0x11#6 0x11#5 ft fs (cmpColumn cc) 0x39#6
  | .cSeqD ft fs cc => encR 0x11#6 0x11#5 ft fs (cmpColumn cc) 0x3a#6
  | .cNglD ft fs cc => encR 0x11#6 0x11#5 ft fs (cmpColumn cc) 0x3b#6
  | .cLtD ft fs cc => encR 0x11#6 0x11#5 ft fs (cmpColumn cc) 0x3c#6
  | .cNgeD ft fs cc => encR 0x11#6 0x11#5 ft fs (cmpColumn cc) 0x3d#6
  | .cLeD ft fs cc => encR 0x11#6 0x11#5 ft fs (cmpColumn cc) 0x3e#6
  | .cNgtD ft fs cc => encR 0x11#6 0x11#5 ft fs (cmpColumn cc) 0x3f#6
  | .cache base op offset => encI 0x2f#6 base op offset
  | .rfe => encR 0x10#6 0x10#5 0x00#5 0x00#5 0x00#5 0x10#6
  | .cop2 cofun => encJ 0x12#6 cofun
  | .lwc2 cofun => encJ 0x32#6 cofun
  | .swc2 cofun => encJ 0x3a#6 cofun
  | .ldc2 cofun => encJ 0x36#6 cofun
  | .sdc2 cofun => encJ 0x3e#6 cofun
/-- The four bytes of an instruction word in the order the memory holds them, lowest address first, for a
big-endian (`be`) or little-endian system (20_memory.md R235). -/
def wordBytes (be : Bool) (w : Word) : List Byte :=
  if be then [w.extractLsb' 24 8, w.extractLsb' 16 8, w.extractLsb' 8 8, w.extractLsb' 0 8]
  else [w.extractLsb' 0 8, w.extractLsb' 8 8, w.extractLsb' 16 8, w.extractLsb' 24 8]

/-- The instruction word assembled from four bytes, lowest address first (20_memory.md R235). -/
def wordOfBytes (be : Bool) (b0 b1 b2 b3 : Byte) : Word :=
  if be then b0 ++ b1 ++ b2 ++ b3 else b3 ++ b2 ++ b1 ++ b0

/-- The instruction the decoder reads from an opcode-table word of `nbits` bits: the word is laid out as bytes in
memory order and assembled again, as a fetch does. -/
def decodeTableWord (nbits w : Nat) : Option Instr :=
  match wordBytes true (BitVec.ofNat 32 (w % 2 ^ nbits)) with
  | [b0, b1, b2, b3] => (decode (wordOfBytes true b0 b1 b2 b3)).toOption
  | _ => none

end Sys2Proof
end

