-- ==== Sys2Proof/Config.lean ====
section
/-! DEFINITION. What one implementation or one system fixes (spec/92_eei_decisions.md part 2) and the free values.

A parameter that a program's meaning branches on is plain data in `Hw`, held in the state, so that a statement about
every state is a statement about every implementation.  A value the spec leaves undefined is an opaque constant:
nothing in Lean can evaluate it, so nothing can be proved of it but what holds of every value. -/

namespace Sys2Proof.Machine

/-- The three models of the series (spec/00_scope.md R1, R8). -/
inductive Variant where
  | r10000
  | r12000
  | r12000A
deriving DecidableEq, Repr

/-- What answers at a physical address (spec/20_memory.md R231, `PhysMap`). -/
inductive PhysKind where
  /-- Memory: a read returns the bytes last written (R19 (j)). -/
  | ram
  /-- A device: the environment chooses what a read returns; a write is handed to it (R253). -/
  | device
  /-- Nothing: a read is answered with ERR (R251). -/
  | none
deriving DecidableEq, Repr

/-- A window of the physical memory map: the addresses `lo ≤ pa < hi`. -/
structure PhysWindow where
  lo   : Nat
  hi   : Nat
  kind : PhysKind
deriving DecidableEq, Repr

/-- Positions of the Diagnostic register's fields (spec/12_cp0_diag_perf_cache_regs.md R163, `DiagLayout`): the
low bit of each.  Bits 27 and 26:23 are fixed by R162. -/
structure DiagLayout where
  itlbm   : Nat
  bsIdx   : Nat
  dbrc    : Nat
  brcv    : Nat
  brcw    : Nat
  brch    : Nat
  mp      : Nat
  bpMode  : Nat
  bpState : Nat
  bpIdx   : Nat
  bpOp    : Nat
deriving DecidableEq, Repr

/-- Positions of the CacheErr fields (spec/12_cp0_diag_perf_cache_regs.md R204 to R207, R209, `CacheErrLayout`): the low
bit of each.  The first letter names the format: `i` instruction cache, `d` data cache, `s` secondary cache, `x` System
interface; `ec` is the unit code and `ew` is common to the four. -/
structure CacheErrLayout where
  ec    : Nat
  ew    : Nat
  iD    : Nat
  iTA   : Nat
  iTS   : Nat
  iPIdx : Nat
  dEE   : Nat
  dD    : Nat
  dTA   : Nat
  dTS   : Nat
  dTM   : Nat
  dPIdx : Nat
  sD    : Nat
  sTA   : Nat
  sSIdx : Nat
  xEE   : Nat
  xD    : Nat
  xSA   : Nat
  xSC   : Nat
  xSR   : Nat
  xSIdx : Nat
deriving DecidableEq, Repr

/-- Positions of the TagLo and TagHi fields (spec/12_cp0_diag_perf_cache_regs.md R211 to R213, R217, `TagLayout`): the
low bit of each.  The first letter names the cache; the modifier, MRU and the upper tag bits are in TagHi, the rest in
TagLo. -/
structure TagLayout where
  iPTag0  : Nat
  iPState : Nat
  iLRU    : Nat
  iSP     : Nat
  iTP     : Nat
  iPTag1  : Nat
  dPTag0  : Nat
  dPState : Nat
  dLRU    : Nat
  dSP     : Nat
  dWay    : Nat
  dTP     : Nat
  dMod    : Nat
  dPTag1  : Nat
  sSTag0  : Nat
  sSState : Nat
  sVIndex : Nat
  sECC    : Nat
  sMRU    : Nat
  sSTag1  : Nat
deriving DecidableEq, Repr

/-- A check matrix: row `k` is the mask of the data bits of check bit `k`; `odd` marks the check bits of odd polarity. -/
structure EccMatrix where
  rows : List Nat
  odd  : Nat
deriving DecidableEq, Repr

/-- The fixed hardware: variant, mode bits and the named parameters of spec/92_eei_decisions.md part 2. -/
structure Hw where
  variant       : Variant
  /-- The mode bits sampled from SysAD[63:0] at the last cold reset (R1136). -/
  modeBits      : BitVec 64
  /-- `PRId_Imp`, `PRId_Rev` (R128). -/
  pridImp       : BitVec 8
  pridRev       : BitVec 8
  /-- `FCR0_Imp`, `FCR0_Rev` (R764). -/
  fcr0Imp       : BitVec 8
  fcr0Rev       : BitVec 8
  /-- `PhysMap` (D16): the first window that holds an address decides; an address in no window is RAM. -/
  physMap       : List PhysWindow
  /-- `DiagLayout` (D10). -/
  diagLayout    : DiagLayout
  /-- `CacheErrLayout` and `TagLayout` (D15). -/
  errLayout     : CacheErrLayout
  tagLayout     : TagLayout
  /-- `SysADEccMatrix` (R988, U38): the check matrix of the SysAD bus. -/
  sysAdEccMatrix : EccMatrix
  /-- `LongConvLimit` (R780, U30). -/
  longConvLimit : Option Nat
  /-- The state an external block data response gives when the oracle `replies` names none (R954): the
  environment's choice for a read that may be Shared. -/
  readState     : BitVec 2
deriving DecidableEq, Repr

/-- The points at which the spec leaves a value undefined and the machine goes on.  Each is an argument of
`Config.free`. -/
inductive FreeSite where
  /-- HI after a division by zero (U19). -/
  | divHi
  /-- LO after a division by zero (U19). -/
  | divLo
  /-- Cause.CE after an exception other than Coprocessor Unusable (U40). -/
  | causeCE
  /-- EntryLo0 after an Address Error or a TLB exception (U11). -/
  | entryLo0
  /-- EntryLo1 after an Address Error or a TLB exception (U11). -/
  | entryLo1
  /-- Context.BadVPN2 after an Address Error (U11). -/
  | contextVpn
  /-- XContext.R and XContext.BadVPN2 after an Address Error (U11). -/
  | xcontextVpn
  /-- EntryHi.R and EntryHi.VPN2 after an Address Error (U11). -/
  | entryHiVpn
  /-- A read of CP0 register 7, 23, 24 or 31 (U5). -/
  | cp0Undefined
  /-- The status fields of the Diagnostic register (U6). -/
  | diagStatus
  /-- CFC1 of a control register other than 0 and 31 (U28). -/
  | fcrUndefined
  /-- The high half of an FPR after a single-precision conditional move with FR = 1 (U25). -/
  | movcHigh
  /-- LLbit after a Soft Reset (R1132). -/
  | llAfterReset
  /-- Index[5:0] after a TLBP that finds nothing (R721). -/
  | probeIndex
  /-- The previous address, way and data at the entry of the cache test mode (R1027). -/
  | testAddr
  | testWay
  | testData
deriving DecidableEq, Repr

/-- A free value: whatever the hardware leaves at `site` in the step numbered `n`. -/
opaque Config.free (site : FreeSite) (n : Nat) : BitVec 64

/-- `RandomPolicy` (R84, D5): where Random stands at step `n`, reduced to `Wired..63` by the reader. -/
opaque Config.randomPolicy (n : Nat) : Nat

/-- `CountStep` (R97, D6): by how much Count advances over step `n`. -/
opaque Config.countStep (n : Nat) : Nat

/-- `perf_event` (R187, D14): what a performance event with no instruction-level meaning adds in step `n`. -/
opaque Config.perfEvent (event n : Nat) : Nat

/-- The four predecode bits the instruction cache holds beside an instruction word (R214): a function of the word
that the source does not give. -/
opaque Config.predecode (w : BitVec 32) : BitVec 4

/-- The levels of the processor pins that a boundary scan samples in step `n` (R1003). -/
opaque Config.pins (n : Nat) : BitVec 334

/-- The byte a device at physical address `pa` returns in step `n` (R253). -/
opaque Config.deviceByte (pa n : Nat) : BitVec 8

end Sys2Proof.Machine
end

