-- ==== Sys2Proof/Machine/State.lean ====
section
/-! DEFINITION. The state of the machine: everything spec/10_state.md R30 to R55 and the files it points to give it,
as plain data; the exceptions, faults and refusals; and the state after reset (R70). -/

namespace Sys2Proof.Machine

/-! ## Kinds and causes -/

/-- The kind of a memory reference (spec/21_address_translation.md, opening). -/
inductive AccessKind where
  | fetch
  | load
  | store
deriving DecidableEq, Repr

/-- The exceptions entered through the general sequence (spec/60_exceptions.md R1040, R1046), each with what its
entry records.  Cache Error, NMI and the resets have their own entries. -/
inductive Exc where
  /-- Address Error (R1063). -/
  | addressError (va : DWord) (kind : AccessKind)
  /-- TLB Refill (R1064). -/
  | tlbRefill (va : DWord) (kind : AccessKind)
  /-- TLB Invalid (R1065). -/
  | tlbInvalid (va : DWord) (kind : AccessKind)
  /-- TLB Modified (R1066). -/
  | tlbModified (va : DWord)
  /-- Bus Error (R1068). -/
  | busError (kind : AccessKind)
  /-- Integer Overflow (R1069). -/
  | overflow
  /-- Trap (R1070). -/
  | trap
  /-- System Call (R1072). -/
  | syscall
  /-- Breakpoint (R1073). -/
  | breakpoint
  /-- Reserved Instruction (R1074). -/
  | reservedInstr
  /-- Coprocessor Unusable, with the unit number (R1075). -/
  | copUnusable (cop : BitVec 2)
  /-- Floating-Point; FCR31.Cause is written before the entry (R1076). -/
  | floatingPoint
  /-- Watch (R1077, R1078). -/
  | watch
  /-- Interrupt (R1085). -/
  | interrupt
deriving DecidableEq, Repr

/-- The four units that post Cache Errors, in priority order (R1061). -/
inductive CacheUnit where
  | icache
  | dcache
  | scache
  | sysif
deriving DecidableEq, Repr

/-- A step that stops the machine for good. -/
inductive Fault where
  /-- "The processor will hang": after a lost completion response of an uncached read (spec/51_errors_jtag_testmode.md
  R989) or a cached load or store to a data cache block left in the refill state (spec/70_reset_and_hazards.md R1132),
  only a reset event frees it.  Raised by `step` when the processor hangs and the environment has no event left to
  deliver.  Safe: the hardware makes no step. -/
  | hung
deriving DecidableEq, Repr

/-- A step the spec gives no effect: its treatment in spec/93_implementation_defined.md is `refuse`. -/
inductive Refusal where
  /-- The instruction has no meaning in the model yet.  Raised by `exec`.  Safe. -/
  | notModelled (mnemonic : String)
  /-- A branch, jump or ERET in a branch delay slot (U22).  Raised by the control-flow meanings.  Safe. -/
  | branchInDelaySlot
  /-- An access under cache algorithm 0, 1 or 6 (U10).  Raised by the access pipeline.  Safe. -/
  | reservedCacheAlgorithm
  /-- More than one TLB entry matches (U12).  Raised by the TLB lookup.  Safe. -/
  | tlbMultipleMatch
  /-- A TLB write with a PageMask that is not a legal value (U3).  Raised by TLBWI and TLBWR.  Safe. -/
  | illegalPageMask
  /-- An undefined COP0 function (U16).  Raised by the execution of a reserved word.  Safe. -/
  | undefinedCop0
  /-- A CACHE operation that is not an R10000 operation (U14).  Raised by CACHE.  Safe. -/
  | undefinedCacheOp
  /-- An odd register in a doubleword load, store or move with FR = 0 (U27).  Raised by those meanings.  Safe. -/
  | oddDoubleFpr
  /-- A cold reset with a reserved mode-bit value (U34).  Raised by the reset event.  Safe. -/
  | reservedModeBits
  /-- A cache test mode command with an undefined array select (U43).  Raised by that event.  Safe. -/
  | undefinedTestArray
  /-- An uncached accelerated doubleword store that follows an unpaired singleword in a sequential gathering (U36).
  Raised by the stores.  Safe. -/
  | unpairedGather
deriving DecidableEq, Repr

/-! ## Coprocessor 0 -/

/-- The read/write fields of the Diagnostic register (spec/12_cp0_diag_perf_cache_regs.md R161, R162), and what decides
whether its BPState field shows a prediction. -/
structure Diag where
  dbrc        : Bool
  bpMode      : BitVec 2
  bpState     : BitVec 2
  bpIdx       : BitVec 11
  bpOp        : BitVec 2
  btacDisable : Bool
  ghistory    : BitVec 4
  /-- The instruction at `pc` follows a conditional branch as its delay slot (R164). -/
  inSlot      : Bool
deriving DecidableEq, Repr

/-- The performance counters of register 25 (R170 to R187). -/
structure Perf where
  /-- Control registers, reserved bits zero (R172, R179). -/
  ctl       : Vector (BitVec 32) 4
  /-- Counters (R170). -/
  cnt       : Vector (BitVec 32) 4
  /-- Bits 15:0 last written to counter 1 by MTC0, the reload value of a trigger (R183). -/
  reload    : BitVec 16
  /-- The data-cache miss-address holding register, a physical line address (R184). -/
  missAddr  : BitVec 40
  /-- Counter 3 holds what the arming MTC0 put there, and bits 63:32 of it (R184). -/
  cnt3Miss  : Bool
  cnt3High  : BitVec 32
  /-- The 9-bit syndrome register of the R12000A (R185). -/
  syndrome  : BitVec 9
deriving DecidableEq, Repr

/-- The CP0 registers (spec/10_state.md R44; spec/11 and spec/12).  Reserved fields are held as zero. -/
structure Cp0 where
  /-- Index bits 5:0 (R81). -/
  index        : BitVec 6
  /-- Index.P, bit 31 (R81, R82). -/
  probeFail    : Bool
  /-- The step at which Random stands at its upper bound 63: the one after Cold Reset or a write of Wired (R83, R84). -/
  randomBoundStep : Nat
  entryLo0     : BitVec 64
  entryLo1     : BitVec 64
  context      : BitVec 64
  /-- PageMask bits 24:13 (R91). -/
  pageMask     : BitVec 12
  wired        : BitVec 6
  badVAddr     : BitVec 64
  count        : BitVec 32
  compare      : BitVec 32
  /-- The Count = Compare latch of IP[7] (R51 (c), R98). -/
  timerLatch   : Bool
  entryHi      : BitVec 64
  status       : BitVec 32
  /-- Cause.BD (R118). -/
  causeBD      : Bool
  /-- Cause.CE (R119). -/
  causeCE      : BitVec 2
  /-- Cause.ExcCode (R121). -/
  excCode      : BitVec 5
  /-- Cause.IP[1:0], the software interrupts (R120). -/
  softIp       : BitVec 2
  /-- The Interrupt register, Cause.IP[6:2] (R50). -/
  interrupt    : BitVec 5
  epc          : BitVec 64
  /-- Config.K0, the only writable Config field (R131); the rest are the mode bits (R130). -/
  k0           : BitVec 3
  llAddr       : BitVec 32
  watchLo      : BitVec 32
  watchHi      : BitVec 32
  /-- The delayed Watch latch (R51 (a), R1078). -/
  watchPending : Bool
  xcontext     : BitVec 64
  frameMask    : BitVec 16
  diag         : Diag
  perf         : Perf
  ecc          : BitVec 10
  cacheErr     : BitVec 32
  tagLo        : BitVec 32
  tagHi        : BitVec 32
  errorEpc     : BitVec 64
deriving DecidableEq, Repr

/-! ## Floating point -/

/-- The floating-point unit (R42, R43). -/
structure Fpu where
  fpr   : Vector (BitVec 64) 32
  fcr31 : BitVec 32
deriving DecidableEq, Repr

/-! ## TLB -/

/-- One page of a TLB entry (R47). -/
structure TlbPage where
  pfn : BitVec 28
  c   : BitVec 3
  d   : Bool
  v   : Bool
  uc  : BitVec 2
deriving DecidableEq, Repr

/-- A TLB entry (R47) with the hidden flag `matchable` of spec/21_address_translation.md R316. -/
structure TlbEntry where
  mask      : BitVec 12
  r         : BitVec 2
  vpn2      : BitVec 31
  asid      : BitVec 8
  g         : Bool
  even      : TlbPage
  odd       : TlbPage
  matchable : Bool
deriving DecidableEq, Repr

/-! ## Sparse arrays and memory -/

/-- A sparse array: key and value pairs with keys strictly rising and no entry equal to what an unlisted key reads
as.  Reading and writing are in Machine/Ops.lean. -/
abbrev Sparse (α : Type) := List (Nat × α)

/-- Physical memory: (address, byte) cells in the same canonical form (R230). -/
abbrev Memory := List Host.Cell

/-- What a byte of memory that nothing has written reads as (log 2). -/
def Memory.unwritten : Byte := 0#8

/-! ## Caches (spec/22_caches.md R350 to R357) -/

/-- A primary instruction cache tag (spec/12 R211). -/
structure ITag where
  tag   : BitVec 28
  valid : Bool
  /-- State even parity bit, as stored. -/
  sp    : Bool
  /-- Tag even parity bit, as stored. -/
  tp    : Bool
deriving DecidableEq, Repr

/-- A word of the instruction cache data array (R201, R214), its two derived parts held as their difference from what
a refill stores: `pre` is the stored predecode bits xor `Config.predecode word`, `parBad` says that the stored parity
bit mismatches (log 31). -/
structure IWord where
  pre    : BitVec 4
  word   : BitVec 32
  parBad : Bool
deriving DecidableEq, Repr

/-- A primary data cache tag (spec/12 R212). -/
structure DTag where
  tag   : BitVec 28
  /-- PState: 0 Invalid, 1 Shared, 2 CleanExclusive, 3 DirtyExclusive. -/
  st    : BitVec 2
  /-- State Modifier: 001 written (inconsistent with the secondary cache), 010 being refilled. -/
  mod   : BitVec 3
  /-- The secondary cache way that contains the line. -/
  way   : Bool
  sp    : Bool
  tp    : Bool
deriving DecidableEq, Repr

/-- A word of the data cache data array with its byte parity bits (R201). -/
structure DWordCell where
  word : BitVec 32
  par  : BitVec 4
deriving DecidableEq, Repr

/-- A secondary cache tag: SCTag(25:0) and its 7-bit ECC (R354, R213). -/
structure STag where
  tag    : BitVec 22
  /-- PIdx, VA(13:12). -/
  vindex : BitVec 2
  /-- 0 Invalid, 1 Shared, 2 CleanExclusive, 3 DirtyExclusive. -/
  st     : BitVec 2
  ecc    : BitVec 7
deriving DecidableEq, Repr

/-- A quadword of the secondary cache data array with its 9 ECC bits and parity bit (R353). -/
structure SQuad where
  data : BitVec 128
  ecc  : BitVec 9
  sp   : Bool
deriving DecidableEq, Repr

/-- The three caches and the way prediction table, as sparse arrays.  Keys: a tag is at `set * 2 + way`; an
instruction word at `(set * 2 + way) * 16 + word`; a data word at `(set * 2 + way) * 8 + word`; a quadword at
`(set * 2 + way) * 8 + quadword`; an LRU bit at `set`; an MRU bit at its table index (R355). -/
structure Caches where
  itag  : Sparse ITag
  idata : Sparse IWord
  ilru  : Sparse Bool
  dtag  : Sparse DTag
  ddata : Sparse DWordCell
  dlru  : Sparse Bool
  stag  : Sparse STag
  sdata : Sparse SQuad
  mru   : Sparse Bool
deriving DecidableEq, Repr

/-! ## The System interface (spec/50_system_interface.md) -/

/-- The gathering mode of the uncached buffer (R916). -/
inductive GatherMode where
  | undetermined
  | sequential
  | identical
deriving DecidableEq, Repr

/-- A gathering in progress in the uncached buffer (R916): the stores gathered, oldest first. -/
structure Gather where
  base   : BitVec 40
  uc     : BitVec 2
  mode   : GatherMode
  /-- Bytes gathered. -/
  n      : Nat
  /-- Address and bytes (lowest address first) of each store. -/
  stores : List (BitVec 40 × List Byte)
deriving DecidableEq, Repr

/-- A processor request or response on the System interface, in the terms of R977; the wire encodings are in
Machine/Bus.lean. -/
inductive BusReq where
  /-- Double/single/partial-word read with request number `rq` (R948): `cause` is SysCmd[4:3]. -/
  | dspRead (rq : BitVec 3) (pa : BitVec 40) (size : Nat) (uc : BitVec 2) (cause : BitVec 2)
  /-- Double/single/partial-word write (R950) of these bytes, lowest address first; `accel` for a store under algorithm 7,
  which SYNC does not wait for (R256). -/
  | dspWrite (accel : Bool) (pa : BitVec 40) (bytes : List Byte) (uc : BitVec 2) (cause : BitVec 2)
  /-- Block write of a gathered uncached accelerated block (R949). -/
  | gatherWrite (pa : BitVec 40) (data : List (BitVec 64)) (uc : BitVec 2) (cause : BitVec 2)
  /-- Block read with request number `rq` (R947): `cmd` is SysCmd[7:5], `former` the former state, `way` the secondary
  way. -/
  | blockRead (rq : BitVec 3) (pa : BitVec 40) (cmd : BitVec 3) (cause : BitVec 2) (former : BitVec 2) (way : Bool)
  /-- Typical block write (R949): each doubleword with its Uncorrectable Error flag (R913). -/
  | blockWrite (pa : BitVec 40) (data : List (BitVec 64 × Bool)) (way : Bool)
  /-- Upgrade with request number `rq` (R951). -/
  | upgrade (rq : BitVec 3) (pa : BitVec 40) (cause : BitVec 2) (former : BitVec 2) (way : Bool)
  /-- Eliminate (R952). -/
  | eliminate (pa : BitVec 40) (former : BitVec 2) (way : Bool)
  /-- Coherency state response (R959): tag quality and former state. -/
  | stateResponse (tagBad : Bool) (former : BitVec 2)
  /-- Coherency data response (R960) to request `rq` for the quadword at `pa`: the block in address order, each
  doubleword with its Uncorrectable Error flag; `typical` for a block write turned into one, which keeps its typical entry
  of the outgoing buffer, false for one in the special entry (R913). -/
  | dataResponse (typical : Bool) (rq : BitVec 3) (pa : BitVec 40) (data : List (BitVec 64 × Bool)) (st : BitVec 2)
  /-- SysCorErr* pulse (R981). -/
  | corErr
  /-- SysUncErr* pulse (R981). -/
  | uncErr
  /-- A cache test mode read response on SysAD[39:0] (R1025). -/
  | testRead (data : BitVec 40)
deriving DecidableEq, Repr

/-- How the external agent completes one processor read or upgrade request (R930, R953 to R956, R990). -/
inductive Completion where
  | ack
  | nack
  | err
  /-- The Reserved completion indication: ignored (R990). -/
  | reserved
  /-- The response was lost to a SysResp parity error (R989). -/
  | lost
  /-- No response yet: the request stays pending response while events are delivered (R968). -/
  | later
deriving DecidableEq, Repr

/-- One external response, as the oracle `replies` of the state lists them. -/
structure Reply where
  completion : Completion
  /-- Block state of the data cycles, SysCmd[2:1] (R923). -/
  st         : BitVec 2
  /-- The incoming buffer's Uncorrectable Error flags (R912): bit `i` is doubleword `i` of the block, bit 0 the data of
  a double/single/partial-word response. -/
  bad        : BitVec 16
  /-- An external data response comes with the completion (R951, R956). -/
  withData   : Bool
  /-- The doublewords that came on SysAD, each with its place in the block, 0 for a double/single/partial-word response;
  at a place that is not listed the data is memory's (R954, R955). -/
  data       : List (Nat × BitVec 64) := []
  /-- Data cycles whose SysAD was corrected, and cycles lost to bad SysCmd parity (R987). -/
  corrected  : Nat := 0
  lostCycles : Nat := 0
deriving DecidableEq, Repr

/-- A block read or upgrade pending response: an entry of the cached request buffer, and of the cluster request buffer
(R910), with the virtual index and the secondary way that its data will take. -/
structure Outstanding where
  /-- Its request number, busy until the completion response (R903). -/
  rq     : BitVec 3
  /-- A block read; an upgrade if false. -/
  isRead : Bool
  /-- The reference that caused it. -/
  kind   : AccessKind
  /-- The instruction that caused it still waits for it: ERR is that instruction's Bus Error.  False for a prefetch, for an
  aborted instruction, and once the instruction is gone (R956). -/
  live   : Bool
  pa     : BitVec 40
  /-- SysCmd[7:5]. -/
  cmd    : BitVec 3
  vindex : BitVec 2
  way    : Bool
  /-- The block state that an upgrade acknowledged without data gives. -/
  upState : BitVec 2
  /-- The entry of the incoming buffer: the last external data response, until the completion response (R911). -/
  buffered : Option Reply
deriving DecidableEq, Repr

/-- A request number that an external request holds: an entry of the cluster request buffer (R910, R958). -/
structure ExternalRequest where
  rq     : BitVec 3
  /-- The address of a coherency request that targets the processor; none for one that only takes the number. -/
  target : Option (BitVec 40)
deriving DecidableEq, Repr

/-- What an external coherency request asks for (R958). -/
inductive ProbeKind where
  | shared
  | exclusive
  | invalidate
deriving DecidableEq, Repr

/-- A coherency request that targets the processor: its number, and the address as given, whose quadword the data response
starts with (R918, R958). -/
structure Probe where
  kind : ProbeKind
  rq   : BitVec 3
  pa   : BitVec 40
deriving DecidableEq, Repr

/-- A store in the FIFO of the uncached buffer (R914): `accel` under algorithm 7, `whole` for a word or a doubleword. -/
structure UncachedStore where
  pa    : BitVec 40
  /-- Lowest address first. -/
  bytes : List Byte
  uc    : BitVec 2
  accel : Bool
  whole : Bool
deriving DecidableEq, Repr

/-- An uncorrectable error, as the fields of one of the four CacheErr formats (spec/12 R204 to R207). -/
inductive UnitError where
  /-- Instruction cache: way masks of the data, tag address and tag state arrays, and PIdx. -/
  | icache (d ta ts : BitVec 2) (pidx : BitVec 8)
  /-- Data cache: EE, way masks of the data, tag address, tag state and tag mod arrays, and PIdx. -/
  | dcache (ee : Bool) (d ta ts tm : BitVec 2) (pidx : BitVec 11)
  /-- Secondary cache: way masks of the data and tag arrays, and SIdx. -/
  | scache (d ta : BitVec 2) (sidx : BitVec 17)
  /-- System interface, block data: EE, the way mask and SIdx. -/
  | sysData (ee : Bool) (d : BitVec 2) (sidx : BitVec 17)
  /-- System interface, a bus cycle: SA, SC and SR. -/
  | sysBus (sa sc sr : Bool)
deriving DecidableEq, Repr

/-- What the environment can do between two steps (spec/00_scope.md R19; spec/50 R977). -/
inductive EnvEvent where
  /-- Nothing: the processor makes a step, as it does when no event is listed. -/
  | quiet
  /-- Power-on or Cold Reset with these mode bits (spec/70 R1130, R1131). -/
  | coldReset (modeBits : BitVec 64)
  /-- Soft Reset; the listed data cache tags (`set * 2 + way`) stay in the refill state (R1132). -/
  | softReset (refilling : List Nat)
  /-- SysNMI* asserted (spec/60 R1087). -/
  | nmi
  /-- An external interrupt request: SysAD[63:0] of its address cycle (R940). -/
  | extInterrupt (ad : BitVec 64)
  /-- An intervention shared or exclusive request with request number `rq` that targets the processor (R958, R966). -/
  | intervention (exclusive : Bool) (pa : BitVec 40) (rq : BitVec 3)
  /-- An invalidate request that targets the processor (R958, R966). -/
  | invalidate (pa : BitVec 40) (rq : BitVec 3)
  /-- An allocate request number request: the number is busy for the processor (R958). -/
  | allocate (rq : BitVec 3)
  /-- An external completion response, as SysResp[4:0] with SysRespPar carries it (R930, R956): to an external request, or to
  the block read or upgrade that is pending response under its number. -/
  | completion (resp : BitVec 5) (par : Bool)
  /-- An external response to the block read or upgrade pending response with number `rq`, in whatever order the external
  agent likes (R953); with the completion `later` it is the data response alone.  Other responses are the oracle
  `replies`. -/
  | response (rq : BitVec 3) (r : Reply)
  /-- An external address cycle as the pins carry it: SysCmd, SysCmdPar, SysAD, SysADChk (R922, R925, R941, R987). -/
  | addressCycle (cmd : BitVec 12) (par : Bool) (ad : BitVec 64) (chk : BitVec 8)
  /-- SysRdRdy* driven to this level (R917). -/
  | readReady (asserted : Bool)
  /-- SysWrRdy* driven to this level (R917). -/
  | writeReady (asserted : Bool)
  /-- SysGblPerf* driven to this level (R970). -/
  | gblPerf (asserted : Bool)
  /-- An uncorrectable error detected by a unit (R992, R1062). -/
  | cacheError (e : UnitError)
  /-- A correctable error detected and corrected, in secondary cache data or elsewhere (R992). -/
  | correctableError (secondaryData : Bool)
  /-- Another coherent agent stores these bytes (R19 (d), R977). -/
  | agentStore (pa : BitVec 40) (bytes : List Byte)
  /-- A noncoherent agent stores these bytes to memory (R1152). -/
  | dmaStore (pa : BitVec 40) (bytes : List Byte)
  /-- An instruction that is then aborted references this virtual address.  The processor ran ahead to it from the one at the
  pc past one instruction for each entry of `path`: predicted right, or, where an address stands, mispredicted to it
  (spec/70 R1150 to R1154). -/
  | speculate (path : List (Option (BitVec 64))) (kind : AccessKind) (va : BitVec 64)
  /-- The fetch ran `k` instructions ahead through uncached memory (R1154, U35). -/
  | fetchAhead (k : Nat)
  /-- The environment breaks the LL/SC link (R260). -/
  | breakLink
  /-- The uncached buffer issues an incomplete gathering (R916 (d)). -/
  | flushGather
  /-- A clock edge of the JTAG port with JTMS and JTDI (spec/51 R1000). -/
  | jtagClock (tms tdi : Bool)
  /-- JTRST asserted, R12000A only (R1000). -/
  | jtagReset
  /-- A cache test mode command: SysAD[63:0] with SysVal* asserted (R1022). -/
  | testCommand (ad : BitVec 64)
deriving DecidableEq, Repr

/-- The states of the IEEE 1149.1 TAP controller (R1000). -/
inductive TapState where
  | testLogicReset
  | runTestIdle
  | selectDr
  | captureDr
  | shiftDr
  | exit1Dr
  | pauseDr
  | exit2Dr
  | updateDr
  | selectIr
  | captureIr
  | shiftIr
  | exit1Ir
  | pauseIr
  | exit2Ir
  | updateIr
deriving DecidableEq, Repr

/-- The JTAG port (spec/51_errors_jtag_testmode.md R1000 to R1004). -/
structure Jtag where
  tap      : TapState
  /-- The instruction register's shift stage and parallel output (R1001). -/
  irShift  : BitVec 4
  ir       : BitVec 4
  /-- Bypass register (R1002). -/
  bypass   : Bool
  /-- Boundary scan register: 333 cells and the direction bit, shift stage and parallel output (R1003, R1004). -/
  bsrShift : BitVec 334
  bsr      : BitVec 334
  /-- JTDO. -/
  tdo      : Bool
deriving DecidableEq, Repr

/-- The cache test mode port (R1020 to R1027). -/
structure TestMode where
  active   : Bool
  lastAddr : BitVec 12
  lastWay  : Bool
  lastData : BitVec 40
deriving DecidableEq, Repr

/-- Event totals that the cache and bus operations of one step leave for the performance counters (R176, R186). -/
structure CacheEvents where
  /-- Quadwords written from the primary data cache to the secondary cache. -/
  quadsD     : Nat
  /-- Quadwords written back from the secondary cache. -/
  quadsS     : Nat
  /-- Corrected secondary data errors. -/
  eccFixed   : Nat
  icMiss     : Nat
  dcMiss     : Nat
  /-- Stores and exclusive prefetches that hit a clean line. -/
  dcClean    : Nat
  scMissI    : Nat
  scMissD    : Nat
  /-- Secondary misses whose refill came from memory. -/
  scFillI    : Nat
  scFillD    : Nat
  /-- Tag checks of prefetch instructions, and of those the ones that initiated a primary data cache refill. -/
  prefTags   : Nat
  prefFills  : Nat
  /-- Secondary accesses that hit in the non-predicted way. -/
  wayMissI   : Nat
  wayMissD   : Nat
  /-- Stores or exclusive prefetches to CleanExclusive and to Shared secondary blocks. -/
  upClean    : Nat
  upShared   : Nat
  /-- External intervention and invalidate requests. -/
  ivn        : Nat
  inv        : Nat
  /-- State code of the secondary line an intervention or invalidate hit (R182). -/
  ivnHit     : BitVec 2
  invHit     : BitVec 2
deriving DecidableEq, Repr

/-- What the Secondary Cache Transaction Processing logic already holds of an instruction that waits, so that a reference
tried again is not counted again (R176, R184, R186). -/
structure Sctp where
  /-- The refill request of its fetch. -/
  fetch  : Bool
  /-- The request of its data reference. -/
  data   : Bool
  /-- The data reference missed in the secondary cache. -/
  missed : Bool
deriving DecidableEq, Repr

/-- A local CacheErr register with a posted Cache Error (R203, R1061), one per unit. -/
structure PostedErrors where
  icache : Option (BitVec 32)
  dcache : Option (BitVec 32)
  scache : Option (BitVec 32)
  sysif  : Option (BitVec 32)
deriving DecidableEq, Repr

/-- The processor's boundary with its environment. -/
structure Ext where
  /-- Requests the processor has put on the System interface, newest first: the machine's output. -/
  bus        : List BusReq
  /-- The outgoing buffer: block writes, eliminates and coherency data responses pending issue, oldest first (R913, R967). -/
  outgoing   : List BusReq
  /-- Block reads and upgrades pending response, oldest first (R910, R968). -/
  outstanding : List Outstanding
  /-- The external requests whose numbers are busy, oldest first (R910, R958). -/
  cluster    : List ExternalRequest
  /-- Coherency requests that wait to be performed, oldest first (R911, R959). -/
  probes     : List Probe
  /-- Secondary blocks that came for the waiting instruction, which has not used them yet (R911). -/
  forwarded  : List (BitVec 40)
  /-- The Bus Error that an ERR left for the waiting instruction (R956). -/
  busErr     : Option AccessKind
  /-- Stores of other coherent agents that wait for their blocks, oldest first (R19 (d), R247, R960). -/
  agentStores : List (BitVec 40 × List Byte)
  /-- SysRdRdy* and SysWrRdy* are negated (R917). -/
  readsHeld  : Bool
  writesHeld : Bool
  /-- The uncached buffer's FIFO (R914), oldest first: stores that no entry of the gatherer has taken. -/
  fifo       : List UncachedStore
  /-- Entries of the gatherer ready for issue, oldest first: the writes each of them leaves as (R914, R915). -/
  gathered   : List (List BusReq)
  /-- The entry of the gatherer with the gathering in progress, the youngest (R916). -/
  gather     : Option Gather
  /-- SysGblPerf* (R256, R970). -/
  gblPerf    : Bool
  /-- The NMI request latch (R51 (e)). -/
  nmiLatch   : Bool
  /-- Posted Cache Errors (R51 (b)). -/
  posted     : PostedErrors
  /-- Events the environment has yet to deliver, oldest first: the machine's input (R19). -/
  inbox      : List EnvEvent
  /-- Responses to come to processor read and upgrade requests, oldest first; when empty every request is
  acknowledged with good data (R19 (c), R956). -/
  replies    : List Reply
  /-- `IntLatency` (R1086): the delays to come, oldest first; when empty 0. -/
  intDelays  : List Nat
  /-- Instructions still to run before the pending interrupt is taken (R1086). -/
  intWait    : Nat
  /-- Primary replacement choices to come (U13); when empty the way is the least recently used. -/
  victims    : List Bool
  jtag       : Jtag
  test       : TestMode
  /-- The processor hangs until a reset (R989, R1132). -/
  hung       : Bool
deriving DecidableEq, Repr

/-- What the last instruction did beside its effect: the model's own record, cleared when a step starts. -/
inductive StepNote where
  /-- It completed. -/
  | done
  /-- It took this exception. -/
  | raised (e : Exc)
  /-- It could not graduate yet and will be tried again (R956 NACK, R256 SYNC, a Cache Error about to be taken). -/
  | waiting
deriving DecidableEq, Repr

/-! ## The machine -/

/-- The whole machine state. -/
structure State where
  /-- GPR[0] to GPR[31]; slot 0 is never read (R30, R31). -/
  gpr       : Vector (BitVec 64) 32
  /-- HI and LO (R35). -/
  hi        : BitVec 64
  lo        : BitVec 64
  /-- The program counter (R36). -/
  pc        : BitVec 64
  /-- The target that follows the instruction at `pc` when it is the delay slot of a taken branch (R41). -/
  delaySlot : Option (BitVec 64)
  /-- The LL bit and the physical block of the link (R49). -/
  llbit     : Bool
  llblock   : BitVec 40
  cp0       : Cp0
  fpu       : Fpu
  /-- The joint TLB (R47). -/
  tlb       : Vector TlbEntry 64
  caches    : Caches
  /-- Physical memory (R230). -/
  mem       : Memory
  ext       : Ext
  /-- The fixed hardware. -/
  hw        : Hw
  /-- The number of steps made: the index of the free values. -/
  steps     : Nat
  /-- The record of the last instruction. -/
  note      : StepNote
  /-- Cache events of the current step. -/
  events    : CacheEvents
  /-- Requests of a waiting instruction that were counted. -/
  sctp      : Sctp
deriving DecidableEq, Repr

/-! ## Reset (R70, R1130) -/

/-- The Diagnostic layout the model starts with (log 8). -/
def defaultDiagLayout : DiagLayout :=
  { itlbm := 56, bsIdx := 36, dbrc := 28, brcv := 35, brcw := 34, brch := 33, mp := 32,
    bpMode := 16, bpState := 14, bpIdx := 3, bpOp := 0 }

/-- The default CacheErr layout (R209; log 9). -/
def defaultErrLayout : CacheErrLayout :=
  { ec := 30, ew := 29, iD := 26, iTA := 24, iTS := 22, iPIdx := 6, dEE := 28, dD := 26, dTA := 24, dTS := 22,
    dTM := 20, dPIdx := 3, sD := 26, sTA := 24, sSIdx := 6, xEE := 28, xD := 26, xSA := 25, xSC := 24, xSR := 23,
    xSIdx := 6 }

/-- The default TagLo and TagHi layout (R217; log 9). -/
def defaultTagLayout : TagLayout :=
  { iPTag0 := 8, iPState := 6, iLRU := 3, iSP := 2, iTP := 0, iPTag1 := 0, dPTag0 := 8, dPState := 6, dLRU := 3,
    dSP := 2, dWay := 1, dTP := 0, dMod := 29, dPTag1 := 0, sSTag0 := 14, sSState := 10, sVIndex := 7, sECC := 0,
    sMRU := 31, sSTag1 := 0 }

/-- The default SysADEccMatrix (R988; U38): row `k` is the mask of the SysAD bits of SysADChk[k]; even polarity. -/
def defaultSysAdEcc : EccMatrix :=
  { rows := [0x145011110ff014ff, 0x24ff2222f000249f, 0x4c9f444400ff44d0, 0x84d08888ff0f8c50, 0x0931f0ff11110b21,
      0x0b22ff002222fa32, 0xfa24000f4444ff24, 0xff280ff088880928], odd := 0 }

/-- The hardware of `State.reset`: an R10000 with the mode bits of spec/70 R1175 (a), all memory RAM (log 6). -/
def defaultHw : Hw :=
  { variant := .r10000, modeBits := 0x118E2B#64, pridImp := 0x09#8, pridRev := 0#8, fcr0Imp := 0x09#8,
    fcr0Rev := 0#8, physMap := [], diagLayout := defaultDiagLayout, errLayout := defaultErrLayout,
    tagLayout := defaultTagLayout, sysAdEccMatrix := defaultSysAdEcc, longConvLimit := none,
    readState := 2#2 }

def Diag.reset : Diag :=
  { dbrc := false, bpMode := 0#2, bpState := 0#2, bpIdx := 0#11, bpOp := 0#2, btacDisable := false,
    ghistory := 0#4, inSlot := false }

def Perf.reset : Perf :=
  { ctl := Vector.replicate 4 0#32, cnt := Vector.replicate 4 0#32, reload := 0#16, missAddr := 0#40,
    cnt3Miss := false, cnt3High := 0#32, syndrome := 0#9 }

/-- The CP0 registers after Cold Reset (R70, R1130): Status has ERL and BEV set, Random stands at 63, Wired,
FrameMask and CacheErr.EW are 0, K0 is the mode bits' Kseg0CA; the fields the spec leaves undefined are 0 (log 1). -/
def Cp0.reset (modeBits : BitVec 64) (errorEpc : BitVec 64) (steps : Nat) : Cp0 :=
  { index := 0#6, probeFail := false, randomBoundStep := steps, entryLo0 := 0#64, entryLo1 := 0#64,
    context := 0#64, pageMask := 0#12, wired := 0#6, badVAddr := 0#64, count := 0#32, compare := 0#32, timerLatch := false,
    entryHi := 0#64, status := 0x00400004#32, causeBD := false, causeCE := 0#2, excCode := 0#5, softIp := 0#2,
    interrupt := 0#5, epc := 0#64, k0 := modeBits.setWidth 3, llAddr := 0#32, watchLo := 0#32, watchHi := 0#32,
    watchPending := false, xcontext := 0#64, frameMask := 0#16, diag := Diag.reset, perf := Perf.reset,
    ecc := 0#10, cacheErr := 0#32, tagLo := 0#32, tagHi := 0#32, errorEpc := errorEpc }

def TlbPage.zero : TlbPage := { pfn := 0#28, c := 0#3, d := false, v := false, uc := 0#2 }

/-- A TLB entry that matches nothing: every entry after reset (log 4). -/
def TlbEntry.empty : TlbEntry :=
  { mask := 0#12, r := 0#2, vpn2 := 0#31, asid := 0#8, g := false, even := .zero, odd := .zero, matchable := false }

/-- Caches with nothing listed: every block invalid, every check bit consistent (log 5). -/
def Caches.empty : Caches :=
  { itag := [], idata := [], ilru := [], dtag := [], ddata := [], dlru := [], stag := [], sdata := [], mru := [] }

def CacheEvents.none : CacheEvents :=
  { quadsD := 0, quadsS := 0, eccFixed := 0, icMiss := 0, dcMiss := 0, dcClean := 0, scMissI := 0, scMissD := 0, scFillI := 0,
    scFillD := 0, prefTags := 0, prefFills := 0, wayMissI := 0, wayMissD := 0, upClean := 0, upShared := 0, ivn := 0, inv := 0,
    ivnHit := 0#2, invHit := 0#2 }

/-- No instruction waits. -/
def Sctp.none : Sctp := { fetch := false, data := false, missed := false }

def Jtag.reset : Jtag :=
  { tap := .testLogicReset, irShift := 0#4, ir := 0xF#4, bypass := false, bsrShift := 0#334, bsr := 0#334,
    tdo := false }

def PostedErrors.none : PostedErrors :=
  { icache := Option.none, dcache := Option.none, scache := Option.none, sysif := Option.none }

/-- The boundary after reset; what the registers of the cache test mode hold outside the mode, which nothing reads, is zero by
the model's choice (R1027; log 29). -/
def Ext.reset : Ext :=
  { bus := [], outgoing := [], outstanding := [], cluster := [], probes := [], forwarded := [], busErr := none,
    agentStores := [], readsHeld := false, writesHeld := false, fifo := [], gathered := [], gather := none, gblPerf := true, nmiLatch := false, posted := .none, inbox := [], replies := [],
    intDelays := [], intWait := 0, victims := [], jtag := .reset,
    test := { active := false, lastAddr := 0#12, lastWay := false, lastData := 0#40 }, hung := false }

/-- The reset vector (R36, R1048). -/
def resetVector : BitVec 64 := 0xFFFFFFFFBFC00000#64

/-- The machine right after a Power-on or Cold Reset (R70, R1130) of the hardware `hw`, with given memory, caches
and boundary. -/
def State.cold (hw : Hw) (errorEpc : BitVec 64) (mem : Memory) (caches : Caches) (ext : Ext) (steps : Nat) : State :=
  { gpr := Vector.replicate 32 0#64, hi := 0#64, lo := 0#64, pc := resetVector, delaySlot := none, llbit := false,
    llblock := 0#40, cp0 := Cp0.reset hw.modeBits errorEpc steps,
    fpu := { fpr := Vector.replicate 32 0#64, fcr31 := 0#32 }, tlb := Vector.replicate 64 TlbEntry.empty,
    caches := caches, mem := mem, ext := ext, hw := hw, steps := steps, note := .done, events := .none,
    sctp := .none }

/-- The machine right after reset: memory and caches with nothing listed. -/
def State.reset : State := State.cold defaultHw 0#64 [] Caches.empty Ext.reset 0

/-! ## The second start state of spec/00_scope.md R20 -/

/-- What `Booted` leaves to its user: the hardware, memory with the handlers in place, the initialised caches, the TLB
and the registers a test gives. -/
structure BootConfig where
  hw      : Hw
  mem     : Memory
  caches  : Caches
  tlb     : Vector TlbEntry 64
  wired   : BitVec 6
  status  : BitVec 32
  softIp  : BitVec 2
  count   : BitVec 32
  compare : BitVec 32
  k0      : BitVec 3
  gpr     : Vector (BitVec 64) 32
  pc      : BitVec 64
deriving DecidableEq, Repr

/-- `Booted(cfg)` (R20): the work of the boot code done, LLbit clear and no event pending; what `cfg` does not name is as
after a cold reset. -/
def State.booted (cfg : BootConfig) : State :=
  let s := State.cold cfg.hw 0#64 cfg.mem cfg.caches Ext.reset 0
  { s with gpr := cfg.gpr, pc := cfg.pc, tlb := cfg.tlb
           cp0 := { s.cp0 with wired := cfg.wired, status := cfg.status, softIp := cfg.softIp, count := cfg.count,
                               compare := cfg.compare, k0 := cfg.k0 } }

end Sys2Proof.Machine
end

