-- ==== Sys2Proof/Machine/Ops.lean ====
section
/-! DEFINITION. The named operations over the state: sparse arrays and memory bytes, register access, the mode
function, the result of a piece of an instruction, taking an exception (spec/60_exceptions.md R1046, R1049) and the
return from one (spec/45_cp0_instructions.md R723). -/

namespace Sys2Proof.Machine

/-! ## Sparse arrays -/

/-- The value at key `k`; an unlisted key reads as `d`. -/
def sparseGet {α : Type} (d : α) : Sparse α → Nat → α
  | [], _ => d
  | (a, v) :: m, k => if k = a then v else if k < a then d else sparseGet d m k

/-- The array with the value at key `k` replaced.  Writing the default removes the entry, so that equal arrays are
equal lists. -/
def sparseSet {α : Type} [DecidableEq α] (d : α) : Sparse α → Nat → α → Sparse α
  | [], k, v => if v = d then [] else [(k, v)]
  | (a, w) :: m, k, v =>
    if k = a then (if v = d then m else (k, v) :: m)
    else if k < a then (if v = d then (a, w) :: m else (k, v) :: (a, w) :: m)
    else (a, w) :: sparseSet d m k v

/-- The canonical form: keys strictly rising from `lo` on, and no entry equal to the default. -/
def sparseWfFrom {α : Type} [DecidableEq α] (d : α) : Nat → Sparse α → Bool
  | _, [] => true
  | lo, (a, v) :: m => decide (lo ≤ a) && decide (v ≠ d) && sparseWfFrom d (a + 1) m

/-- The canonical form of a sparse array. -/
def sparseWf {α : Type} [DecidableEq α] (d : α) (m : Sparse α) : Bool := sparseWfFrom d 0 m

/-! ## Memory bytes (spec/20_memory.md R230, R236) -/

/-- The byte of memory at a physical address. -/
def Memory.read (m : Memory) (pa : Nat) : Byte := sparseGet Memory.unwritten m pa

/-- Memory with one byte written. -/
def Memory.write (m : Memory) (pa : Nat) (b : Byte) : Memory := sparseSet Memory.unwritten m pa b

/-- Memory with a list of bytes written from `pa` on. -/
def Memory.writeList (m : Memory) (pa : Nat) : List Byte → Memory
  | [] => m
  | b :: bs => Memory.writeList (Memory.write m pa b) (pa + 1) bs

/-- The canonical form of memory. -/
def Memory.wf (m : Memory) : Bool := sparseWf Memory.unwritten m

/-- `n` bytes read through `rd` from `a` on, lowest address first. -/
def readBytes (rd : Nat → Byte) (a : Nat) : Nat → List Byte
  | 0 => []
  | n + 1 => rd a :: readBytes rd (a + 1) n

/-- The number a list of bytes stands for, the first byte the most significant. -/
def bytesToNat : List Byte → Nat → Nat
  | [], acc => acc
  | b :: bs, acc => bytesToNat bs (acc * 256 + b.toNat)

/-- The value of bytes given lowest address first, in the byte order `be` (R236 `LoadBytes`). -/
def valueOfBytes (be : Bool) (bs : List Byte) : DWord :=
  BitVec.ofNat 64 (bytesToNat (if be then bs else bs.reverse) 0)

/-- The `n` low bytes of a value, least significant first. -/
def bytesLE (v : DWord) : Nat → List Byte
  | 0 => []
  | n + 1 => v.setWidth 8 :: bytesLE (v >>> 8) n

/-- The `n` bytes that store `v`, lowest address first, in the byte order `be` (R236 `StoreBytes`). -/
def bytesOfValue (be : Bool) (v : DWord) (n : Nat) : List Byte :=
  if be then (bytesLE v n).reverse else bytesLE v n

/-! ## General registers (spec/10_state.md R30, R31) -/

/-- The value of a general register; register 0 reads as zero (R31). -/
def State.rget (s : State) (r : RegNum) : DWord := if r = 0#5 then 0#64 else s.gpr.get r.toFin

/-- The state with a general register written; a write to register 0 is discarded (R31). -/
def State.rset (s : State) (r : RegNum) (v : DWord) : State :=
  if r = 0#5 then s else { s with gpr := s.gpr.set r.toNat v r.isLt }

/-! ## Status and mode (spec/11_cp0_registers.md R103 to R116; spec/10_state.md R46) -/

/-- A bit of Status. -/
def State.statusBit (s : State) (i : Nat) : Bool := s.cp0.status.getLsbD i

/-- Status.KSU, bits 4:3. -/
def State.ksu (s : State) : BitVec 2 := s.cp0.status.extractLsb' 3 2

/-- The three operating modes (R290). -/
inductive Mode where
  | kernel
  | supervisor
  | user
deriving DecidableEq, Repr

/-- The operating mode, a function of ERL, EXL and KSU (R46, R290); KSU = 3 is User mode (R114). -/
def State.mode (s : State) : Mode :=
  if s.statusBit 2 || s.statusBit 1 || s.ksu == 0#2 then .kernel
  else if s.ksu == 1#2 then .supervisor
  else .user

/-- 64-bit addressing: KX, SX or UX of the current mode (R290). -/
def State.addr64 (s : State) : Bool :=
  match s.mode with
  | .kernel => s.statusBit 7
  | .supervisor => s.statusBit 6
  | .user => s.statusBit 5

/-- MIPS III instructions are enabled (R113). -/
def State.mips3 (s : State) : Bool :=
  match s.mode with
  | .kernel => true
  | .supervisor => s.statusBit 6
  | .user => s.statusBit 5

/-- MIPS IV instructions are enabled (R113). -/
def State.mips4 (s : State) : Bool :=
  match s.mode with
  | .kernel => true
  | .supervisor => true
  | .user => s.statusBit 31

/-- CP0 is usable: Kernel mode, or Status.CU0 (R45, R710). -/
def State.cp0Usable (s : State) : Bool := s.mode == .kernel || s.statusBit 28

/-- CP1 is usable: Status.CU1 (R105). -/
def State.cp1Usable (s : State) : Bool := s.statusBit 29

/-- The state with Status replaced. -/
def State.setStatus (s : State) (v : Word) : State := { s with cp0 := { s.cp0 with status := v } }

/-- The byte order of the memory system: MemEnd, mode bit 15 (R232). -/
def State.bigEndianMem (s : State) : Bool := s.hw.modeBits.getLsbD 15

/-- The byte order of the current instruction's loads and stores: MemEnd, reversed by Status.RE in User mode (R233). -/
def State.bigEndianCpu (s : State) : Bool :=
  s.bigEndianMem ^^ (s.statusBit 25 && s.mode == .user)

/-- A free value of the current step (log 7). -/
def State.free (s : State) (site : FreeSite) : DWord := Config.free site s.steps

/-- The variant is an R12000 or R12000A (R8). -/
def State.isR12k (s : State) : Bool := s.hw.variant != .r10000

/-! ## The result of a piece of an instruction -/

/-- What a piece of an instruction gives: a value and the state so far; an exception to take, with the state that
survives it (caches, bus, FCR31.Cause); an instruction that cannot graduate yet; or a stop. -/
inductive Res (α : Type) where
  | ok (a : α) (s : State)
  | exc (e : Exc) (s : State)
  | retry (s : State)
  | fault (f : Fault)
  | refuse (r : Refusal)

/-- Sequencing: the rest runs on what the first piece gives. -/
def Res.bind {α β : Type} (x : Res α) (f : α → State → Res β) : Res β :=
  match x with
  | .ok a s => f a s
  | .exc e s => .exc e s
  | .retry s => .retry s
  | .fault r => .fault r
  | .refuse r => .refuse r

/-! ## Taking an exception (spec/60_exceptions.md R1045 to R1050) -/

/-- Cause.ExcCode of an exception (R121). -/
def excCode : Exc → BitVec 5
  | .interrupt => 0#5
  | .tlbModified _ => 1#5
  | .tlbRefill _ k | .tlbInvalid _ k => if k = .store then 3#5 else 2#5
  | .addressError _ k => if k = .store then 5#5 else 4#5
  | .busError k => if k = .fetch then 6#5 else 7#5
  | .syscall => 8#5
  | .breakpoint => 9#5
  | .reservedInstr => 10#5
  | .copUnusable _ => 11#5
  | .overflow => 12#5
  | .trap => 13#5
  | .floatingPoint => 15#5
  | .watch => 23#5

/-- A mapped address belongs to a 64-bit space: the extended-addressing bit of its region is set (R314). -/
def State.xrefill (s : State) (va : DWord) : Bool :=
  match va.extractLsb' 62 2 with
  | 3#2 => s.statusBit 7
  | 1#2 => s.statusBit 6
  | _ => s.statusBit 5

/-- The vector offset (R1046, R1048): the two refill vectors only with EXL = 0. -/
def vectorOffset (e : Exc) (s : State) : DWord :=
  match e with
  | .tlbRefill va _ => if s.statusBit 1 then 0x180#64 else if s.xrefill va then 0x080#64 else 0x000#64
  | _ => 0x180#64

/-- `VectorBase` (R1048): by Status.BEV. -/
def State.vectorBase (s : State) : DWord :=
  if s.statusBit 22 then 0xFFFFFFFFBFC00200#64 else 0xFFFFFFFF80000000#64

/-- The bits an EntryLo register has (R85). -/
def entryLoMask : DWord := 0xC0000003FFFFFFFF#64

/-- Context with BadVPN2, bits 22:4, replaced (R89). -/
def contextWith (ctx : DWord) (vpn : BitVec 19) : DWord := (ctx.extractLsb' 23 41 ++ vpn ++ 0#4).cast (by decide)

/-- XContext with R, bits 36:35, and BadVPN2, bits 34:4, replaced (R139). -/
def xcontextWith (x : DWord) (rvpn : BitVec 33) : DWord := (x.extractLsb' 37 27 ++ rvpn ++ 0#4).cast (by decide)

/-- EntryHi from R, VPN2 and ASID (R100). -/
def entryHiOf (r : BitVec 2) (vpn2 : BitVec 31) (asid : BitVec 8) : DWord :=
  (r ++ 0#18 ++ vpn2 ++ 0#5 ++ asid).cast (by decide)

/-- EntryHi.ASID (R100). -/
def State.asid (s : State) : BitVec 8 := s.cp0.entryHi.setWidth 8

/-- EntryLo0 and EntryLo1 after an Address Error or a TLB exception: undefined (R85, R309, R315; log 7). -/
def freeEntryLo (s : State) : State :=
  { s with cp0 := { s.cp0 with entryLo0 := s.free .entryLo0 &&& entryLoMask,
                               entryLo1 := s.free .entryLo1 &&& entryLoMask } }

/-- What the TLB exceptions record (R315): BadVAddr, Context.BadVPN2, XContext.R and BadVPN2, EntryHi.R and VPN2;
EntryHi.ASID is kept and the EntryLo registers are undefined. -/
def recordTlb (va : DWord) (s : State) : State :=
  freeEntryLo
    { s with cp0 := { s.cp0 with
        badVAddr := va
        context := contextWith s.cp0.context (va.extractLsb' 13 19)
        xcontext := xcontextWith s.cp0.xcontext (va.extractLsb' 62 2 ++ va.extractLsb' 13 31)
        entryHi := entryHiOf (va.extractLsb' 62 2) (va.extractLsb' 13 31) s.asid } }

/-- What an Address Error records (R309): BadVAddr; the VPN fields and the EntryLo registers are undefined. -/
def recordAddressError (va : DWord) (s : State) : State :=
  freeEntryLo
    { s with cp0 := { s.cp0 with
        badVAddr := va
        context := contextWith s.cp0.context ((s.free .contextVpn).setWidth 19)
        xcontext := xcontextWith s.cp0.xcontext ((s.free .xcontextVpn).setWidth 33)
        entryHi := entryHiOf ((s.free .entryHiVpn).extractLsb' 31 2) ((s.free .entryHiVpn).setWidth 31) s.asid } }

/-- The per-exception registers (R1050): BadVAddr and the TLB registers, Cause.CE (undefined but for Coprocessor
Unusable), the delayed-Watch latch. -/
def recordExc (e : Exc) (s : State) : State :=
  let s := match e with
    | .addressError va _ => recordAddressError va s
    | .tlbRefill va _ | .tlbInvalid va _ | .tlbModified va => recordTlb va s
    | .watch => { s with cp0 := { s.cp0 with watchPending := false } }
    | _ => s
  let ce := match e with
    | .copUnusable cop => cop
    | _ => (s.free .causeCE).setWidth 2
  { s with cp0 := { s.cp0 with causeCE := ce } }

/-- The restart address of the instruction at `pc`: the branch before it when it is in a delay slot (R634). -/
def State.restart (s : State) : DWord := if s.delaySlot.isSome then s.pc - 4#64 else s.pc

/-- Taking an exception: the general entry (R1046) for the instruction at `pc`.  With EXL = 0 EPC and Cause.BD are
saved; then ExcCode, EXL, LLbit, the delay slot and the pc are set. -/
def takeException (e : Exc) (s0 : State) : State :=
  let s := recordExc e s0
  let exl := s.statusBit 1
  { s with
    cp0 := { s.cp0 with
      epc := if exl then s.cp0.epc else s.restart
      causeBD := if exl then s.cp0.causeBD else s.delaySlot.isSome
      excCode := excCode e
      status := s.cp0.status ||| 0x2#32 }
    llbit := false
    delaySlot := none
    pc := s.vectorBase + vectorOffset e s
    note := .raised e }

/-- The error-level entry (R1049): ErrorEPC, ERL, LLbit, the delay slot and the pc. -/
def errorEntry (vector : DWord) (s : State) : State :=
  { s with
    cp0 := { s.cp0 with errorEpc := s.restart, status := s.cp0.status ||| 0x4#32
                        diag := { s.cp0.diag with inSlot := false } }
    llbit := false
    delaySlot := none
    pc := vector }

/-- The return from an exception (R723): through ErrorEPC clearing ERL when ERL = 1, else through EPC clearing EXL;
LLbit is cleared and there is no delay slot. -/
def returnFromException (s : State) : State :=
  if s.statusBit 2 then
    { s with cp0 := { s.cp0 with status := s.cp0.status &&& ~~~0x4#32 }, llbit := false, pc := s.cp0.errorEpc }
  else
    { s with cp0 := { s.cp0 with status := s.cp0.status &&& ~~~0x2#32 }, llbit := false, pc := s.cp0.epc }

/-! ## The end of an instruction (spec/43_branch_jump.md R630) -/

/-- The pc after an instruction that is no taken branch: the delay slot's target, or the next word (R37, R630). -/
def advance (s : State) : State := { s with pc := s.delaySlot.getD (s.pc + 4#64), delaySlot := none }

/-- What an instruction answers. -/
abbrev Out := Host.Outcome State Fault Refusal

/-- The outcome of an instruction that changes the pc itself. -/
def Res.finishAt (x : Res Unit) : Out :=
  match x with
  | .ok _ s => .next s
  | .exc e s => .next (takeException e s)
  | .retry s => .next { s with note := .waiting }
  | .fault f => .fault f
  | .refuse r => .refused r

/-- The outcome of an instruction that falls through: completed, trapped, waiting or stopped. -/
def Res.finish (x : Res Unit) : Out := (x.bind fun _ s => .ok () (advance s)).finishAt

/-- The outcome of an instruction whose one result goes to a general register. -/
def Res.finishGpr (rd : RegNum) (x : Res DWord) : Out := (x.bind fun v s => .ok () (s.rset rd v)).finish

/-! ## Usability and instruction-set gates (spec/30_encoding.md R411 to R413) -/

/-- MIPS IV gating: Reserved Instruction when MIPS IV is not enabled (R412). -/
def needMips4 (s : State) : Res Unit := if s.mips4 then .ok () s else .exc .reservedInstr s

/-- MIPS III gating: Reserved Instruction when MIPS III is not enabled (R411). -/
def needMips3 (s : State) : Res Unit := if s.mips3 then .ok () s else .exc .reservedInstr s

/-- Coprocessor 1 must be usable (R413). -/
def needCp1 (s : State) : Res Unit := if s.cp1Usable then .ok () s else .exc (.copUnusable 1#2) s

/-- Coprocessor 0 must be usable (R710). -/
def needCp0 (s : State) : Res Unit := if s.cp0Usable then .ok () s else .exc (.copUnusable 0#2) s

/-- The COP1X gate: MIPS IV, then CP1 (R413). -/
def needCop1x (s : State) : Res Unit := (needMips4 s).bind fun _ s => needCp1 s

end Sys2Proof.Machine
end

