-- ==== Sys2Proof/Machine/Parity.lean ====
section
/-! DEFINITION. Parity and error-correcting codes (spec/51_errors_jtag_testmode.md R983 to R993; spec/12 R185): even
parity of the primary arrays, the SECDED codes of the secondary cache data and tag arrays and of the SysAD bus. -/

namespace Sys2Proof.Machine

/-- One halving step of a parity computation. -/
def parityFold (k : Nat) (x : Nat) : Nat := x ^^^ (x >>> k)

/-- The parity (exclusive or) of the low 128 bits of a number. -/
def parityNat (x : Nat) : Bool :=
  (parityFold 1 (parityFold 2 (parityFold 4 (parityFold 8 (parityFold 16 (parityFold 32 (parityFold 64 x))))))).testBit 0

/-- The even parity bit of a bit vector of at most 128 bits (R983). -/
def evenParity {n : Nat} (x : BitVec n) : Bool := parityNat x.toNat

/-- The parity rows of the secondary cache data code: row `k` lists, as a mask, the SCData bits of SCDataChk[k].  R986 leaves
the code a parameter (N8); that it is the equations of R185, with even polarity, is the model's choice (log 67). -/
def dataEccRows : List Nat :=
  [0x010404200b0d0b4704e0ff60c3ffc0ff, 0x04090944131210084dc0e0ffe0c0ffff, 0x0a12121823202100baffc0a0d0ffffc1,
   0x10232081444046bffc3fdf3f4c010142, 0x214043ff808084ffff210101ffc20284, 0x42808012fcfbfc3ffd6202228504c408,
   0x83ffff030503ff5c808404c438484850, 0xffff030fff0703b2100848c802909020, 0xff03ffe306ff072162d0b0d000202080]

/-- The parity rows of the secondary cache tag code (R993): row `k` is the mask of the SCTag bits of SCTagChk[k]. -/
def tagEccRows : List Nat := [0x1ff1111, 0x245222f, 0x10a40ff, 0x29184f0, 0x2620f42, 0x114ff04, 0x0a8f888]

/-- The check bits of a value: bit `k` is the parity of the bits in row `k` (even polarity, R993). -/
def eccBits : List Nat → Nat → Nat
  | [], _ => 0
  | row :: rows, x => (if parityNat (x &&& row) then 1 else 0) + 2 * eccBits rows x

/-- The column of data bit `i`: the rows that contain it. -/
def eccColumn : List Nat → Nat → Nat
  | [], _ => 0
  | row :: rows, i => (if row.testBit i then 1 else 0) + 2 * eccColumn rows i

/-- What a read of a protected value finds (R980). -/
inductive EccRead where
  /-- No error, with the value. -/
  | clean (x : Nat)
  /-- A single-bit error, with the corrected value. -/
  | corrected (x : Nat)
  /-- An error that cannot be corrected, with the value as stored. -/
  | bad (x : Nat)
deriving DecidableEq, Repr

/-- The value of a read, corrected where it can be. -/
def EccRead.value : EccRead → Nat
  | .clean x | .corrected x | .bad x => x

/-- The data bit below `n` whose column is the syndrome. -/
def eccFindBit (rows : List Nat) (syn : Nat) : Nat → Option Nat
  | 0 => none
  | n + 1 => if eccColumn rows n = syn then some n else eccFindBit rows syn n

/-- A syndrome is that of a single check bit: a power of two. -/
def isCheckBit (rows : List Nat) (syn : Nat) : Bool := (List.range rows.length).any fun k => 2 ^ k == syn

/-- Reading `n` data bits `x` stored with check bits `chk` (R980, R983). -/
def eccRead (rows : List Nat) (n x chk : Nat) : EccRead :=
  let syn := eccBits rows x ^^^ chk
  if syn = 0 then .clean x
  else if isCheckBit rows syn then .corrected x
  else
    match eccFindBit rows syn n with
    | some i => .corrected (x ^^^ 2 ^ i)
    | none => .bad x

/-- The ECC of a secondary cache quadword (R986). -/
def quadEcc (d : BitVec 128) : BitVec 9 := BitVec.ofNat 9 (eccBits dataEccRows d.toNat)

/-- A secondary cache quadword written with its proper check bits (R986). -/
def SQuad.of (d : BitVec 128) : SQuad := { data := d, ecc := quadEcc d, sp := evenParity d }

/-- A quadword whose check bits mark it as uncorrectable: two check bits inverted (R982).  Which ones, bits 0 and 1,
is the model's choice (log 78). -/
def SQuad.corrupt (d : BitVec 128) : SQuad := { data := d, ecc := quadEcc d ^^^ 3#9, sp := evenParity d }

/-- The 26 bits of a secondary cache tag (R354). -/
def STag.bits (t : STag) : BitVec 26 := (t.tag ++ t.vindex ++ t.st).cast (by decide)

/-- A secondary cache tag with its proper ECC (R986). -/
def STag.of (tag : BitVec 22) (vindex st : BitVec 2) : STag :=
  let bits : BitVec 26 := (tag ++ vindex ++ st).cast (by decide)
  { tag := tag, vindex := vindex, st := st, ecc := BitVec.ofNat 7 (eccBits tagEccRows bits.toNat) }

/-- Reading a secondary cache tag: corrected where it can be (R986). -/
def STag.check (t : STag) : EccRead := eccRead tagEccRows 26 t.bits.toNat t.ecc.toNat

/-- The tag of 26 corrected bits. -/
def STag.ofBits (b : BitVec 26) (ecc : BitVec 7) : STag :=
  { tag := b.extractLsb' 4 22, vindex := b.extractLsb' 2 2, st := b.extractLsb' 0 2, ecc := ecc }

/-- Reading a quadword: corrected where it can be (R986). -/
def SQuad.check (q : SQuad) : EccRead := eccRead dataEccRows 128 q.data.toNat q.ecc.toNat

/-- The syndrome of a quadword as stored (R185). -/
def SQuad.syndrome (q : SQuad) : BitVec 9 := quadEcc q.data ^^^ q.ecc

/-- The eight ECC bits of a SysAD cycle under a check matrix (R987, R988, U38). -/
def sysAdEcc (m : EccMatrix) (ad : BitVec 64) : BitVec 8 := BitVec.ofNat 8 (eccBits m.rows ad.toNat ^^^ m.odd)

/-- Reading a SysAD cycle under a check matrix (R987). -/
def sysAdRead (m : EccMatrix) (ad : BitVec 64) (chk : BitVec 8) : EccRead := eccRead m.rows 64 ad.toNat (chk.toNat ^^^ m.odd)

/-- The odd parity bit of SysCmd, SysState and SysResp cycles (R987, R989). -/
def oddParity {n : Nat} (x : BitVec n) : Bool := !evenParity x

/-- A data cache tag with its proper parity bits (R985): state parity covers PState and the way bit (R212). -/
def DTag.of (tag : BitVec 28) (st : BitVec 2) (mod : BitVec 3) (way : Bool) : DTag :=
  { tag := tag, st := st, mod := mod, way := way, sp := evenParity st ^^ way, tp := evenParity tag }

/-- An instruction cache tag with its proper parity bits (R984). -/
def ITag.of (tag : BitVec 28) (valid : Bool) : ITag :=
  { tag := tag, valid := valid, sp := valid, tp := evenParity tag }

/-- The byte parity bits of a data cache word: bit `k` covers bits 8k+7..8k (log 32). -/
def wordParity (w : Word) : BitVec 4 :=
  BitVec.ofBool (evenParity (w.extractLsb' 24 8)) ++ BitVec.ofBool (evenParity (w.extractLsb' 16 8)) ++
    BitVec.ofBool (evenParity (w.extractLsb' 8 8)) ++ BitVec.ofBool (evenParity (w.extractLsb' 0 8))

/-- A data cache word with its proper parity. -/
def DWordCell.of (w : Word) : DWordCell := { word := w, par := wordParity w }

end Sys2Proof.Machine
end

