-- ==== Sys2Proof/Machine/Bus.lean ====
section
/-! DEFINITION. The System interface (spec/50_system_interface.md): the processor's requests as the machine's output,
their wire encodings (R920 to R931, R978), the external agent's replies, physical memory as the agent serves it, and
the uncached buffer's gathering (R914 to R916). -/

namespace Sys2Proof.Machine

/-! ## Mode bits (spec/70 R1136) -/

/-- DevNum, mode bits 4:3. -/
def Hw.devNum (h : Hw) : BitVec 2 := h.modeBits.extractLsb' 3 2
/-- CohPrcReqTar, mode bit 5. -/
def Hw.cohPrcReqTar (h : Hw) : Bool := h.modeBits.getLsbD 5
/-- PrcElmReq, mode bit 6. -/
def Hw.prcElmReq (h : Hw) : Bool := h.modeBits.getLsbD 6
/-- SCBlkSize, mode bit 13: the base-2 logarithm of the secondary block size in bytes (R353). -/
def Hw.blkLog (h : Hw) : Nat := if h.modeBits.getLsbD 13 then 7 else 6
/-- SCSize, mode bits 18:16. -/
def Hw.scSize (h : Hw) : Nat := (h.modeBits.extractLsb' 16 3).toNat
/-- CTM, mode bit 31. -/
def Hw.ctm (h : Hw) : Bool := h.modeBits.getLsbD 31

/-- The secondary block that contains a physical address: its base (R927). -/
def Hw.blockBase (h : Hw) (pa : PAddr) : PAddr := (pa >>> h.blkLog) <<< h.blkLog

/-! ## Wire encodings -/

/-- A SysCmd address cycle (R920, R921): request number, command, bits 4:3, bits 2:0. -/
def sysCmdAddr (rq : BitVec 3) (cmd : BitVec 3) (cause : BitVec 2) (low : BitVec 3) : BitVec 12 :=
  (0#1 ++ rq ++ cmd ++ cause ++ low).cast (by decide)

/-- A SysCmd data cycle (R923): request number, data quality, data type, block state; bit 0 asserted. -/
def sysCmdData (rq : BitVec 3) (bad : Bool) (type : BitVec 2) (st : BitVec 2) : BitVec 12 :=
  (1#1 ++ rq ++ 0#2 ++ BitVec.ofBool bad ++ type ++ st ++ 1#1).cast (by decide)

/-- A SysAD address cycle (R925): target, uncached attribute, way, physical address. -/
def sysAdAddr (target : BitVec 4) (uc : BitVec 2) (way : Bool) (pa : PAddr) : DWord :=
  (target ++ uc ++ BitVec.ofBool way ++ 0#17 ++ pa).cast (by decide)

/-- The target of a coherent block read or upgrade (R925): all processors when CohPrcReqTar is asserted. -/
def cohTarget (h : Hw) : BitVec 4 := if h.cohPrcReqTar then 0xF#4 else 0#4

/-- The SysCmd data size field (R921): bytes minus one. -/
def sizeField (n : Nat) : BitVec 3 := BitVec.ofNat 3 (n - 1)

/-- Clear the low `k` bits of a physical address. -/
def alignDown (k : Nat) (pa : PAddr) : PAddr := (pa >>> k) <<< k

/-- The address driven for an uncached access of `n` bytes (R926). -/
def dspAddr (n : Nat) (pa : PAddr) : PAddr :=
  if n = 8 then alignDown 3 pa else if n = 4 then alignDown 2 pa else if n = 2 then alignDown 1 pa else pa

/-- The low bit of the SysAD lane of the byte at an address (R928). -/
def laneOf (be : Bool) (a : Nat) : Nat := 8 * (if be then 7 - a % 8 else a % 8)

/-- SysAD of a partial write's data cycle (R928): the bytes in their lanes over `junk`, the undefined content of the
other lanes (U42). -/
def laneData (be : Bool) (junk : DWord) (a : Nat) : List Byte → DWord
  | [] => junk
  | b :: bs =>
    (laneData be junk (a + 1) bs &&& ~~~((0xFF#64) <<< laneOf be a)) ||| (zext64 b <<< laneOf be a)

/-- One SysClk cycle on the bidirectional pins: SysCmd with SysCmdPar, SysAD with SysADChk (R905, R987). -/
structure BusCycle where
  cmd : BitVec 12
  par : Bool
  ad  : BitVec 64
  chk : BitVec 8
deriving DecidableEq, Repr

/-- A cycle driven with its proper parity and ECC (R987). -/
def BusCycle.of (h : Hw) (cmd : BitVec 12) (ad : BitVec 64) : BusCycle :=
  { cmd := cmd, par := oddParity cmd, ad := ad, chk := sysAdEcc h.sysAdEccMatrix ad }

/-- The data cycles of a block: all but the last carry `type`, the last `last`; each has its own data quality (R949,
R960, R982). -/
def blockCycles (h : Hw) (rq : BitVec 3) (type last : BitVec 2) (st : BitVec 2) : List (DWord × Bool) → List BusCycle
  | [] => []
  | [d] => [.of h (sysCmdData rq d.2 last st) d.1]
  | d :: ds => .of h (sysCmdData rq d.2 type st) d.1 :: blockCycles h rq type last st ds

/-- The quadwords `i` to the last in subblock order from quadword `q` on: `q xor i` (R918, U37). -/
def subblockFrom {α : Type} (q : Nat) (quad : Nat → List α) (i : Nat) : Nat → List α
  | 0 => []
  | n + 1 => quad (q ^^^ i) ++ subblockFrom q quad (i + 1) n

/-- The doublewords of a block, given in address order, in subblock order from quadword `q` on (R918, U37). -/
def subblock {α : Type} (q : Nat) (ds : List α) : List α :=
  subblockFrom q (fun k => (ds.drop (2 * k)).take 2) 0 (ds.length / 2)

/-- The cycles of a request, with `junk` on undefined lanes (R921, R923, R924, R925, R947 to R952, R960).  State responses
and error pulses use other pins.  That SysAD[59:58] of block reads, typical block writes, upgrades and eliminates, SysAD[57] of
the other requests, and SysCmd[2:1] of an uncached accelerated block write are 0, and that a test read response drives SysCmd
800 (hex) with proper SysCmdPar and SysADChk, is the model's choice (R925, R949, R1021, U43; log 75). -/
def BusReq.cycles (h : Hw) (junk : DWord) : BusReq → List BusCycle
  | .dspRead rq pa n uc cause =>
    [.of h (sysCmdAddr rq 3#3 cause (sizeField n)) (sysAdAddr 0#4 uc false (dspAddr n pa))]
  | .dspWrite _ pa bytes uc cause =>
    [.of h (sysCmdAddr 0#3 5#3 cause (sizeField bytes.length)) (sysAdAddr 0#4 uc false (dspAddr bytes.length pa)),
     .of h (sysCmdData 0#3 false 2#2 0#2) (laneData (h.modeBits.getLsbD 15) junk pa.toNat bytes)]
  | .gatherWrite pa data uc cause =>
    .of h (sysCmdAddr 0#3 4#3 cause 0#3) (sysAdAddr 0#4 uc false (h.blockBase pa)) ::
      blockCycles h 0#3 0#2 2#2 0#2 (data.map fun d => (d, false))
  | .blockRead rq pa cmd cause former way =>
    [.of h (sysCmdAddr rq cmd cause ((former ++ 1#1).cast (by decide)))
      (sysAdAddr (if cmd = 2#3 then 0#4 else cohTarget h) 0#2 way (alignDown 4 pa))]
  | .blockWrite pa data way =>
    .of h (sysCmdAddr 0#3 4#3 1#2 7#3) (sysAdAddr 0#4 0#2 way (h.blockBase pa)) :: blockCycles h 0#3 0#2 2#2 0#2 data
  | .upgrade rq pa cause former way =>
    [.of h (sysCmdAddr rq 6#3 cause ((former ++ 1#1).cast (by decide)))
      (sysAdAddr (cohTarget h) 0#2 way (alignDown 4 pa))]
  | .eliminate pa former way =>
    [.of h (sysCmdAddr 0#3 7#3 1#2 ((former ++ 1#1).cast (by decide))) (sysAdAddr 0#4 0#2 way (h.blockBase pa))]
  | .dataResponse _ rq pa data st => blockCycles h rq 1#2 3#2 st (subblock (pa.toNat / 16 % 2 ^ (h.blkLog - 4)) data)
  | .stateResponse _ _ => []
  | .corErr => []
  | .uncErr => []
  | .testRead data => [.of h 0x800#12 (zext64 data)]

/-- SysState[2:0] of a coherency state response, SysStateVal* asserted (R929, Table 6-24). -/
def sysState (tagBad : Bool) (former : BitVec 2) : BitVec 3 := (BitVec.ofBool tagBad ++ former).cast (by decide)

/-- A request is a coherency data response. -/
def BusReq.isDataResponse : BusReq → Bool
  | .dataResponse _ _ _ _ _ => true
  | _ => false

/-- SysState[2:0] with SysStateVal* negated (R929, Table 6-25): the processor coherency data response indication, while
one is pending issue (R960). -/
def sysStateIdle (s : State) : BitVec 3 := BitVec.setWidth 3 (BitVec.ofBool (s.ext.outgoing.any BusReq.isDataResponse))

/-- SysStatePar (R989): odd parity. -/
def sysStatePar (st : BitVec 3) : Bool := oddParity st

/-- SysResp[4:0] of a completion response (R930); none where no response is driven or read. -/
def sysResp (rq : BitVec 3) : Completion → Option (BitVec 5)
  | .ack => some ((rq ++ 0#2).cast (by decide))
  | .err => some ((rq ++ 1#2).cast (by decide))
  | .nack => some ((rq ++ 2#2).cast (by decide))
  | .reserved => some ((rq ++ 3#2).cast (by decide))
  | .lost => none
  | .later => none

/-- The request number and the completion that SysResp[4:0] with SysRespPar carries (R930, R989). -/
def completionOf (resp : BitVec 5) (par : Bool) : BitVec 3 × Completion :=
  (resp.extractLsb' 2 3,
    if par != oddParity resp then .lost
    else
      match resp.extractLsb' 0 2 with
      | 0#2 => .ack
      | 1#2 => .err
      | 2#2 => .nack
      | _ => .reserved)

/-! ## External cycles (R922, R923) -/

/-- An external address cycle as this processor takes it (Tables 6-12 and 6-13): none for a NOP.  A coherency request
that does not target the processor only makes its request number busy (R958, R971). -/
def externalRequest (h : Hw) (cmd : BitVec 12) (ad : BitVec 64) : Option EnvEvent :=
  let rq := cmd.extractLsb' 8 3
  let pa := ad.extractLsb' 0 40
  let target := ad.getLsbD (60 + h.devNum.toNat)
  match cmd.extractLsb' 5 3 with
  | 0#3 => some (if target then .intervention false pa rq else .allocate rq)
  | 1#3 => some (if target then .intervention true pa rq else .allocate rq)
  | 2#3 => some (.allocate rq)
  | 3#3 => some (.allocate rq)
  | 4#3 => none
  | 5#3 => none
  | 6#3 => some (if target then .invalidate pa rq else .allocate rq)
  | _ => if cmd.extractLsb' 3 2 = 2#2 then some (.extInterrupt ad) else none

/-- The address cycle of an external interrupt request (R941), ECC check enabled. -/
def interruptCycle (h : Hw) (ad : BitVec 64) : BusCycle := .of h (0b000011110001#12) ad

/-- What SysCmd says of an external data cycle (R923). -/
structure DataCycle where
  rq      : BitVec 3
  /-- Data quality, SysCmd[5]: the data is bad. -/
  bad     : Bool
  /-- Data type, SysCmd[4:3]: response (not request) data, and the last cycle. -/
  isResponse : Bool
  last    : Bool
  st      : BitVec 2
  /-- ECC check indication, SysCmd[0]. -/
  checked : Bool
deriving DecidableEq, Repr

/-- The fields of a data cycle's SysCmd (R923, R924). -/
def dataCycleOf (cmd : BitVec 12) : DataCycle :=
  { rq := cmd.extractLsb' 8 3, bad := cmd.getLsbD 5, isResponse := cmd.getLsbD 3, last := cmd.getLsbD 4,
    st := cmd.extractLsb' 1 2, checked := cmd.getLsbD 0 }

/-- Reading SysAD with its ECC (R987). -/
def BusCycle.read (h : Hw) (c : BusCycle) : EccRead := sysAdRead h.sysAdEccMatrix c.ad c.chk

/-- SysCmd has its odd parity (R987). -/
def BusCycle.parityGood (c : BusCycle) : Bool := c.par == oddParity c.cmd

/-- A value read cannot be corrected. -/
def EccRead.isBad : EccRead → Bool
  | .bad _ => true
  | _ => false

/-- A value read was corrected. -/
def EccRead.isCorrected : EccRead → Bool
  | .corrected _ => true
  | _ => false

/-- The incoming buffer's Uncorrectable Error flag for a data cycle (R912). -/
def BusCycle.isBad (h : Hw) (c : BusCycle) : Bool := c.cmd.getLsbD 5 || (c.cmd.getLsbD 0 && (c.read h).isBad)

/-- The data of a data cycle, corrected where it is checked and can be (R987). -/
def BusCycle.data (h : Hw) (c : BusCycle) : DWord :=
  if c.cmd.getLsbD 0 then BitVec.ofNat 64 (c.read h).value else c.ad

/-- The place in the block of data cycle `i`, which comes in subblock order from quadword `q` on (R918). -/
def cyclePlace (q i : Nat) : Nat := 2 * (q ^^^ (i / 2)) + i % 2

/-- The Uncorrectable Error flags of the data cycles of a response from cycle `i` on (R912, R918, R954). -/
def cycleFlags (h : Hw) (q : Nat) : Nat → List BusCycle → BitVec 16
  | _, [] => 0#16
  | i, c :: cs => cycleFlags h q (i + 1) cs ||| ((BitVec.ofBool (c.isBad h)).setWidth 16 <<< cyclePlace q i)

/-- The doublewords of the data cycles of a response from cycle `i` on, with their places (R918, R954, R955). -/
def cycleData (h : Hw) (q : Nat) : Nat → List BusCycle → List (Nat × DWord)
  | _, [] => []
  | i, c :: cs => (cyclePlace q i, c.data h) :: cycleData h q (i + 1) cs

/-- The data response that remains of data cycles: one that begins after a last cycle over-writes the former one in the
incoming buffer (R911); `former` is what came before. -/
def lastResponse (former : List BusCycle) : List BusCycle → List BusCycle
  | [] => former
  | c :: cs =>
    lastResponse (if former.getLast?.any fun x => (dataCycleOf x.cmd).last then [c] else former ++ [c]) cs

/-- The reply that the external cycles and a completion make, for a request with number `rq` whose quadword is `q` (0 for a
double/single/partial-word read).  A cycle with bad SysCmd parity is lost (R987); data cycles with another request
number are ignored (R990); the last data response counts (R911).  Its block state is that of its last cycle, where the
cycles differ (the model's choice, log 68). -/
def replyOf (h : Hw) (q : Nat) (rq : BitVec 3) (c : Completion) (cycles : List BusCycle) : Reply :=
  let heard := (cycles.filter BusCycle.parityGood).filter fun x =>
    x.cmd.getLsbD 11 && (dataCycleOf x.cmd).rq == rq && (dataCycleOf x.cmd).isResponse
  let mine := lastResponse [] heard
  { completion := c
    st := match mine.getLast? with
      | some x => (dataCycleOf x.cmd).st
      | none => 0#2
    bad := cycleFlags h q 0 mine
    withData := !mine.isEmpty
    data := cycleData h q 0 mine
    corrected := (heard.filter fun x => x.cmd.getLsbD 0 && (x.read h).isCorrected).length
    lostCycles := (cycles.filter fun x => !x.parityGood).length }

/-! ## The cluster bus (R971) -/

/-- What a slave sees in a cycle that another processor drives. -/
inductive Observed where
  | request (e : EnvEvent)
  | nop
  | data (d : DataCycle)
deriving DecidableEq, Repr

/-- What the slave `h` sees in a cycle of another processor (R971): a master's commands are the external ones, and its
coherency data response is an external block data response. -/
def slaveView (h : Hw) (c : BusCycle) : Observed :=
  if c.cmd.getLsbD 11 then .data (dataCycleOf c.cmd)
  else
    match externalRequest h c.cmd c.ad with
    | some e => .request e
    | none => .nop

/-! ## Request numbers (R903, R910, R958) -/

/-- A request number is busy: a read or upgrade pending response or an external request holds it. -/
def Ext.busy (e : Ext) (rq : BitVec 3) : Bool := e.outstanding.any (fun o => o.rq == rq) || e.cluster.any fun x => x.rq == rq

/-- The free request number that the next read or upgrade drives: the lowest, by the model's choice (log 66). -/
def State.freeNumber (s : State) : Option (BitVec 3) :=
  [0#3, 1#3, 2#3, 3#3, 4#3, 5#3, 6#3, 7#3].find? fun rq => !s.ext.busy rq

/-- The request number of the next read or upgrade, where one is free. -/
def State.nextNumber (s : State) : BitVec 3 := s.freeNumber.getD 0#3

/-- An external request takes its request number; `target` is the address of a coherency request that targets the
processor (R910, R958; log 70). -/
def takeNumber (rq : BitVec 3) (target : Option PAddr) (s : State) : State :=
  { s with ext := { s.ext with cluster := s.ext.cluster ++ [{ rq := rq, target := target }] } }

/-- The external requests with this number are complete: it is free (R956). -/
def freeExternal (rq : BitVec 3) (s : State) : State :=
  { s with ext := { s.ext with cluster := s.ext.cluster.filter fun x => x.rq != rq } }

/-- The processor is the target of an outstanding external coherency request for the block of `pa`: a processor request for
it waits (R910, R947, R949, R951, R952, R967). -/
def coherencyPending (pa : PAddr) (s : State) : Bool :=
  s.ext.cluster.any fun x => x.target.any fun a => s.hw.blockBase a == s.hw.blockBase pa

/-! ## Replies -/

/-- The first reply that is not ignored, and those after it: a Reserved completion is ignored (R990), and with `wait` so is
a delay. -/
def nextReply (wait : Bool) (dflt : Reply) : List Reply → Reply × List Reply
  | [] => (dflt, [])
  | r :: rs => if r.completion = .reserved ∨ (wait = true ∧ r.completion = .later) then nextReply wait dflt rs else (r, rs)

/-- The next external response to a read or an upgrade, and the state without it.  With none listed the request is
acknowledged, a read with good data in the state `hw.readState`; an ACK of a read that no data came with is a NACK
(R953 to R956, R990). -/
def takeReply (isRead wait : Bool) (s : State) : Reply × State :=
  let (r, rs) := nextReply wait { completion := .ack, st := s.hw.readState, bad := 0#16, withData := isRead } s.ext.replies
  (if isRead = true ∧ r.completion = .ack ∧ r.withData = false then { r with completion := .nack } else r,
    { s with ext := { s.ext with replies := rs } })

/-! ## Physical memory as the external agent serves it (spec/20 R231, R253) -/

/-- What answers at a physical address. -/
def physKind : List PhysWindow → Nat → PhysKind
  | [], _ => .ram
  | w :: ws, pa => if w.lo ≤ pa ∧ pa < w.hi then w.kind else physKind ws pa

/-- What answers at a physical address of this system. -/
def State.physAt (s : State) (pa : Nat) : PhysKind := physKind s.hw.physMap pa

/-- The byte the external agent returns for a physical address: memory's byte, or the device's choice. -/
def State.physByte (s : State) (pa : Nat) : Byte :=
  match s.physAt pa with
  | .ram => Memory.read s.mem pa
  | .device => Config.deviceByte pa s.steps
  | .none => 0#8

/-- Memory after the external agent accepts one byte: only RAM holds it. -/
def physWriteByte (h : Hw) (m : Memory) (pa : Nat) (b : Byte) : Memory :=
  match physKind h.physMap pa with
  | .ram => Memory.write m pa b
  | .device => m
  | .none => m

/-- Memory after the external agent accepts bytes from `pa` on. -/
def physWriteList (h : Hw) (m : Memory) (pa : Nat) : List Byte → Memory
  | [] => m
  | b :: bs => physWriteList h (physWriteByte h m pa b) (pa + 1) bs

/-- The state after the external agent accepts bytes from `pa` on. -/
def State.physWrite (s : State) (pa : PAddr) (bytes : List Byte) : State :=
  { s with mem := physWriteList s.hw s.mem pa.toNat bytes }

/-- Doublewords of memory from `pa` on, in the byte lanes of the memory system (R232). -/
def State.physDwords (s : State) (pa : Nat) : Nat → List DWord
  | 0 => []
  | n + 1 => valueOfBytes s.bigEndianMem (readBytes s.physByte pa 8) :: State.physDwords s (pa + 8) n

/-- The bytes of doublewords, lowest address first. -/
def bytesOfDwords (be : Bool) : List DWord → List Byte
  | [] => []
  | d :: ds => bytesOfValue be d 8 ++ bytesOfDwords be ds

/-- The doublewords of a list of bytes, lowest address first. -/
def dwordsOfBytes (be : Bool) (bytes : List Byte) : Nat → List DWord
  | 0 => []
  | n + 1 => valueOfBytes be (bytes.take 8) :: dwordsOfBytes be (bytes.drop 8) n

/-! ## Output -/

/-- The state with a request put on the System interface. -/
def State.emit (s : State) (r : BusReq) : State := { s with ext := { s.ext with bus := r :: s.ext.bus } }

/-- The bytes a request stores to memory, and where: memory takes a coherency data response too (R966). -/
def BusReq.stores (be : Bool) : BusReq → PAddr × List Byte
  | .dspWrite _ pa bytes _ _ => (pa, bytes)
  | .gatherWrite pa data _ _ => (pa, bytesOfDwords be data)
  | .blockWrite pa data _ => (pa, bytesOfDwords be (data.map Prod.fst))
  | .dataResponse _ _ pa data _ => (pa, bytesOfDwords be (data.map Prod.fst))
  | _ => (0#40, [])

/-- A request issued: memory takes its data and it goes out. -/
def State.issue (s : State) (r : BusReq) : State :=
  let (pa, bytes) := r.stores s.bigEndianMem
  (s.physWrite (match r with | .dataResponse _ _ _ _ _ => s.hw.blockBase pa | _ => pa) bytes).emit r

/-- Requests issued in turn. -/
def issueAll : List BusReq → State → State
  | [], s => s
  | r :: rs, s => issueAll rs (s.issue r)

/-- The request is a block write or an eliminate. -/
def BusReq.isEviction : BusReq → Bool
  | .blockWrite _ _ _ => true
  | .eliminate _ _ _ => true
  | _ => false

/-- A pending write or eliminate waits for an external coherency request on its block to complete (R949, R952). -/
def BusReq.stalled (s : State) : BusReq → Bool
  | .blockWrite pa _ _ => coherencyPending pa s
  | .eliminate pa _ _ => coherencyPending pa s
  | .gatherWrite pa _ _ _ => coherencyPending pa s
  | _ => false

/-- The entries of the outgoing buffer that may issue, in the order of R946: coherency data responses, then eliminates and block
writes. -/
def readyRequests (s : State) : List BusReq :=
  s.ext.outgoing.filter BusReq.isDataResponse ++ s.ext.outgoing.filter (fun r => r.isEviction && !r.stalled s)

/-- The entries of the outgoing buffer that wait. -/
def stalledRequests (s : State) : List BusReq := s.ext.outgoing.filter (fun r => r.isEviction && r.stalled s)

/-! ## The uncached buffer: a 4-entry FIFO followed by a 2-entry gatherer (R914 to R916; log 73) -/

/-- The write cause of a gathered store: 3 in identical mode, else 2 (R921); a mode still undetermined counts as
sequential (log 18). -/
def gatherCause (m : GatherMode) : BitVec 2 := if m = .identical then 3#2 else 2#2

/-- `flush(G)` (R916): an incomplete gathering is an entry that leaves as the writes it gathered. -/
def flushedEntry : Option Gather → List (List BusReq)
  | none => []
  | some g => [g.stores.map fun x => .dspWrite true x.1 x.2 g.uc (gatherCause g.mode)]

/-- The bytes of gathered stores, in arrival order. -/
def storesBytes : List (BitVec 40 × List Byte) → List Byte
  | [] => []
  | (_, bs) :: rest => bs ++ storesBytes rest

/-- A gathering as it goes on, or, of a complete block, the entry that leaves as one block write (R915, R916). -/
def gathering (s : State) (g : Gather) : Option Gather × List (List BusReq) :=
  if g.n = 2 ^ s.hw.blkLog then
    (none, [[.gatherWrite g.base (dwordsOfBytes s.bigEndianMem (storesBytes g.stores) (g.n / 8)) g.uc (gatherCause g.mode)]])
  else (some g, [])

/-- Begin: a block-aligned store starts a gathering (R916); another is an entry by itself, with the cause of a sequential
one (log 18). -/
def startGather (s : State) (u : UncachedStore) : Option Gather × List (List BusReq) :=
  if u.pa.toNat % 2 ^ s.hw.blkLog = 0 then
    gathering s { base := u.pa, uc := u.uc, mode := .undetermined, n := u.bytes.length, stores := [(u.pa, u.bytes)] }
  else (none, [[.dspWrite true u.pa u.bytes u.uc 2#2]])

/-- A gathering with one more store, in the given mode. -/
def Gather.append (g : Gather) (mode : GatherMode) (u : UncachedStore) : Gather :=
  { g with mode := mode, n := g.n + u.bytes.length, stores := g.stores ++ [(u.pa, u.bytes)] }

/-- A store ends the gathering and the entries `x` follow. -/
def afterFlushed (g : Option Gather) (x : Option Gather × List (List BusReq)) : Option Gather × List (List BusReq) :=
  (x.1, flushedEntry g ++ x.2)

/-- What a store makes of the gathering in progress (R916): the gathering then, and the entries it makes ready for issue.  A
store that is not gathered has write cause 1, under algorithm 7 too (log 18). -/
def gatherNext (s : State) (g : Option Gather) (u : UncachedStore) : Option Gather × List (List BusReq) :=
  if u.accel = true ∧ u.whole = true then
    match g with
    | none => startGather s u
    | some g =>
      if u.uc ≠ g.uc then afterFlushed (some g) (startGather s u)
      else if g.mode ≠ .identical ∧ u.pa.toNat = g.base.toNat + g.n then gathering s (g.append .sequential u)
      else if g.mode ≠ .sequential ∧ u.pa = g.base then gathering s (g.append .identical u)
      else afterFlushed (some g) (startGather s u)
  else afterFlushed g (none, [[.dspWrite u.accel u.pa u.bytes u.uc 1#2]])

/-- A doubleword store finds an unpaired singleword in the sequential gathering `g` (R916 (c), U36). -/
def unpaired (g : Option Gather) (n : Nat) (uc : BitVec 2) : Bool :=
  match g with
  | none => false
  | some g => g.uc == uc && g.mode == .sequential && n == 8 && g.n % 8 == 4

/-- The gathering that the next store will find, once the stores in the FIFO have been taken. -/
def gatherAhead (s : State) : Option Gather := s.ext.fifo.foldl (fun g u => (gatherNext s g u).1) s.ext.gather

/-- An entry of the gatherer waits for an external coherency request on its block (R949). -/
def entryStalled (s : State) (e : List BusReq) : Bool := e.any fun r => r.stalled s

/-- The entries of the gatherer that are ready leave, in order, up to one that waits, unless SysWrRdy* is negated (R917). -/
def issueGathered (s : State) : State :=
  if s.ext.writesHeld then s
  else
    issueAll (s.ext.gathered.takeWhile fun e => !entryStalled s e).flatten
      { s with ext := { s.ext with gathered := s.ext.gathered.dropWhile fun e => !entryStalled s e } }

/-- The gatherer takes stores out of the FIFO while its two entries have room for them (R914). -/
def advanceFifo : List UncachedStore → State → State
  | [], s => issueGathered s
  | u :: us, s0 =>
    let s := issueGathered s0
    let (g, ready) := gatherNext s s.ext.gather u
    if s.ext.gathered.length + ready.length + g.isSome.toNat ≤ 2 then
      advanceFifo us { s with ext := { s.ext with gather := g, gathered := s.ext.gathered ++ ready } }
    else { s with ext := { s.ext with fifo := u :: us } }

/-- The entries of the outgoing buffer leave, unless SysWrRdy* is negated (R917). -/
def drainOutgoing (s : State) : State :=
  if s.ext.writesHeld then s
  else issueAll (readyRequests s) { s with ext := { s.ext with outgoing := stalledRequests s } }

/-- What is pending issue leaves, unless SysWrRdy* is negated: the outgoing buffer, then the uncached buffer (R917, R946). -/
def drain (s0 : State) : State :=
  let s := drainOutgoing s0
  advanceFifo s.ext.fifo { s with ext := { s.ext with fifo := [] } }

/-- The state with one more entry of the outgoing buffer. -/
def State.pend (s : State) (r : BusReq) : State :=
  { s with ext := { s.ext with outgoing := s.ext.outgoing ++ [r] } }

/-- A store enters the uncached buffer, and goes on from there as far as it can (R914, R917, R946). -/
def bufferStore (u : UncachedStore) (s : State) : State :=
  drain { s with ext := { s.ext with fifo := s.ext.fifo ++ [u] } }

/-- The gathering in progress ends: its stores are ready for issue, and leave if they can (R915, R916). -/
def flushGather (s0 : State) : State :=
  let s := drain s0
  if s.ext.fifo = [] then
    drain { s with ext := { s.ext with gather := none, gathered := s.ext.gathered ++ flushedEntry s.ext.gather } }
  else s

/-- A store that is ready for issue is in the uncached buffer, or one that waits for the gatherer (R914, R256). -/
def uncachedPending (s : State) : Bool := !(s.ext.fifo.isEmpty && s.ext.gathered.isEmpty)

/-- The request is an uncached, not accelerated, store. -/
def BusReq.isPlainStore : BusReq → Bool
  | .dspWrite accel _ _ _ _ => !accel
  | _ => false

/-- The uncached buffer holds an uncached, not accelerated, store (R256). -/
def storePending (s : State) : Bool :=
  s.ext.fifo.any (fun u => !u.accel) || s.ext.gathered.any fun e => e.any BusReq.isPlainStore

/-- The FIFO's four entries are taken (R914). -/
def uncachedFull (s : State) : Bool := decide (4 ≤ s.ext.fifo.length)

/-! ## The outgoing buffer (R913; log 74) -/

/-- The request is in a typical entry: a block write, an eliminate (the model's choice, log 74), or a block write turned into a
coherency data response. -/
def BusReq.isTypical : BusReq → Bool
  | .dataResponse typical _ _ _ _ => typical
  | r => r.isEviction

/-- The outgoing buffer's four typical entries are taken (R913). -/
def outgoingFull (s : State) : Bool := decide (4 ≤ (s.ext.outgoing.filter BusReq.isTypical).length)

/-- The outgoing buffer's special entry is taken (R913). -/
def specialTaken (s : State) : Bool := s.ext.outgoing.any fun r => r.isDataResponse && !r.isTypical

/-- The request is an entry of the outgoing buffer for the block at `base`. -/
def BusReq.evicts (h : Hw) (base : PAddr) : BusReq → Bool
  | .blockWrite pa _ _ => h.blockBase pa == base
  | .eliminate pa _ _ => h.blockBase pa == base
  | .dataResponse _ _ pa _ _ => h.blockBase pa == base
  | _ => false

/-- An entry of the outgoing buffer for the block of `pa` is pending issue (R913). -/
def evictionPending (pa : PAddr) (s : State) : Bool := s.ext.outgoing.any (BusReq.evicts s.hw (s.hw.blockBase pa))

end Sys2Proof.Machine
end

