-- ==== Sys2Proof/Machine/Translate.lean ====
section
/-! DEFINITION. Address spaces and translation (spec/21_address_translation.md R290 to R316): the function every fetch,
load, store, CACHE and PREF applies to a virtual address. -/

namespace Sys2Proof.Machine

/-- The result of a translation: the virtual address as checked (R296), the physical address, the cache algorithm
and the uncached attribute (R230). -/
structure Xlate where
  va : DWord
  pa : PAddr
  ca : BitVec 3
  uc : BitVec 2
deriving DecidableEq, Repr

/-- What the segment rules say of a virtual address (R293). -/
inductive Segment where
  | illegal
  | mapped
  | unmapped (pa : PAddr) (ca : BitVec 3)
deriving DecidableEq, Repr

/-- The uncached attribute of an unmapped access: VA[58:57] (R244). -/
def vaUc (va : DWord) : BitVec 2 := va.extractLsb' 57 2

/-- kseg0 and ckseg0: the low 29 bits, algorithm Config.K0 (R305). -/
def kseg0Segment (s : State) (va : DWord) : Segment := .unmapped ((va.setWidth 29).setWidth 40) s.cp0.k0

/-- kseg1 and ckseg1: the low 29 bits, uncached (R305). -/
def kseg1Segment (va : DWord) : Segment := .unmapped ((va.setWidth 29).setWidth 40) 2#3

/-- The low 2 Gbytes of the user segment in Kernel mode: unmapped and uncached when ERL = 1 (R306). -/
def kusegSegment (s : State) (va : DWord) : Segment :=
  if s.statusBit 2 then .unmapped ((va.setWidth 31).setWidth 40) 2#3 else .mapped

/-- User mode (R297), after R296. -/
def userSegment (s : State) (va : DWord) : Segment :=
  if s.statusBit 5 then (if va.extractLsb' 44 20 = 0#20 then .mapped else .illegal)
  else if va.extractLsb' 31 33 = 0#33 then .mapped else .illegal

/-- Supervisor mode (R298, R299), after R296. -/
def supervisorSegment (s : State) (va : DWord) : Segment :=
  if s.statusBit 6 then
    match va.extractLsb' 62 2 with
    | 0#2 =>
      if s.statusBit 5 then (if va.extractLsb' 44 18 = 0#18 then .mapped else .illegal)
      else if va.extractLsb' 31 31 = 0#31 then .mapped else .illegal
    | 1#2 => if va.extractLsb' 44 18 = 0#18 then .mapped else .illegal
    | 3#2 => if va.extractLsb' 29 35 = 0x7FFFFFFFE#35 then .mapped else .illegal
    | _ => .illegal
  else
    if va.getLsbD 31 = false then .mapped
    else if va.extractLsb' 29 3 = 6#3 then .mapped
    else .illegal

/-- xkphys (R302): the algorithm in VA[61:59], the physical address in VA[39:0]; VA[58:57] is the uncached attribute
of the uncached algorithms and is not checked for them. -/
def xkphysSegment (va : DWord) : Segment :=
  let ca := va.extractLsb' 59 3
  if ca = 2#3 ∨ ca = 7#3 then
    (if va.extractLsb' 40 17 = 0#17 then .unmapped (va.setWidth 40) ca else .illegal)
  else if va.extractLsb' 40 19 = 0#19 then .unmapped (va.setWidth 40) ca
  else .illegal

/-- Kernel mode with KX = 0 (R300), after R296. -/
def kernelSegment32 (s : State) (va : DWord) : Segment :=
  if va.getLsbD 31 = false then kusegSegment s va
  else
    match va.extractLsb' 29 3 with
    | 4#3 => kseg0Segment s va
    | 5#3 => kseg1Segment va
    | _ => .mapped

/-- Kernel mode with KX = 1 (R301 to R303). -/
def kernelSegment64 (s : State) (va : DWord) : Segment :=
  match va.extractLsb' 62 2 with
  | 0#2 =>
    if s.statusBit 5 && !s.statusBit 2 then (if va.extractLsb' 44 18 = 0#18 then .mapped else .illegal)
    else if va.extractLsb' 31 31 = 0#31 then kusegSegment s va
    else .illegal
  | 1#2 => if s.statusBit 6 then (if va.extractLsb' 44 18 = 0#18 then .mapped else .illegal) else .illegal
  | 2#2 => xkphysSegment va
  | _ =>
    if va ≤ 0xC0000FFEFFFFFFFF#64 then .mapped
    else if 0xFFFFFFFF80000000#64 ≤ va then
      match va.extractLsb' 29 2 with
      | 0#2 => kseg0Segment s va
      | 1#2 => kseg1Segment va
      | _ => .mapped
    else .illegal

/-- The address as the check sees it: a 32-bit User data reference has its upper 32 bits cleared (R296). -/
def checkedVa (s : State) (va : DWord) (kind : AccessKind) : DWord :=
  if s.mode = .user ∧ s.statusBit 5 = false ∧ kind ≠ .fetch then zext64 (va.setWidth 32) else va

/-- The segment of a checked address in the current mode (R296 to R303). -/
def segmentOf (s : State) (va : DWord) : Segment :=
  match s.mode with
  | .user => userSegment s va
  | .supervisor =>
    if s.statusBit 6 = false ∧ va ≠ sext64 (va.setWidth 32) then .illegal else supervisorSegment s va
  | .kernel =>
    if s.statusBit 7 then kernelSegment64 s va
    else if va ≠ sext64 (va.setWidth 32) then .illegal
    else kernelSegment32 s va

/-! ## The TLB lookup (R310 to R312) -/

/-- An entry matches a region and page pair number (R311): matchable, R equal, VPN2 equal outside the mask, and global
or with the current ASID. -/
def TlbEntry.hits (e : TlbEntry) (r : BitVec 2) (vpn2 : BitVec 31) (asid : BitVec 8) : Bool :=
  e.matchable && e.r == r && (e.vpn2 &&& ~~~(e.mask.setWidth 31)) == (vpn2 &&& ~~~(e.mask.setWidth 31)) &&
    (e.g || e.asid == asid)

/-- The indices from `i` on of the entries that match. -/
def tlbHits (r : BitVec 2) (vpn2 : BitVec 31) (asid : BitVec 8) : List TlbEntry → Nat → List Nat
  | [], _ => []
  | e :: es, i => if e.hits r vpn2 asid then i :: tlbHits r vpn2 asid es (i + 1) else tlbHits r vpn2 asid es (i + 1)

/-- Entry `i` of the TLB. -/
def State.tlbAt (s : State) (i : Nat) : TlbEntry := s.tlb.toList.getD i TlbEntry.empty

/-- The number of page offset bits of a legal mask (R91, R312). -/
def pageShift (mask : BitVec 12) : Option Nat :=
  match mask with
  | 0x000#12 => some 12
  | 0x003#12 => some 14
  | 0x00F#12 => some 16
  | 0x03F#12 => some 18
  | 0x0FF#12 => some 20
  | 0x3FF#12 => some 22
  | 0xFFF#12 => some 24
  | _ => none

/-- The physical address in a page of `k` offset bits (R312). -/
def pageAddr (pfn : BitVec 28) (k : Nat) (va : DWord) : PAddr :=
  let frame : BitVec 40 := (pfn ++ 0#12).cast (by decide)
  ((frame >>> k) <<< k) ||| BitVec.ofNat 40 (va.toNat % 2 ^ k)

/-- Translation of a mapped address through the TLB (R310 step 3). -/
def tlbTranslate (s : State) (va : DWord) (kind : AccessKind) : Res Xlate :=
  match tlbHits (va.extractLsb' 62 2) (va.extractLsb' 13 31) s.asid s.tlb.toList 0 with
  | [] => .exc (.tlbRefill va kind) s
  | [i] =>
    match pageShift (s.tlbAt i).mask with
    | none => .refuse .illegalPageMask
    | some k =>
      let p := if va.getLsbD k then (s.tlbAt i).odd else (s.tlbAt i).even
      if p.v = false then .exc (.tlbInvalid va kind) s
      else if kind = .store ∧ p.d = false then .exc (.tlbModified va) s
      else .ok { va := va, pa := pageAddr p.pfn k va, ca := p.c, uc := p.uc } s
  | _ => .refuse .tlbMultipleMatch

/-- `Translate(va, kind)` (R310): an exception, or the address, cache algorithm and uncached attribute. -/
def translate (s : State) (va0 : DWord) (kind : AccessKind) : Res Xlate :=
  let va := checkedVa s va0 kind
  match segmentOf s va with
  | .illegal => .exc (.addressError va kind) s
  | .unmapped pa ca => .ok { va := va, pa := pa, ca := ca, uc := vaUc va } s
  | .mapped => tlbTranslate s va kind

end Sys2Proof.Machine
end

