-- ==== Sys2Proof/Machine/Cache.lean ====
section
/-! DEFINITION. The three caches (spec/22_caches.md R350 to R359): array access, error detection
(spec/51_errors_jtag_testmode.md R984 to R991), replacement, refill, write-back, the subset property and the virtual
index, and the cached load, store and instruction read built from them. -/

namespace Sys2Proof.Machine

/-! ## Array access.  A set is a number, a way a Bool. -/

def ITag.none : ITag := { tag := 0#28, valid := false, sp := false, tp := false }
def IWord.none : IWord := { pre := 0#4, word := 0#32, parBad := false }
def DTag.none : DTag := { tag := 0#28, st := 0#2, mod := 0#3, way := false, sp := false, tp := false }
def DWordCell.none : DWordCell := { word := 0#32, par := 0#4 }
def STag.none : STag := { tag := 0#22, vindex := 0#2, st := 0#2, ecc := 0#7 }
def SQuad.none : SQuad := { data := 0#128, ecc := 0#9, sp := false }

/-- The key of a tag. -/
def lineKey (set : Nat) (w : Bool) : Nat := set * 2 + w.toNat

def State.itag (s : State) (set : Nat) (w : Bool) : ITag := sparseGet ITag.none s.caches.itag (lineKey set w)
def State.iword (s : State) (set : Nat) (w : Bool) (k : Nat) : IWord :=
  sparseGet IWord.none s.caches.idata (lineKey set w * 16 + k)
def State.ilru (s : State) (set : Nat) : Bool := sparseGet false s.caches.ilru set
def State.dtag (s : State) (set : Nat) (w : Bool) : DTag := sparseGet DTag.none s.caches.dtag (lineKey set w)
def State.dword (s : State) (set : Nat) (w : Bool) (k : Nat) : DWordCell :=
  sparseGet DWordCell.none s.caches.ddata (lineKey set w * 8 + k)
def State.dlru (s : State) (set : Nat) : Bool := sparseGet false s.caches.dlru set
def State.stag (s : State) (set : Nat) (w : Bool) : STag := sparseGet STag.none s.caches.stag (lineKey set w)
def State.squad (s : State) (set : Nat) (w : Bool) (k : Nat) : SQuad :=
  sparseGet SQuad.none s.caches.sdata (lineKey set w * 8 + k)
def State.mru (s : State) (i : Nat) : Bool := sparseGet false s.caches.mru i

def State.setCaches (s : State) (c : Caches) : State := { s with caches := c }
def State.setItag (s : State) (set : Nat) (w : Bool) (t : ITag) : State :=
  s.setCaches { s.caches with itag := sparseSet ITag.none s.caches.itag (lineKey set w) t }
def State.setIword (s : State) (set : Nat) (w : Bool) (k : Nat) (x : IWord) : State :=
  s.setCaches { s.caches with idata := sparseSet IWord.none s.caches.idata (lineKey set w * 16 + k) x }
def State.setIlru (s : State) (set : Nat) (b : Bool) : State :=
  s.setCaches { s.caches with ilru := sparseSet false s.caches.ilru set b }
def State.setDtag (s : State) (set : Nat) (w : Bool) (t : DTag) : State :=
  s.setCaches { s.caches with dtag := sparseSet DTag.none s.caches.dtag (lineKey set w) t }
def State.setDword (s : State) (set : Nat) (w : Bool) (k : Nat) (x : DWordCell) : State :=
  s.setCaches { s.caches with ddata := sparseSet DWordCell.none s.caches.ddata (lineKey set w * 8 + k) x }
def State.setDlru (s : State) (set : Nat) (b : Bool) : State :=
  s.setCaches { s.caches with dlru := sparseSet false s.caches.dlru set b }
def State.setStag (s : State) (set : Nat) (w : Bool) (t : STag) : State :=
  s.setCaches { s.caches with stag := sparseSet STag.none s.caches.stag (lineKey set w) t }
def State.setSquad (s : State) (set : Nat) (w : Bool) (k : Nat) (x : SQuad) : State :=
  s.setCaches { s.caches with sdata := sparseSet SQuad.none s.caches.sdata (lineKey set w * 8 + k) x }
def State.setMru (s : State) (i : Nat) (b : Bool) : State :=
  s.setCaches { s.caches with mru := sparseSet false s.caches.mru i b }

/-- The state with its cache events updated. -/
def State.count (s : State) (f : CacheEvents → CacheEvents) : State := { s with events := f s.events }

/-! ## Indices -/

/-- Instruction cache set VA[13:6] (R351). -/
def iSet (va : DWord) : Nat := (va.extractLsb' 6 8).toNat
/-- Data cache set VA[13:5] (R352). -/
def dSet (va : DWord) : Nat := (va.extractLsb' 5 9).toNat
/-- Primary tag PA[39:12]. -/
def ptag (pa : PAddr) : BitVec 28 := pa.extractLsb' 12 28
/-- Virtual index VA[13:12] (R354). -/
def vindexOf (va : DWord) : BitVec 2 := va.extractLsb' 12 2
/-- Secondary tag PA[39:18] (R354). -/
def stagOf (pa : PAddr) : BitVec 22 := pa.extractLsb' 18 22
/-- Sets of the secondary cache (R353). -/
def sSets (h : Hw) : Nat := 2 ^ (18 + h.scSize - h.blkLog)
/-- Secondary set of a physical address (R353). -/
def sSet (h : Hw) (pa : PAddr) : Nat := pa.toNat / 2 ^ h.blkLog % sSets h
/-- Quadwords in a secondary block. -/
def sQuads (h : Hw) : Nat := 2 ^ (h.blkLog - 4)
/-- The quadword of a physical address within its secondary block. -/
def quadOf (h : Hw) (pa : PAddr) : Nat := pa.toNat / 16 % sQuads h
/-- Entries of the way prediction table (R355; the R12000's index is log 34). -/
def mruEntries (s : State) : Nat := min (sSets s.hw) (if s.isR12k then 16384 else 8192)
/-- Way prediction index of a physical address (R355). -/
def mruIndex (s : State) (pa : PAddr) : Nat := pa.toNat / 2 ^ s.hw.blkLog % mruEntries s
/-- The physical address of the secondary block with this tag in this set. -/
def sBlockPa (h : Hw) (set : Nat) (tag : BitVec 22) : PAddr :=
  BitVec.ofNat 40 (tag.toNat * 2 ^ 18 + set * 2 ^ h.blkLog % 2 ^ 18)
/-- The physical address of the data cache line with this tag in this set. -/
def dLinePa (set : Nat) (tag : BitVec 28) : PAddr := BitVec.ofNat 40 (tag.toNat * 4096 + set * 32 % 4096)
/-- The data cache set of a line address under a virtual index. -/
def dSetAt (vindex : BitVec 2) (pa : PAddr) : Nat := vindex.toNat * 128 + pa.toNat / 32 % 128
/-- The instruction cache set of a line address under a virtual index. -/
def iSetAt (vindex : BitVec 2) (pa : PAddr) : Nat := vindex.toNat * 64 + pa.toNat / 64 % 64

/-! ## Quadwords, words and bytes (R236, R353) -/

/-- The doublewords of a quadword, lowest address first: PA[3] = 0 is SCData[127:64]
(spec/50_system_interface.md R918). -/
def quadDwords (q : BitVec 128) : List DWord := [q.extractLsb' 64 64, q.extractLsb' 0 64]

/-- The words of a doubleword, lowest address first. -/
def dwordWords (be : Bool) (d : DWord) : List Word :=
  if be then [d.extractLsb' 32 32, d.extractLsb' 0 32] else [d.extractLsb' 0 32, d.extractLsb' 32 32]

/-- The words of a list of quadwords, lowest address first. -/
def quadsWords (be : Bool) : List (BitVec 128) → List Word
  | [] => []
  | q :: qs => (quadDwords q).flatMap (dwordWords be) ++ quadsWords be qs

/-- The doubleword of two words, lowest address first. -/
def dwordOfWords (be : Bool) (w0 w1 : Word) : DWord := if be then w0 ++ w1 else w1 ++ w0

/-- The quadword of four words, lowest address first. -/
def quadOfWords (be : Bool) (w0 w1 w2 w3 : Word) : BitVec 128 := dwordOfWords be w0 w1 ++ dwordOfWords be w2 w3

/-- The low bit of the byte at offset `k` of a word. -/
def byteLane (be : Bool) (k : Nat) : Nat := if be then 24 - 8 * k else 8 * k

/-- The byte at offset `k` of a data cache word. -/
def DWordCell.byte (be : Bool) (c : DWordCell) (k : Nat) : Byte := c.word.extractLsb' (byteLane be k) 8

/-- The parity bit of the byte at offset `k` is wrong. -/
def DWordCell.byteBad (be : Bool) (c : DWordCell) (k : Nat) : Bool :=
  c.par.getLsbD (byteLane be k / 8) != evenParity (c.byte be k)

/-- A data cache word with one byte and its parity bit written. -/
def DWordCell.setByte (be : Bool) (c : DWordCell) (k : Nat) (b : Byte) : DWordCell :=
  let i := byteLane be k
  { word := (c.word &&& ~~~((0xFF#32) <<< i)) ||| (b.setWidth 32 <<< i)
    par := (c.par &&& ~~~((1#4) <<< (i / 8))) ||| ((BitVec.ofBool (evenParity b)).setWidth 4 <<< (i / 8)) }

/-! ## Posting Cache Errors (R991) -/

def PostedErrors.at (p : PostedErrors) : CacheUnit → Option (BitVec 32)
  | .icache => p.icache
  | .dcache => p.dcache
  | .scache => p.scache
  | .sysif => p.sysif

def PostedErrors.put (p : PostedErrors) (u : CacheUnit) (v : Option (BitVec 32)) : PostedErrors :=
  match u with
  | .icache => { p with icache := v }
  | .dcache => { p with dcache := v }
  | .scache => { p with scache := v }
  | .sysif => { p with sysif := v }

/-- The unit that posts an error. -/
def UnitError.unit : UnitError → CacheUnit
  | .icache .. => .icache
  | .dcache .. => .dcache
  | .scache .. => .scache
  | .sysData .. => .sysif
  | .sysBus .. => .sysif

/-- The unit code EC (R209). -/
def unitCode : CacheUnit → BitVec 2
  | .icache => 0#2
  | .dcache => 1#2
  | .scache => 2#2
  | .sysif => 3#2

/-- A field placed in a CacheErr, TagLo or TagHi value. -/
def field {n : Nat} (v : BitVec n) (i : Nat) : BitVec 32 := v.setWidth 32 <<< i

/-- EW in a CacheErr value (R209). -/
def Hw.ewBit (h : Hw) : BitVec 32 := field 1#1 h.errLayout.ew

/-- The CacheErr value of an error, in the layout of the hardware (R204 to R207, R209). -/
def UnitError.value (h : Hw) (e : UnitError) : BitVec 32 :=
  let l := h.errLayout
  field (unitCode e.unit) l.ec |||
    match e with
    | .icache d ta ts pidx => field d l.iD ||| field ta l.iTA ||| field ts l.iTS ||| field pidx l.iPIdx
    | .dcache ee d ta ts tm pidx =>
      field (BitVec.ofBool ee) l.dEE ||| field d l.dD ||| field ta l.dTA ||| field ts l.dTS ||| field tm l.dTM |||
        field pidx l.dPIdx
    | .scache d ta sidx => field d l.sD ||| field ta l.sTA ||| field sidx l.sSIdx
    | .sysData ee d sidx => field (BitVec.ofBool ee) l.xEE ||| field d l.xD ||| field sidx l.xSIdx
    | .sysBus sa sc sr =>
      field (BitVec.ofBool sa) l.xSA ||| field (BitVec.ofBool sc) l.xSC ||| field (BitVec.ofBool sr) l.xSR

/-- SysUncErr* pulses for a tag, state or mod array error and for a bad bus cycle, not for data (R981). -/
def UnitError.pulses : UnitError → Bool
  | .icache _ ta ts _ => ta ||| ts != 0#2
  | .dcache _ _ ta ts tm _ => ta ||| ts ||| tm != 0#2
  | .scache _ ta _ => ta != 0#2
  | .sysData .. => false
  | .sysBus .. => true

/-- Post an uncorrectable error: nothing with Status.DE; a second error of a unit sets EW in its local register
(R991 b, g). -/
def postError (e : UnitError) (s : State) : State :=
  if s.statusBit 16 then s
  else
    let local' := match s.ext.posted.at e.unit with
      | none => e.value s.hw
      | some old => old ||| s.hw.ewBit
    { s with ext := { s.ext with posted := s.ext.posted.put e.unit (some local') } }

/-- An uncorrectable error is detected: posted, and announced on SysUncErr* where R981 says so. -/
def reportError (e : UnitError) (s : State) : State :=
  if e.pulses then (postError e s).emit .uncErr else postError e s

/-- A two-bit way1 ‖ way0 field. -/
def wayField (b0 b1 : Bool) : BitVec 2 := BitVec.ofBool b1 ++ BitVec.ofBool b0

/-- One way as a two-bit field. -/
def oneWay (w : Bool) : BitVec 2 := wayField (!w) w

/-- SIdx, the secondary block index PA[22:6] or PA[22:7] of an address (R206). -/
def sIdxOf (h : Hw) (pa : PAddr) : BitVec 17 := (h.blockBase pa).extractLsb' 6 17

/-- A SysResp parity error (R989). -/
def postRespError (s : State) : State := reportError (.sysBus false false true) s

/-- An access that found an uncorrectable error does not use the data: it is tried again after the Cache Error is
taken, which with Status.ERL or Status.DE set never happens, and the data is used (R980, R991 f, g). -/
def errGate (bad : Bool) (s : State) : Res Unit :=
  if bad && !s.statusBit 2 && !s.statusBit 16 then .retry s else .ok () s

/-- The data cycles of a response report their errors (R987): a pulse for each one corrected, an error for each one lost to
bad SysCmd parity. -/
def reportCycles (r : Reply) (s : State) : State :=
  Nat.repeat (fun s => s.emit .corErr) r.corrected (Nat.repeat (reportError (.sysBus false true false)) r.lostCycles s)

/-- The next external response to a read or an upgrade, and the state after it (R953 to R956, R987). -/
def receive (isRead wait : Bool) (s : State) : Reply × State :=
  let (r, s) := takeReply isRead wait s
  (r, reportCycles r s)

/-- The processor hangs. -/
def State.hang (s : State) : State := { s with ext := { s.ext with hung := true } }

/-! ## Secondary cache arrays -/

/-- Read a secondary tag, with its check bits (R986): the corrected tag and whether it is uncorrectable. -/
def readSTag (pa : PAddr) (set : Nat) (w : Bool) (s : State) : (STag × Bool) × State :=
  let t := s.stag set w
  match t.check with
  | .clean _ => ((t, false), s)
  | .corrected x => ((STag.ofBits (BitVec.ofNat 26 x) t.ecc, false), s.emit .corErr)
  | .bad _ => ((t, true), reportError (.scache 0#2 (oneWay w) (sIdxOf s.hw pa)) s)

/-- The effects of finding an error in a quadword: the R12000A captures the syndrome (R185). -/
def captureSyndrome (q : SQuad) (s : State) : State :=
  if s.hw.variant = .r12000A then
    { s with cp0 := { s.cp0 with perf := { s.cp0.perf with syndrome := q.syndrome } } }
  else s

/-- A secondary tag as the processor uses it: corrected where it can be (R986). -/
def State.ctag (s : State) (set : Nat) (w : Bool) : STag :=
  STag.ofBits (BitVec.ofNat 26 (s.stag set w).check.value) (s.stag set w).ecc

/-- Read one quadword of a block, corrected (R986): the data and whether it is uncorrectable. -/
def readQuad (pa : PAddr) (set : Nat) (w : Bool) (k : Nat) (s : State) : (BitVec 128 × Bool) × State :=
  let q := s.squad set w k
  match q.check with
  | .clean _ => ((q.data, false), s)
  | .corrected x =>
    ((BitVec.ofNat 128 x, false),
      ((captureSyndrome q s).emit .corErr).count fun e => { e with eccFixed := e.eccFixed + 1 })
  | .bad _ => ((q.data, true), reportError (.scache (oneWay w) 0#2 (sIdxOf s.hw pa)) (captureSyndrome q s))

/-- Read `n` quadwords of a block from quadword `k` on: each with its Uncorrectable Error flag (R913). -/
def readQuads (pa : PAddr) (set : Nat) (w : Bool) (k : Nat) : Nat → State → List (BitVec 128 × Bool) × State
  | 0, s => ([], s)
  | n + 1, s =>
    let (q, s) := readQuad pa set w k s
    let (qs, s) := readQuads pa set w (k + 1) n s
    (q :: qs, s)

/-- The data of `n` quadwords from quadword `k` on, as the arrays hold it. -/
def rawQuads (s : State) (set : Nat) (w : Bool) (k : Nat) : Nat → List (BitVec 128)
  | 0 => []
  | n + 1 => (s.squad set w k).data :: rawQuads s set w (k + 1) n

/-- Write quadwords from quadword `k` on: with proper check bits, or one that is flagged marked uncorrectable (R982). -/
def writeQuads (set : Nat) (w : Bool) : Nat → List (BitVec 128 × Bool) → State → State
  | _, [], s => s
  | k, q :: qs, s =>
    writeQuads set w (k + 1) qs (s.setSquad set w k (if q.2 then SQuad.corrupt q.1 else SQuad.of q.1))

/-- Quadwords of a list of doublewords. -/
def quadsOfDwords : List DWord → List (BitVec 128)
  | d0 :: d1 :: ds => (d0 ++ d1) :: quadsOfDwords ds
  | _ => []

/-! ## Primary data cache lines -/

/-- The words of a line from word `k` on. -/
def lineWords (s : State) (set : Nat) (w : Bool) (k : Nat) : Nat → List Word
  | 0 => []
  | n + 1 => (s.dword set w k).word :: lineWords s set w (k + 1) n

/-- Some byte of the word has wrong parity. -/
def DWordCell.isBad (c : DWordCell) : Bool := c.par != wordParity c.word

/-- The Uncorrectable Error flags of a line's quadwords from word `k` on: some byte's parity is wrong (R985). -/
def lineFlags (s : State) (set : Nat) (w : Bool) (k : Nat) : Nat → List Bool
  | 0 => []
  | n + 1 =>
    ((s.dword set w k).isBad || (s.dword set w (k + 1)).isBad || (s.dword set w (k + 2)).isBad ||
      (s.dword set w (k + 3)).isBad) :: lineFlags s set w (k + 4) n

/-- The first word with wrong parity among the `n` from word `k` on. -/
def firstBadWord (s : State) (set : Nat) (w : Bool) (k : Nat) : Nat → Option Nat
  | 0 => none
  | n + 1 => if (s.dword set w k).isBad then some k else firstBadWord s set w (k + 1) n

/-- Write the words of a line from word `k` on. -/
def fillLine (set : Nat) (w : Bool) : Nat → List Word → State → State
  | _, [], s => s
  | k, x :: xs, s => fillLine set w (k + 1) xs (s.setDword set w k (DWordCell.of x))

/-- The quadwords of a list of words. -/
def quadsOfWords (be : Bool) : List Word → List (BitVec 128)
  | w0 :: w1 :: w2 :: w3 :: ws => quadOfWords be w0 w1 w2 w3 :: quadsOfWords be ws
  | _ => []

/-- Write a line back to the secondary cache if it is Inconsistent (R356, R380); the secondary tag is not written.  A
quadword with wrong parity stays marked (R982); the unit posts the first word found bad (log 59). -/
def writeBackD (set : Nat) (w : Bool) (s : State) : State :=
  let t := s.dtag set w
  if t.mod = 1#3 ∧ t.st ≠ 0#2 then
    let pa := dLinePa set t.tag
    let qs := (quadsOfWords s.bigEndianMem (lineWords s set w 0 8)).zip (lineFlags s set w 0 2)
    let s := match firstBadWord s set w 0 8 with
      | some k => reportError (.dcache false (oneWay w) 0#2 0#2 0#2 (BitVec.ofNat 11 (set * 4 + k / 2))) s
      | none => s
    ((writeQuads (sSet s.hw pa) t.way (quadOf s.hw pa) qs s).setDtag set w (DTag.of t.tag t.st 0#3 t.way)).count
      fun e => { e with quadsD := e.quadsD + 2 }
  else s

/-- Invalidate a data cache line, keeping its tag; the tag is written with proper parity (log 60). -/
def invalidateD (set : Nat) (w : Bool) (s : State) : State :=
  s.setDtag set w (DTag.of (s.dtag set w).tag 0#2 0#3 (s.dtag set w).way)

/-- Invalidate an instruction cache block, keeping its tag; the tag is written with proper parity (log 60). -/
def invalidateI (set : Nat) (w : Bool) (s : State) : State :=
  s.setItag set w (ITag.of (s.itag set w).tag false)

/-- One way of one data cache set loses the line of `pa`, written back first if `wb`.  Its tag is not checked (log 72). -/
def purgeDWay (wb : Bool) (pa : PAddr) (set : Nat) (w : Bool) (s : State) : State :=
  if (s.dtag set w).tag = ptag pa ∧ (s.dtag set w).st ≠ 0#2 then
    invalidateD set w (if wb then writeBackD set w s else s)
  else s

/-- One way of one instruction cache set loses the block of `pa`. -/
def purgeIWay (pa : PAddr) (set : Nat) (w : Bool) (s : State) : State :=
  if (s.itag set w).tag = ptag pa ∧ (s.itag set w).valid = true then invalidateI set w s else s

/-- The data cache loses `n` lines from `pa` on. -/
def purgeDLines (wb : Bool) (vindex : BitVec 2) (pa : PAddr) : Nat → State → State
  | 0, s => s
  | n + 1, s =>
    purgeDLines wb vindex (pa + 32#40) n
      (purgeDWay wb pa (dSetAt vindex pa) true (purgeDWay wb pa (dSetAt vindex pa) false s))

/-- The instruction cache loses `n` blocks from `pa` on. -/
def purgeILines (vindex : BitVec 2) (pa : PAddr) : Nat → State → State
  | 0, s => s
  | n + 1, s =>
    purgeILines vindex (pa + 64#40) n
      (purgeIWay pa (iSetAt vindex pa) true (purgeIWay pa (iSetAt vindex pa) false s))

/-- The primary caches lose every block inside a secondary block (R356, R357). -/
def purgePrimary (wb : Bool) (vindex : BitVec 2) (pa : PAddr) (s : State) : State :=
  purgeILines vindex (s.hw.blockBase pa) (2 ^ (s.hw.blkLog - 6))
    (purgeDLines wb vindex (s.hw.blockBase pa) (2 ^ (s.hw.blkLog - 5)) s)

/-- The dirty primary lines inside a secondary block are written back to it and stay (R359). -/
def flushPrimary (vindex : BitVec 2) (pa : PAddr) : Nat → State → State
  | 0, s => s
  | n + 1, s =>
    let set := dSetAt vindex pa
    let one (w : Bool) (s : State) : State :=
      if (s.dtag set w).tag = ptag pa ∧ (s.dtag set w).st ≠ 0#2 then writeBackD set w s else s
    flushPrimary vindex (pa + 32#40) n (one true (one false s))

/-- The primary lines inside a secondary block take its state (R352). -/
def syncPrimary (st : BitVec 2) (vindex : BitVec 2) (pa : PAddr) : Nat → State → State
  | 0, s => s
  | n + 1, s =>
    let set := dSetAt vindex pa
    let one (w : Bool) (s : State) : State :=
      if (s.dtag set w).tag = ptag pa ∧ (s.dtag set w).st ≠ 0#2 then
        s.setDtag set w (DTag.of (s.dtag set w).tag st (s.dtag set w).mod (s.dtag set w).way)
      else s
    syncPrimary st vindex (pa + 32#40) n (one true (one false s))

/-- Give a secondary block, and the primary lines inside it, a valid state. -/
def setBlockState (st : BitVec 2) (set : Nat) (w : Bool) (s : State) : State :=
  let t := s.ctag set w
  syncPrimary st t.vindex (sBlockPa s.hw set t.tag) (2 ^ (s.hw.blkLog - 5)) (s.setStag set w (STag.of t.tag t.vindex st))

/-- The doublewords of quadwords, each with its quadword's flag. -/
def flaggedDwords : List (BitVec 128 × Bool) → List (DWord × Bool)
  | [] => []
  | q :: qs => (quadDwords q.1).map (fun d => (d, q.2)) ++ flaggedDwords qs

/-- Cast a DirtyExclusive block out into the outgoing buffer (R913, R949). -/
def writeBackS (set : Nat) (w : Bool) (s : State) : State :=
  let pa := sBlockPa s.hw set (s.ctag set w).tag
  let (qs, s) := readQuads pa set w 0 (sQuads s.hw) s
  (s.pend (.blockWrite pa (flaggedDwords qs) w)).count fun e => { e with quadsS := e.quadsS + sQuads s.hw }

/-- Empty a secondary way (R358, R370, R373, R374): the primary blocks go first; with `wb` a DirtyExclusive block is
written back; another valid block, or a dirty one that is discarded, is announced if PrcElmReq.  The request waits for
issue in the outgoing buffer (R913). -/
def evictSecondary (wb : Bool) (set : Nat) (w : Bool) (s : State) : State :=
  let t := s.ctag set w
  if t.st = 0#2 then s
  else
    let pa := sBlockPa s.hw set t.tag
    let s := purgePrimary wb t.vindex pa s
    let s := if wb = true ∧ t.st = 3#2 then writeBackS set w s
      else if s.hw.prcElmReq then s.pend (.eliminate pa t.st w)
      else s
    s.setStag set w (STag.of t.tag t.vindex 0#2)

/-! ## The secondary cache access -/

/-- A cached reference. -/
structure CReq where
  va      : DWord
  pa      : PAddr
  ca      : BitVec 3
  kind    : AccessKind
  /-- Read cause and upgrade cause (R921). -/
  cause   : BitVec 2
  upCause : BitVec 2
  /-- The block must become exclusively owned: a store or an exclusive prefetch. -/
  excl    : Bool
  /-- The state of a Shared block after an upgrade: DirtyExclusive, but CleanExclusive under DSD (R358, R1138). -/
  upState : BitVec 2
  /-- A prefetch: it raises no exception (R251). -/
  pref    : Bool
deriving DecidableEq, Repr

/-- The reference is an instruction fetch. -/
def CReq.isFetch (a : CReq) : Bool := a.kind = .fetch

/-- Both tags of the set: the way that hits, and whether a tag was uncorrectable. -/
def lookupSecondary (pa : PAddr) (s : State) : (Option Bool × Bool) × State :=
  let set := sSet s.hw pa
  let ((t0, b0), s) := readSTag pa set false s
  let ((t1, b1), s) := readSTag pa set true s
  let hit := if t0.tag = stagOf pa ∧ t0.st ≠ 0#2 then some false
    else if t1.tag = stagOf pa ∧ t1.st ≠ 0#2 then some true
    else none
  ((hit, b0 || b1), s)

/-- The command of a block read (R243, R921). -/
def readCommand (a : CReq) : BitVec 3 :=
  if a.ca = 3#3 then 2#3 else if a.ca = 4#3 ∨ a.excl then 1#3 else 0#3

/-- The state a block data response gives, after the protocol overrides (R990). -/
def responseState (cmd : BitVec 3) (st : BitVec 2) : BitVec 2 :=
  if st = 0#2 then 2#2 else if st = 1#2 ∧ (cmd = 1#3 ∨ cmd = 6#3) then 2#2 else st

/-- Nothing answers at the block. -/
def blockUnmapped (s : State) (base : Nat) : Bool := physKind s.hw.physMap base = .none

/-- The quadwords of a list of doublewords from quadword `k` on, with the incoming buffer's flags (R912, R982). -/
def incomingQuads (bad : BitVec 16) : Nat → List (BitVec 128) → List (BitVec 128 × Bool)
  | _, [] => []
  | k, q :: qs => (q, bad.getLsbD (2 * k) || bad.getLsbD (2 * k + 1)) :: incomingQuads bad (k + 1) qs

/-- Some doubleword of a block response is bad. -/
def blockBad (h : Hw) (bad : BitVec 16) : Bool := bad.toNat % 2 ^ (2 * sQuads h) != 0

/-- The doublewords of a block response (R954): those that came, and memory's at the places where none did. -/
def blockDwords (r : Reply) (pa : PAddr) (s : State) : List DWord :=
  let held := s.physDwords (s.hw.blockBase pa).toNat (2 * sQuads s.hw)
  if r.data = [] then held else held.mapIdx fun i d => (r.data.lookup i).getD d

/-- The block of a response into a secondary way; any bad doubleword posts one Cache Error (R912, R987). -/
def fillSecondary (r : Reply) (st : BitVec 2) (vindex : BitVec 2) (pa : PAddr) (set : Nat) (w : Bool) (s : State) :
    State :=
  let qs := incomingQuads r.bad 0 (quadsOfDwords (blockDwords r pa s))
  let s := writeQuads set w 0 qs (s.setStag set w (STag.of (stagOf pa) vindex st))
  if blockBad s.hw r.bad then reportError (.sysData (2#2 ≤ st) (oneWay w) (sIdxOf s.hw pa)) s else s

/-! ## Requests pending response (R910, R956, R968) -/

/-- A request for the block of `pa` is pending response. -/
def pendingFor (pa : PAddr) (s : State) : Option Outstanding :=
  s.ext.outstanding.find? fun o => s.hw.blockBase o.pa == s.hw.blockBase pa

/-- The request has its final response. -/
def retire (o : Outstanding) (s : State) : State :=
  { s with ext := { s.ext with outstanding := s.ext.outstanding.erase o } }

/-- The incoming buffer keeps the data response `r` for the request, in the place of a former one (R911). -/
def buffer (o : Outstanding) (r : Reply) (s : State) : State :=
  if r.withData then
    { s with ext := { s.ext with outstanding := s.ext.outstanding.map fun x => if x = o then { x with buffered := some r } else x } }
  else s

/-- A block has come for the waiting instruction, which has yet to use it (R911). -/
def forward (o : Outstanding) (s : State) : State :=
  if o.live then { s with ext := { s.ext with forwarded := s.hw.blockBase o.pa :: s.ext.forwarded } } else s

/-- The waiting instruction uses the block of its reference (R911). -/
def use (a : CReq) (s : State) : State :=
  if a.pref then s
  else { s with ext := { s.ext with forwarded := s.ext.forwarded.filter fun b => b != s.hw.blockBase a.pa } }

/-- A coherency request for the block of `pa` is stalled: the block is in the incoming buffer, or in the secondary cache for
an instruction that has not used it (R911; how long: log 81). -/
def heldBack (pa : PAddr) (s : State) : Bool :=
  match pendingFor pa s with
  | some o => o.buffered.isSome
  | none => s.ext.forwarded.contains (s.hw.blockBase pa)

/-- The waiting instruction that made the request is re-evaluated: its reference enters the SCTP logic anew. -/
def reevaluate (o : Outstanding) (s : State) : State :=
  if !o.live then s
  else if o.kind = .fetch then { s with sctp := { s.sctp with fetch := false } }
  else { s with sctp := { s.sctp with data := false, missed := false } }

/-- What a response makes of a request pending response. -/
inductive Settled where
  /-- The block is in the cache: whether its data came with the response, and whether some of it is uncorrectable. -/
  | filled (fresh bad : Bool)
  /-- The instruction is to be re-evaluated (NACK). -/
  | again
  /-- ERR. -/
  | error
  /-- The request is still pending response. -/
  | waiting
deriving DecidableEq, Repr

/-- The way that a response fills holds nothing else: another block that took it meanwhile is cast out, and primary
copies of the block itself are dropped. -/
def vacate (pa : PAddr) (set : Nat) (w : Bool) (s : State) : State :=
  let t := s.ctag set w
  if t.tag = stagOf pa ∧ t.st ≠ 0#2 then purgePrimary false t.vindex pa s else evictSecondary true set w s

/-- A block data response with ACK fills the way the request named (R358, R954, R990). -/
def acceptData (o : Outstanding) (r : Reply) (s : State) : Settled × State :=
  let set := sSet s.hw o.pa
  let t := fillSecondary r (responseState o.cmd r.st) o.vindex o.pa set o.way (vacate o.pa set o.way s)
  (.filled true (blockBad s.hw r.bad),
    t.count fun e =>
      if o.isRead then
        if o.kind = .fetch then { e with scFillI := e.scFillI + 1 } else { e with scFillD := e.scFillD + 1 }
      else e)

/-- An ACK of an upgrade without data: exclusive ownership of the block if it is still Shared, else the upgrade was lost
to an external request and is re-evaluated (R951, R967, R968). -/
def acceptUpgrade (o : Outstanding) (s : State) : Settled × State :=
  let set := sSet s.hw o.pa
  let t := s.ctag set o.way
  if t.tag = stagOf o.pa ∧ t.st = 1#2 then (.filled false false, setBlockState o.upState set o.way s)
  else (.again, reevaluate o s)

/-- What the external response `r` makes of a request pending response (R911, R956, R968, R989, R990): ACK takes the data
that comes with it, else the data in the incoming buffer; an ACK of a read that has neither is a NACK. -/
def answer (o : Outstanding) (r : Reply) (s : State) : Settled × State :=
  match r.completion with
  | .ack =>
    if o.isRead && blockUnmapped s (s.hw.blockBase o.pa).toNat then (.error, retire o s)
    else if r.withData then acceptData o r (retire o s)
    else
      match o.buffered with
      | some d => acceptData o d (retire o s)
      | none => if o.isRead then (.again, reevaluate o (retire o s)) else acceptUpgrade o (retire o s)
  | .nack => (.again, reevaluate o (retire o s))
  | .err => (.error, retire o s)
  | .lost => (.waiting, buffer o r (postRespError s))
  | .reserved => (.waiting, buffer o r s)
  | .later => (.waiting, buffer o r s)

/-- Take the next response for a request pending response (R956). -/
def settle (o : Outstanding) (s : State) : Settled × State :=
  let (r, s) := receive (o.isRead && o.buffered.isNone) false s
  answer o r s

/-- The external agent responds to the request with number `rq`, in whatever order (R953); a response to no request of the
processor is ignored.  An ERR is the Bus Error of the instruction that waits for the request (R956; when: log 81). -/
def respond (rq : BitVec 3) (r : Reply) (s : State) : State :=
  match s.ext.outstanding.find? fun o => o.rq == rq with
  | none => reportCycles r s
  | some o =>
    match answer o r (reportCycles r s) with
    | (.filled true _, t) => forward o t
    | (.error, t) => if o.live then { t with ext := { t.ext with busErr := some o.kind } } else t
    | (_, t) => t

/-- The most read and upgrade requests pending response: PrcReqMax, mode bits 8:7 (R917, R1136). -/
def Hw.maxRequests (h : Hw) : Nat := (h.modeBits.extractLsb' 7 2).toNat + 1

/-- A buffer entry and a request number are free (R903, R910, R917). -/
def hasRoom (s : State) : Bool := decide (s.ext.outstanding.length < s.hw.maxRequests) && s.freeNumber.isSome

/-- Whether a read or upgrade may be issued: SysRdRdy* is asserted and there is room, the oldest request given the chance to
complete (R910, R917).  The ERR of a request that the current instruction waits for is its Bus Error; `quiet`, for a
prefetch or an aborted instruction, leaves that request alone (R956). -/
def makeRoom (quiet : Bool) (s : State) : Res Bool :=
  if s.ext.readsHeld then .ok false s
  else if hasRoom s then .ok true s
  else
    match s.ext.outstanding with
    | [] => .ok false s
    | o :: _ =>
      if quiet && o.live then .ok false s
      else
        match settle o s with
        | (.error, t) => if o.live then .exc (.busError o.kind) t else .ok (hasRoom t) t
        | (.filled true _, t) => .ok (hasRoom t) (forward o t)
        | (_, t) => .ok (hasRoom t) t

/-- A request goes out and is pending response. -/
def request (r : BusReq) (o : Outstanding) (s : State) : State :=
  let s := s.emit r
  { s with ext := { s.ext with outstanding := s.ext.outstanding ++ [o] } }

/-- A secondary way that holds the block of a reference. -/
structure SWay where
  way    : Bool
  /-- Its data has just come from memory. -/
  fresh  : Bool
  /-- The reference missed in the secondary cache. -/
  missed : Bool
deriving DecidableEq, Repr

/-- A reference that cannot go on yet: a prefetch is dropped, another one tried again. -/
def giveUp (a : CReq) (s : State) : Res (Option SWay) := if a.pref then .ok none s else .retry s

/-- A reference that took an ERR: the Bus Error of the instruction that waits for the request, none for a prefetch or a
speculative instruction, after which another one makes its own request (R956). -/
def failed (a : CReq) (o : Outstanding) (s : State) : Res (Option SWay) :=
  if o.live then .exc (.busError o.kind) s else giveUp a s

/-- The reference after the response to the request `o`; `k` goes on with the block. -/
def afterReply (a : CReq) (o : Outstanding) (x : Settled × State) (k : Bool → State → Res (Option SWay)) :
    Res (Option SWay) :=
  match x.1 with
  | .filled fresh bad => (errGate bad x.2).bind fun _ s => k fresh s
  | .again => giveUp a x.2
  | .error => failed a o x.2
  | .waiting => giveUp a x.2

/-- The upgrade request of a reference to a Shared block in way `w` (R951). -/
def upgradeEntry (a : CReq) (w : Bool) (rq : BitVec 3) : Outstanding :=
  { rq := rq, isRead := false, kind := a.kind, live := !a.pref, pa := a.pa, cmd := 6#3, vindex := vindexOf a.va, way := w,
    upState := a.upState, buffered := none }

/-- An exclusively owned block becomes DirtyExclusive for a store, silently (R358). -/
def claim (a : CReq) (set : Nat) (w : Bool) (s : State) : State :=
  if a.pref = false ∧ (s.ctag set w).st ≠ 3#2 then setBlockState 3#2 set w s else s

/-- Way `w` holds the block of a reference Shared. -/
def sharedHere (a : CReq) (set : Nat) (w : Bool) (s : State) : Bool :=
  (s.ctag set w).st == 1#2 && (s.ctag set w).tag == stagOf a.pa

/-- Obtain exclusive ownership of the block in way `x.way`, for a reference that needs it (R358): an upgrade from Shared,
silently from CleanExclusive.  The upgrade waits for room and for a coherency request on its block (R951).  `none`: a
prefetch dropped. -/
def ownSecondary (counted : Bool) (a : CReq) (set : Nat) (x : SWay) (s : State) : Res (Option SWay) :=
  match (s.ctag set x.way).st with
  | 1#2 =>
    (makeRoom a.pref s).bind fun room s =>
      if !room || coherencyPending a.pa s || !sharedHere a set x.way s then giveUp a s
      else
        let s := s.count fun e => { e with upShared := e.upShared + 1 }
        let o := upgradeEntry a x.way s.nextNumber
        afterReply a o (settle o (request (.upgrade o.rq a.pa a.upCause 1#2 x.way) o s)) fun fresh s =>
          .ok (some { x with fresh := x.fresh || fresh }) (claim a set x.way s)
  | 2#2 =>
    .ok (some x) (claim a set x.way (s.count fun e => { e with upClean := e.upClean + counted.toNat }))
  | _ => .ok (some x) s

/-- Ownership if the reference needs it. -/
def ownIfNeeded (counted : Bool) (a : CReq) (set : Nat) (x : SWay) (s : State) : Res (Option SWay) :=
  if a.excl then ownSecondary counted a set x s else .ok (some x) s

/-- The virtual index changes: the primary blocks at the old index are purged and PIdx rewritten (R357). -/
def reindexSecondary (a : CReq) (set : Nat) (w : Bool) (s : State) : State :=
  let t := s.ctag set w
  if t.vindex = vindexOf a.va then s
  else
    let s := purgePrimary true t.vindex a.pa s
    s.setStag set w (STag.of t.tag (vindexOf a.va) t.st)

/-- A hit in the secondary cache. -/
def hitSecondary (a : CReq) (set : Nat) (w : Bool) (s : State) : Res (Option SWay) :=
  let miss := (s.mru (mruIndex s a.pa) != w).toNat
  let s := s.count fun e =>
    if a.isFetch then { e with wayMissI := e.wayMissI + miss } else { e with wayMissD := e.wayMissD + miss }
  ownIfNeeded true a set { way := w, fresh := false, missed := false } (reindexSecondary a set w ((use a s).setMru (mruIndex s a.pa) w))

/-- The way a miss replaces (R355), with the way prediction table updated.  That the update comes when the way is chosen, and
stays where the block read is then answered NACK or ERR, is the model's choice (log 76). -/
def victimSecondary (pa : PAddr) (set : Nat) (s : State) : Bool × State :=
  let p := s.mru (mruIndex s pa)
  if (s.ctag set p).st = 0#2 then (p, s) else (!p, s.setMru (mruIndex s pa) (!p))

/-- The block read of a reference that replaces way `w` (R947). -/
def readEntry (a : CReq) (w : Bool) (rq : BitVec 3) : Outstanding :=
  { rq := rq, isRead := true, kind := a.kind, live := !a.pref, pa := a.pa, cmd := readCommand a, vindex := vindexOf a.va,
    way := w, upState := 0#2, buffered := none }

/-- The miss of a reference in the secondary cache is counted, and noted of one that may have to wait (R176, R184). -/
def noteMiss (a : CReq) (s : State) : State :=
  if a.isFetch then s.count fun e => { e with scMissI := e.scMissI + 1 }
  else
    let s := s.count fun e => { e with scMissD := e.scMissD + 1 }
    if a.pref then s else { s with sctp := { s.sctp with missed := true } }

/-- A miss in the secondary cache: replacement, block read, refill (R358, R947).  It waits for room (R917), for a coherency
request on its block to complete, for an outgoing entry of the same block to leave, and for room to cast the victim out
(R913, R947).  The read goes out before what is pending issue, and before the victim's write or eliminate (R946). -/
def missSecondary (a : CReq) (set : Nat) (s : State) : Res (Option SWay) :=
  (makeRoom a.pref s).bind fun room s =>
    let s := if evictionPending a.pa s || outgoingFull s then drain s else s
    if !room || coherencyPending a.pa s || evictionPending a.pa s || outgoingFull s then giveUp a s
    else
      let (w, s) := victimSecondary a.pa set (noteMiss a s)
      let o := readEntry a w s.nextNumber
      let s := evictSecondary true set w (request (.blockRead o.rq a.pa o.cmd a.cause (s.ctag set w).st w) o s)
      afterReply a o (settle o s) fun fresh s =>
        ownIfNeeded false a set { way := w, fresh := fresh, missed := true } s

/-- A reference to a block whose request is pending response (R968); a prefetch leaves the response to the instruction that
waits for it.  The virtual index is compared as in a hit (R357). -/
def joinRequest (a : CReq) (o : Outstanding) (s : State) : Res (Option SWay) :=
  if a.pref && o.live then giveUp a s
  else
    let set := sSet s.hw a.pa
    afterReply a o (settle o s) fun fresh s =>
      ownIfNeeded false a set { way := o.way, fresh := fresh, missed := o.isRead } (reindexSecondary a set o.way s)

/-- The block of a reference in the secondary cache, owned if need be: its way; `none` for a prefetch dropped. -/
def secondaryAccess (a : CReq) (s : State) : Res (Option SWay) :=
  match pendingFor a.pa s with
  | some o => joinRequest a o s
  | none =>
    let ((hit, bad), s) := lookupSecondary a.pa s
    (errGate bad s).bind fun _ s =>
      match hit with
      | some w => hitSecondary a (sSet s.hw a.pa) w s
      | none => missSecondary a (sSet s.hw a.pa) s

/-- The quadwords a refill takes from a secondary way: those just come from memory were checked when they came (R912). -/
def refillQuads (x : SWay) (pa : PAddr) (set k n : Nat) (s : State) : (List (BitVec 128) × Bool) × State :=
  if x.fresh then ((rawQuads s set x.way k n, false), s)
  else
    let (qs, s) := readQuads pa set x.way k n s
    ((qs.map Prod.fst, qs.any Prod.snd), s)

/-! ## The primary data cache -/

/-- The tag address parity is wrong. -/
def DTag.badTA (t : DTag) : Bool := evenParity t.tag != t.tp
/-- The tag state parity is wrong (it covers PState and the way bit, R212). -/
def DTag.badTS (t : DTag) : Bool := (evenParity t.st ^^ t.way) != t.sp
/-- The state modifier is not one of the codes the source lists (R212, R985).  That they are all the valid codes is the model's
choice (N27; log 69). -/
def DTag.badTM (t : DTag) : Bool := t.mod != 0#3 && t.mod != 1#3 && t.mod != 2#3
/-- Some check of the tag fails. -/
def DTag.isBad (t : DTag) : Bool := t.badTA || t.badTS || t.badTM

/-- Check both tags of a set (R985): whether one is bad, and the state with the error posted. -/
def checkDSet (set : Nat) (pidx : BitVec 11) (s : State) : Bool × State :=
  let t0 := s.dtag set false
  let t1 := s.dtag set true
  if t0.isBad || t1.isBad then
    let ee := t0.isBad && t0.mod == 1#3 || t1.isBad && t1.mod == 1#3
    (true, reportError (.dcache ee 0#2 (wayField t0.badTA t1.badTA) (wayField t0.badTS t1.badTS)
      (wayField t0.badTM t1.badTM) pidx) s)
  else (false, s)

/-- Check both tags of the set of a virtual address. -/
def checkDTags (va : DWord) (s : State) : Bool × State := checkDSet (dSet va) (va.extractLsb' 3 11) s

/-- The way of the set that holds the line of `pa`. -/
def dHit (s : State) (va : DWord) (pa : PAddr) : Option Bool :=
  let t0 := s.dtag (dSet va) false
  let t1 := s.dtag (dSet va) true
  if t0.tag = ptag pa ∧ t0.st ≠ 0#2 then some false
  else if t1.tag = ptag pa ∧ t1.st ≠ 0#2 then some true
  else none

/-- The line of `pa` stands in the refill state that a Soft Reset left (R1132). -/
def dRefilling (s : State) (va : DWord) (pa : PAddr) : Bool :=
  let t0 := s.dtag (dSet va) false
  let t1 := s.dtag (dSet va) true
  t0.tag == ptag pa && t0.mod == 2#3 || t1.tag == ptag pa && t1.mod == 2#3

/-- The primary way a refill replaces (R350, U13; log 22): the environment's choice, else an invalid way, else the
least recently used. -/
def victimPrimary (valid0 valid1 lru : Bool) (s : State) : Bool × State :=
  match s.ext.victims with
  | w :: ws => (w, { s with ext := { s.ext with victims := ws } })
  | [] => (if !valid0 then false else if !valid1 then true else lru, s)

/-- The R12000 records the line of a refill, with L1/L2 select only if the reference missed in the secondary cache too
(R184). -/
def recordMiss (a : CReq) (missed : Bool) (s : State) : State :=
  if s.isR12k && (!(s.cp0.perf.ctl.get 3).getLsbD 15 || missed || !a.pref && s.sctp.missed) then
    { s with cp0 := { s.cp0 with perf := { s.cp0.perf with missAddr := alignDown 5 a.pa } } }
  else s

/-- Refill a data cache line from secondary way `x.way` (R380). -/
def refillD (a : CReq) (x : SWay) (s : State) : Res (Option Bool) :=
  let set := dSet a.va
  let sset := sSet s.hw a.pa
  let base := alignDown 5 a.pa
  let (w, s) := victimPrimary ((s.dtag set false).st != 0#2) ((s.dtag set true).st != 0#2) (s.dlru set) s
  let s := writeBackD set w s
  let ((qs, bad), s) := refillQuads x a.pa sset (quadOf s.hw base) 2 s
  (errGate bad s).bind fun _ s =>
    let s := fillLine set w 0 (quadsWords s.bigEndianMem qs) s
    .ok (some w) (recordMiss a x.missed (s.setDtag set w (DTag.of (ptag a.pa) (s.ctag sset x.way).st 0#3 x.way)))

/-- A request of a primary cache enters the SCTP logic: counted once for an instruction that waits (R176, R186). -/
def enterSctp (a : CReq) (f : CacheEvents → CacheEvents) (s : State) : State :=
  if a.pref then s.count f
  else if a.isFetch then
    if s.sctp.fetch then s else { s.count f with sctp := { s.sctp with fetch := true } }
  else if s.sctp.data then s
  else { s.count f with sctp := { s.sctp with data := true } }

/-- A reference that misses in the data cache: the block, then the line. -/
def dMiss (a : CReq) (s : State) : Res (Option Bool) :=
  let issued := s.events.scMissD
  (secondaryAccess a (enterSctp a (fun e => { e with dcMiss := e.dcMiss + 1 }) s)).bind fun sw s =>
    let s := s.count fun e => { e with prefFills := e.prefFills + (sw.isSome || e.scMissD != issued).toNat }
    match sw with
    | none => .ok none s
    | some sw =>
      (refillD a sw s).bind fun w s =>
        .ok w (match w with
          | some w => s.setDlru (dSet a.va) (!w)
          | none => s)

/-- The line of a reference in the data cache: its way; `none` for a prefetch dropped. -/
def dAccess (a : CReq) (s : State) : Res (Option Bool) :=
  let (bad, s) := checkDTags a.va s
  (errGate bad s).bind fun _ s =>
    if dRefilling s a.va a.pa then .retry s.hang
    else
      match dHit s a.va a.pa with
      | some w =>
        let s := s.setDlru (dSet a.va) (!w)
        if a.excl = true ∧ (s.dtag (dSet a.va) w).st ≠ 3#2 then
          (secondaryAccess a (enterSctp a (fun e => { e with dcClean := e.dcClean + 1 }) s)).bind fun sw s =>
            match sw with
            | none => .ok none s
            | some sw =>
              match dHit s a.va a.pa with
              | some w => .ok (some w) s
              | none => refillD a sw s
        else .ok (some w) s
      | none => dMiss a s

/-- The byte of a data cache line at an offset below 32. -/
def State.dByte (s : State) (set : Nat) (w : Bool) (off : Nat) : Byte :=
  (s.dword set w (off / 4)).byte s.bigEndianMem (off % 4)

/-- A byte of the `n` from an offset on has wrong parity. -/
def dBytesBad (s : State) (set : Nat) (w : Bool) (off : Nat) : Nat → Bool
  | 0 => false
  | n + 1 => (s.dword set w (off / 4)).byteBad s.bigEndianMem (off % 4) || dBytesBad s set w (off + 1) n

/-- Write bytes into a data cache line from an offset on. -/
def dWriteBytes (set : Nat) (w : Bool) : Nat → List Byte → State → State
  | _, [], s => s
  | off, b :: bs, s =>
    dWriteBytes set w (off + 1) bs
      (s.setDword set w (off / 4) ((s.dword set w (off / 4)).setByte s.bigEndianMem (off % 4) b))

/-- A cached load of `n` bytes inside an aligned doubleword (R236, R250 step 5): the bytes, lowest address first. -/
def cachedRead (a : CReq) (n : Nat) (s : State) : Res (List Byte) :=
  (dAccess a s).bind fun w s =>
    match w with
    | none => .ok [] s
    | some w =>
      let set := dSet a.va
      let off := a.pa.toNat % 32
      let bad := dBytesBad s set w off n
      let s := if bad then reportError (.dcache false (oneWay w) 0#2 0#2 0#2 (a.va.extractLsb' 3 11)) s else s
      (errGate bad s).bind fun _ s => .ok (readBytes (s.dByte set w) off n) s

/-- A cached store (R250 step 5, R358): the line becomes Inconsistent and DirtyExclusive. -/
def cachedWrite (a : CReq) (bytes : List Byte) (s : State) : Res Unit :=
  (dAccess a s).bind fun w s =>
    match w with
    | none => .ok () s
    | some w =>
      let set := dSet a.va
      let t := s.dtag set w
      .ok () (dWriteBytes set w (a.pa.toNat % 32) bytes (s.setDtag set w (DTag.of t.tag 3#2 1#3 t.way)))

/-! ## The primary instruction cache -/

/-- The tag address parity is wrong. -/
def ITag.badTA (t : ITag) : Bool := evenParity t.tag != t.tp
/-- The tag state parity is wrong. -/
def ITag.badTS (t : ITag) : Bool := t.valid != t.sp

/-- Check both tags of a set (R984). -/
def checkITags (va : DWord) (s : State) : Bool × State :=
  let t0 := s.itag (iSet va) false
  let t1 := s.itag (iSet va) true
  if t0.badTA || t0.badTS || t1.badTA || t1.badTS then
    (true, reportError (.icache 0#2 (wayField t0.badTA t1.badTA) (wayField t0.badTS t1.badTS)
      (va.extractLsb' 6 8)) s)
  else (false, s)

/-- The way of the set that holds the block of `pa`. -/
def iHit (s : State) (va : DWord) (pa : PAddr) : Option Bool :=
  let t0 := s.itag (iSet va) false
  let t1 := s.itag (iSet va) true
  if t0.tag = ptag pa ∧ t0.valid = true then some false
  else if t1.tag = ptag pa ∧ t1.valid = true then some true
  else none

/-- Write the words of an instruction cache block from word `k` on. -/
def fillI (set : Nat) (w : Bool) : Nat → List Word → State → State
  | _, [], s => s
  | k, x :: xs, s => fillI set w (k + 1) xs (s.setIword set w k { pre := 0#4, word := x, parBad := false })

/-- Refill an instruction cache block from secondary way `x.way` (R380). -/
def refillI (a : CReq) (x : SWay) (s : State) : Res Bool :=
  let set := iSet a.va
  let sset := sSet s.hw a.pa
  let base := alignDown 6 a.pa
  let (w, s) := victimPrimary (s.itag set false).valid (s.itag set true).valid (s.ilru set) s
  let ((qs, bad), s) := refillQuads x a.pa sset (quadOf s.hw base) 4 s
  (errGate bad s).bind fun _ s =>
    let s := fillI set w 0 (quadsWords s.bigEndianMem qs) s
    .ok w (s.setItag set w (ITag.of (ptag a.pa) true))

/-- The instruction word of a hit, checked (R984). -/
def readI (a : CReq) (w : Bool) (s : State) : Res Word :=
  let set := iSet a.va
  let x := s.iword set w (a.va.extractLsb' 2 4).toNat
  let s := if x.parBad then reportError (.icache (oneWay w) 0#2 0#2 (a.va.extractLsb' 6 8)) s else s
  (errGate x.parBad (s.setIlru set (!w))).bind fun _ s => .ok x.word s

/-- A cached instruction fetch: the instruction cache, then the secondary cache, never the data cache (R262). -/
def cachedFetch (a : CReq) (s : State) : Res Word :=
  let (bad, s) := checkITags a.va s
  (errGate bad s).bind fun _ s =>
    match iHit s a.va a.pa with
    | some w => readI a w s
    | none =>
      (secondaryAccess a (enterSctp a (fun e => { e with icMiss := e.icMiss + 1 }) s)).bind fun sw s =>
        match sw with
        | none => .retry s
        | some sw => (refillI a sw s).bind fun w s => readI a w s

end Sys2Proof.Machine
end

