-- ==== Sys2Proof/Machine/Access.lean ====
section
/-! DEFINITION. The access pipeline (spec/20_memory.md R250): alignment, address check and translation, Watch, and the
access under its cache algorithm; instruction fetch (R235, R262) and prefetch (spec/42_load_store.md R591). -/

namespace Sys2Proof.Machine

/-! ## Checks -/

/-- Alignment check, then translation (R250 steps 1 to 3). -/
def dataTranslate (va : DWord) (n : Nat) (kind : AccessKind) (s : State) : Res Xlate :=
  if va.toNat % n ≠ 0 then .exc (.addressError (checkedVa s va kind) kind) s else translate s va kind

/-- A cached algorithm (R240). -/
def isCached (ca : BitVec 3) : Bool := ca == 3#3 || ca == 4#3 || ca == 5#3

/-- An uncached algorithm (R240). -/
def isUncached (ca : BitVec 3) : Bool := ca == 2#3 || ca == 7#3

/-- The reference matches the watched doubleword (R137). -/
def watchMatch (s : State) (pa : PAddr) (kind : AccessKind) : Bool :=
  let watched : BitVec 37 := s.cp0.watchHi.extractLsb' 0 8 ++ s.cp0.watchLo.extractLsb' 3 29
  pa.extractLsb' 3 37 == watched && (if kind = .store then s.cp0.watchLo.getLsbD 0 else s.cp0.watchLo.getLsbD 1)

/-- Watch exceptions are taken at once: EXL = ERL = 0 (R1077, R1078). -/
def watchLive (s : State) : Bool := !s.statusBit 1 && !s.statusBit 2

/-- A postponed match of an access that completes sets the delayed-Watch latch (R1078). -/
def latchWatch (hit : Bool) (s : State) : State :=
  if hit then { s with cp0 := { s.cp0 with watchPending := true } } else s

/-- The Watch exception of a cacheable reference: a data cache miss is refilled first (R1079).  That a store has its block
exclusively owned and DirtyExclusive by that, though nothing is stored, is the model's choice (log 77). -/
def watchCached {α : Type} (a : CReq) (s : State) : Res α :=
  match dHit s a.va a.pa with
  | some _ => .exc .watch s
  | none =>
    match dAccess a s with
    | .ok _ s => .exc .watch s
    | .exc _ s => .exc .watch s
    | .retry s => .retry s
    | .fault f => .fault f
    | .refuse r => .refuse r

/-! ## Uncached accesses (R242, R249, R253) -/

/-- The byte of a double/single/partial-word response for an address: in its lane of the doubleword that came, else what
answers at the address gives (R928, R955). -/
def replyByte (r : Reply) (s : State) (a : Nat) : Byte :=
  match r.data.lookup 0 with
  | some d => d.extractLsb' (laneOf s.bigEndianMem a) 8
  | none => s.physByte a

/-- An uncached read of `n` bytes on the System interface: it keeps its order behind the writes of the uncached buffer
(R914) and waits for room (R917); `quiet` for a read ahead of the instruction at the pc. -/
def uncachedRead (quiet : Bool) (kind : AccessKind) (cause : BitVec 2) (pa : PAddr) (n : Nat) (uc : BitVec 2) (s : State) :
    Res (List Byte) :=
  (makeRoom quiet (drain s)).bind fun room s =>
    if !room || uncachedPending s then .retry s
    else
      let (r, s) := receive true true (s.emit (.dspRead s.nextNumber pa n uc cause))
      let completion := if r.completion = .ack ∧ s.physAt pa.toNat = .none then .err else r.completion
      match completion with
      | .ack => if r.bad.getLsbD 0 then .exc (.busError kind) s else .ok (readBytes (replyByte r s) pa.toNat n) s
      | .err => .exc (.busError kind) s
      | .lost => .retry (postRespError s).hang
      | .nack => .retry s
      | .reserved => .retry s
      | .later => .retry s

/-- An uncached store; `whole` for a word or doubleword store, which Uncached accelerated gathers (R916): a doubleword that
follows an unpaired singleword is refused (U36).  It waits for room in the FIFO of the uncached buffer (R914). -/
def uncachedWrite (ca : BitVec 3) (whole : Bool) (pa : PAddr) (bytes : List Byte) (uc : BitVec 2) (s : State) :
    Res Unit :=
  if uncachedFull (drain s) then .retry (drain s)
  else if ca = 7#3 ∧ whole = true ∧ unpaired (gatherAhead (drain s)) bytes.length uc = true then .refuse .unpairedGather
  else .ok () (bufferStore { pa := pa, bytes := bytes, uc := uc, accel := ca == 7#3, whole := whole } (drain s))

/-! ## Reads and writes at a translated address (R250 steps 4 and 5) -/

/-- A cached data reference. -/
def dataReq (x : Xlate) (pa : PAddr) (kind : AccessKind) (cause : BitVec 2) : CReq :=
  { va := x.va, pa := pa, ca := x.ca, kind := kind, cause := if kind = .store then 1#2 else cause, upCause := cause,
    excl := kind = .store, upState := 3#2, pref := false }

/-- Read `n` bytes at `pa`: Watch, then the access under the cache algorithm of `x`. -/
def readAt (cause : BitVec 2) (x : Xlate) (pa : PAddr) (n : Nat) (s : State) : Res (List Byte) :=
  let hit := watchMatch s pa .load
  if isCached x.ca then
    if hit && watchLive s then watchCached (dataReq x pa .load cause) s
    else (cachedRead (dataReq x pa .load cause) n s).bind fun bs s => .ok bs (latchWatch hit s)
  else if isUncached x.ca then
    if hit && watchLive s then .exc .watch s
    else (uncachedRead false .load cause pa n x.uc (flushGather s)).bind fun bs s => .ok bs (latchWatch hit s)
  else .refuse .reservedCacheAlgorithm

/-- Write bytes at `pa`. -/
def writeAt (cause : BitVec 2) (whole : Bool) (x : Xlate) (pa : PAddr) (bytes : List Byte) (s : State) : Res Unit :=
  let hit := watchMatch s pa .store
  if isCached x.ca then
    if hit && watchLive s then watchCached (dataReq x pa .store cause) s
    else (cachedWrite (dataReq x pa .store cause) bytes s).bind fun _ s => .ok () (latchWatch hit s)
  else if isUncached x.ca then
    if hit && watchLive s then .exc .watch s
    else (uncachedWrite x.ca whole pa bytes x.uc s).bind fun _ s => .ok () (latchWatch hit s)
  else .refuse .reservedCacheAlgorithm

/-- The link is broken by any load, store, SYNC, CACHE or prefetch (R259). -/
def breakLl (s : State) : State := { s with llbit := false }

/-- `MemRead(va, n)` (R250): an aligned load of `n` bytes in the byte order of the processor. -/
def memRead (va : DWord) (n : Nat) (s : State) : Res DWord :=
  (dataTranslate va n .load s).bind fun x s =>
    (readAt 1#2 x x.pa n s).bind fun bs s => .ok (valueOfBytes s.bigEndianCpu bs) (breakLl s)

/-- `MemWrite(va, n, v)` (R250): an aligned store of the low `n` bytes of `v`. -/
def memWrite (va : DWord) (n : Nat) (v : DWord) (s : State) : Res Unit :=
  (dataTranslate va n .store s).bind fun x s =>
    (writeAt 1#2 (n == 4 || n == 8) x x.pa (bytesOfValue s.bigEndianCpu v n) s).bind fun _ s => .ok () (breakLl s)

/-- The load of LL and LLD (R259, R585): sets the link on the block. -/
def linkedRead (va : DWord) (n : Nat) (s : State) : Res DWord :=
  (dataTranslate va n .load s).bind fun x s =>
    (readAt 2#2 x x.pa n s).bind fun bs s =>
      .ok (valueOfBytes s.bigEndianCpu bs) { s with llbit := true, llblock := s.hw.blockBase x.pa }

/-- The store of SC and SCD (R259, R587): address checks and Watch first, then the store if the link holds; whether it
was performed. -/
def conditionalWrite (va : DWord) (n : Nat) (v : DWord) (s : State) : Res Bool :=
  (dataTranslate va n .store s).bind fun x s =>
    if s.llbit then
      (writeAt 2#2 true x x.pa (bytesOfValue s.bigEndianCpu v n) s).bind fun _ s => .ok true (breakLl s)
    else if watchMatch s x.pa .store && watchLive s then
      (if isCached x.ca then watchCached (dataReq x x.pa .store 2#2) s else .exc .watch s)
    else .ok false (breakLl (latchWatch (watchMatch s x.pa .store) s))

/-! ## Unaligned accesses (spec/42_load_store.md R575) -/

/-- The position of the byte at `va` in its aligned unit of `n` bytes, 0 the least significant (R575). -/
def unalignedPos (be : Bool) (n : Nat) (va : DWord) : Nat :=
  if be then n - 1 - va.toNat % n else va.toNat % n

/-- The offset in the unit and the number of the bytes a left form touches: `k + 1` bytes from `va` on to the less
significant end (R576). -/
def leftSpan (be : Bool) (n k : Nat) : Nat × Nat := (if be then n - 1 - k else 0, k + 1)

/-- The offset and number of the bytes a right form touches: `n - k` bytes (R577). -/
def rightSpan (be : Bool) (n k : Nat) : Nat × Nat := (if be then 0 else k, n - k)

/-- An unaligned load: the position `k` and the bytes touched, as a number (most significant first). -/
def unalignedRead (left : Bool) (n : Nat) (va : DWord) (s : State) : Res (Nat × DWord) :=
  (translate s va .load).bind fun x s =>
    let be := s.bigEndianCpu
    let k := unalignedPos be n x.va
    let span := if left then leftSpan be n k else rightSpan be n k
    let base := x.pa.toNat / n * n
    (readAt 1#2 x (BitVec.ofNat 40 (base + span.1)) span.2 s).bind fun bs s =>
      .ok (k, valueOfBytes be bs) (breakLl s)

/-- An unaligned store of the bytes that the left or right form takes from the `n`-byte value `v` (R578, R579). -/
def unalignedWrite (left : Bool) (n : Nat) (v : DWord) (va : DWord) (s : State) : Res Unit :=
  (translate s va .store).bind fun x s =>
    let be := s.bigEndianCpu
    let k := unalignedPos be n x.va
    let span := if left then leftSpan be n k else rightSpan be n k
    let base := x.pa.toNat / n * n
    let part := if left then v >>> (8 * (n - 1 - k)) else v
    (writeAt 1#2 false x (BitVec.ofNat 40 (base + span.1)) (bytesOfValue be part span.2) s).bind fun _ s =>
      .ok () (breakLl s)

/-! ## Instruction fetch -/

/-- Fetch the word at the pc (R235, R250): big-endian by MemEnd alone; never watched. -/
def fetchWord (s : State) : Res Word :=
  if s.pc.toNat % 4 ≠ 0 then .exc (.addressError s.pc .fetch) s
  else
    (translate s s.pc .fetch).bind fun x s =>
      if isCached x.ca then
        cachedFetch { va := x.va, pa := x.pa, ca := x.ca, kind := .fetch, cause := 0#2, upCause := 0#2, excl := false,
                      upState := 0#2, pref := false } s
      else if isUncached x.ca then
        (uncachedRead false .fetch 0#2 x.pa 4 x.uc s).bind fun bs s =>
          .ok ((valueOfBytes s.bigEndianMem bs).setWidth 32) s
      else .refuse .reservedCacheAlgorithm

/-! ## Prefetch -/

/-- The prefetch hints the spec lists (R591): `some true` for the store hints. -/
def prefetchHint (hint : BitVec 5) : Option Bool :=
  match hint with
  | 0#5 | 4#5 | 6#5 => some false
  | 1#5 | 5#5 | 7#5 => some true
  | _ => none

/-- A prefetch (R239, R591): it breaks the link, raises nothing, and is dropped when the address does not translate, is
not cacheable, or the hint is not listed (log 46).  It translates as a load, with a store hint too (log 61).  That one for a line
a Soft Reset left in the refill state is dropped, where a load or a store hangs (R1132), is the model's choice (log 61). -/
def prefetch (hint : BitVec 5) (va : DWord) (s : State) : State :=
  breakLl <|
    match prefetchHint hint, translate s va .load with
    | some store, .ok x _ =>
      if isCached x.ca = true ∧ dRefilling s x.va x.pa = false then
        match dAccess { dataReq x x.pa .load 3#2 with excl := store, pref := true }
            (s.count fun e => { e with prefTags := e.prefTags + 1 }) with
        | .ok _ t => t
        | .exc _ t => t
        | .retry t => t
        | .fault _ => s
        | .refuse _ => s
      else s
    | _, _ => s

end Sys2Proof.Machine
end

