-- ==== Sys2Proof/Machine/Flags.lean ====
section
/-! DEFINITION. The flags: signed overflow of the trapping adds and subtracts (spec/40_integer_alu.md R452 to R463) and
the fields of FCR31, which holds the only condition codes of the machine (spec/10_state.md R43;
spec/46_fpu.md R766 to R770). -/

namespace Sys2Proof.Machine

/-! ## Integer overflow -/

/-- The exact sum does not fit: the two top bits of the sum with one more bit differ (R453, R459). -/
def addOverflow {n : Nat} (a b : BitVec n) : Bool :=
  let t := a.signExtend (n + 1) + b.signExtend (n + 1)
  t.getLsbD n != t.getLsbD (n - 1)

/-- The exact difference does not fit (R455, R461). -/
def subOverflow {n : Nat} (a b : BitVec n) : Bool :=
  let t := a.signExtend (n + 1) - b.signExtend (n + 1)
  t.getLsbD n != t.getLsbD (n - 1)

/-! ## FCR31 (R766) -/

/-- The bits FCR31 has: 22:18 read as zero (R766). -/
def fcr31Mask : Word := 0xFF83FFFF#32

/-- The bit of FCR31 that holds FCC[cc] (R766): bit 23 for 0, bit 24 + cc for the others. -/
def fccBit (cc : BitVec 3) : Nat := if cc = 0#3 then 23 else 24 + cc.toNat

/-- A floating-point condition bit (R43). -/
def State.fcc (s : State) (cc : BitVec 3) : Bool := s.fpu.fcr31.getLsbD (fccBit cc)

/-- The state with FCR31 replaced. -/
def State.setFcr31 (s : State) (v : Word) : State := { s with fpu := { s.fpu with fcr31 := v } }

/-- The state with a condition bit written. -/
def State.setFcc (s : State) (cc : BitVec 3) (b : Bool) : State :=
  s.setFcr31 ((s.fpu.fcr31 &&& ~~~((1#32) <<< fccBit cc)) ||| ((BitVec.ofBool b).setWidth 32 <<< fccBit cc))

/-- FCR31.FS, bit 24 (R766). -/
def State.flushDenorm (s : State) : Bool := s.fpu.fcr31.getLsbD 24

/-- FCR31.RM, bits 1:0 (R766). -/
def State.roundMode (s : State) : BitVec 2 := s.fpu.fcr31.extractLsb' 0 2

/-- FCR31.Enables, bits 11:7: V, Z, O, U, I from bit 4 down (R766). -/
def State.fpEnables (s : State) : BitVec 5 := s.fpu.fcr31.extractLsb' 7 5

/-- FCR31 with Cause, bits 17:12, replaced (E, V, Z, O, U, I from bit 17 down). -/
def fcr31WithCause (v : Word) (c : BitVec 6) : Word :=
  (v &&& ~~~0x0003F000#32) ||| (c.setWidth 32 <<< 12)

/-- FCR31 with flags added to Flags, bits 6:2. -/
def fcr31OrFlags (v : Word) (f : BitVec 5) : Word := v ||| (f.setWidth 32 <<< 2)

end Sys2Proof.Machine
end

