-- ==== Sys2Proof/Machine/Operands.lean ====
section
/-! DEFINITION. The operand forms: immediates, effective addresses (spec/42_load_store.md R560), branch targets
(spec/43_branch_jump.md R631), and the reach of a floating-point register number (spec/46_fpu.md R761 to R763). -/

namespace Sys2Proof.Machine

/-! ## Integer operands -/

/-- The low word of a general register: the operand of a 32-bit operation (R451). -/
def State.word (s : State) (r : RegNum) : Word := (s.rget r).setWidth 32

/-- A register plus a sign-extended offset (R560). -/
def State.ea (s : State) (base : RegNum) (offset : BitVec 16) : DWord := s.rget base + sext64 offset

/-- A register plus a register (R592, R822). -/
def State.eaIndexed (s : State) (base index : RegNum) : DWord := s.rget base + s.rget index

/-- The target of a branch: the delay slot's address plus the shifted offset (R631). -/
def State.branchTarget (s : State) (offset : BitVec 16) : DWord := s.pc + 4#64 + (sext64 offset <<< 2)

/-- The target of J and JAL, in the 256-Mbyte region of the delay slot (R631). -/
def State.jumpTarget (s : State) (target : BitVec 26) : DWord :=
  ((s.pc + 4#64).extractLsb' 28 36 ++ target ++ 0#2).cast (by decide)

/-- The link value: the address after the delay slot (R631). -/
def State.linkValue (s : State) : DWord := s.pc + 8#64

/-! ## Floating-point registers -/

/-- Status.FR, bit 26: all 32 registers of 64 bits (R761). -/
def State.fr (s : State) : Bool := s.statusBit 26

/-- A floating-point register as stored. -/
def State.fraw (s : State) (i : RegNum) : DWord := s.fpu.fpr.get i.toFin

/-- The state with a floating-point register's storage written. -/
def State.setFraw (s : State) (i : RegNum) (v : DWord) : State :=
  { s with fpu := { s.fpu with fpr := s.fpu.fpr.set i.toNat v i.isLt } }

/-- The register an arithmetic operand names: with FR = 0 the low bit is forced to zero (R762). -/
def State.farith (s : State) (i : RegNum) : RegNum := if s.fr then i else i &&& 0x1E#5

/-- `ReadS(i)`: a single or word operand of an arithmetic instruction (R761, R762). -/
def State.readS (s : State) (i : RegNum) : Word := (s.fraw (s.farith i)).setWidth 32

/-- `ReadD(i)`: a double or long operand (R761, R762). -/
def State.readD (s : State) (i : RegNum) : DWord := s.fraw (s.farith i)

/-- `WriteD(i, v)` (R761, R762). -/
def State.writeD (s : State) (i : RegNum) (v : DWord) : State := s.setFraw (s.farith i) v

/-- `WriteS(i, w)`: with FR = 1 the high half becomes zero, with FR = 0 it is kept (R761, R762). -/
def State.writeS (s : State) (i : RegNum) (w : Word) : State :=
  s.setFraw (s.farith i) (if s.fr then zext64 w else (s.fraw (s.farith i)).extractLsb' 32 32 ++ w)

/-- The word that a load, store or move names: with FR = 0 an odd number is the high half of the pair (R762). -/
def State.readMove (s : State) (i : RegNum) : Word :=
  if s.fr || !i.getLsbD 0 then (s.fraw i).setWidth 32 else (s.fraw (i &&& 0x1E#5)).extractLsb' 32 32

/-- A word written by a load or move (R761, R762). -/
def State.writeMove (s : State) (i : RegNum) (w : Word) : State :=
  if s.fr then s.setFraw i (zext64 w)
  else if i.getLsbD 0 then s.setFraw (i &&& 0x1E#5) (w ++ (s.fraw (i &&& 0x1E#5)).extractLsb' 0 32)
  else s.setFraw i ((s.fraw i).extractLsb' 32 32 ++ w)

/-- A doubleword load, store or move of an odd register with FR = 0 is invalid (R762, U27; log 17). -/
def needEvenDouble (i : RegNum) (s : State) : Res Unit :=
  if s.fr || !i.getLsbD 0 then .ok () s else .refuse .oddDoubleFpr

end Sys2Proof.Machine
end

