-- ==== Sys2Proof/Machine/Alu.lean ====
section
/-! DEFINITION. Integer arithmetic, logical, shift, set and conditional-move instructions
(spec/40_integer_alu.md R450 to R495). -/

namespace Sys2Proof.Machine

/-! ## Shared operations -/

/-- An operation that cannot trap: its value goes to `rd` (R450). -/
def aluOp (rd : RegNum) (v : State → DWord) (s : State) : Out := Res.finishGpr rd (.ok (v s) s)

/-- A 64-bit operation: Reserved Instruction when MIPS III is not enabled (R450). -/
def aluOp64 (rd : RegNum) (v : State → DWord) (s : State) : Out :=
  Res.finishGpr rd ((needMips3 s).bind fun _ s => .ok (v s) s)

/-- The result of an operation that can overflow (R452). -/
def trapping (ovf : Bool) (v : DWord) (s : State) : Res DWord := if ovf then .exc .overflow s else .ok v s

/-- 1 or 0, in 64 bits. -/
def boolValue (b : Bool) : DWord := if b then 1#64 else 0#64

/-- A conditional move of a general register (R492 to R495). -/
def moveIf (c : Bool) (rd : RegNum) (v : DWord) (s : State) : Res Unit := .ok () (if c then s.rset rd v else s)

/-! ## Add and subtract -/

/-- ADD (R453). -/
def execAdd (rs rt rd : BitVec 5) (s : State) : Out :=
  Res.finishGpr rd (trapping (addOverflow (s.word rs) (s.word rt)) (sext64 (s.word rs + s.word rt)) s)

/-- ADDU (R454). -/
def execAddu (rs rt rd : BitVec 5) (s : State) : Out := aluOp rd (fun s => sext64 (s.word rs + s.word rt)) s

/-- SUB (R455). -/
def execSub (rs rt rd : BitVec 5) (s : State) : Out :=
  Res.finishGpr rd (trapping (subOverflow (s.word rs) (s.word rt)) (sext64 (s.word rs - s.word rt)) s)

/-- SUBU (R456). -/
def execSubu (rs rt rd : BitVec 5) (s : State) : Out := aluOp rd (fun s => sext64 (s.word rs - s.word rt)) s

/-- ADDI (R457). -/
def execAddi (rs rt : BitVec 5) (imm : BitVec 16) (s : State) : Out :=
  Res.finishGpr rt
    (trapping (addOverflow (s.word rs) (imm.signExtend 32)) (sext64 (s.word rs + imm.signExtend 32)) s)

/-- ADDIU (R458): the immediate is sign-extended. -/
def execAddiu (rs rt : BitVec 5) (imm : BitVec 16) (s : State) : Out :=
  aluOp rt (fun s => sext64 (s.word rs + imm.signExtend 32)) s

/-- DADD (R459). -/
def execDadd (rs rt rd : BitVec 5) (s : State) : Out :=
  Res.finishGpr rd ((needMips3 s).bind fun _ s =>
    trapping (addOverflow (s.rget rs) (s.rget rt)) (s.rget rs + s.rget rt) s)

/-- DADDU (R460). -/
def execDaddu (rs rt rd : BitVec 5) (s : State) : Out := aluOp64 rd (fun s => s.rget rs + s.rget rt) s

/-- DSUB (R461). -/
def execDsub (rs rt rd : BitVec 5) (s : State) : Out :=
  Res.finishGpr rd ((needMips3 s).bind fun _ s =>
    trapping (subOverflow (s.rget rs) (s.rget rt)) (s.rget rs - s.rget rt) s)

/-- DSUBU (R462). -/
def execDsubu (rs rt rd : BitVec 5) (s : State) : Out := aluOp64 rd (fun s => s.rget rs - s.rget rt) s

/-- DADDI (R463). -/
def execDaddi (rs rt : BitVec 5) (imm : BitVec 16) (s : State) : Out :=
  Res.finishGpr rt ((needMips3 s).bind fun _ s =>
    trapping (addOverflow (s.rget rs) (sext64 imm)) (s.rget rs + sext64 imm) s)

/-- DADDIU (R464). -/
def execDaddiu (rs rt : BitVec 5) (imm : BitVec 16) (s : State) : Out :=
  aluOp64 rt (fun s => s.rget rs + sext64 imm) s

/-! ## Logical -/

/-- AND (R465). -/
def execAnd (rs rt rd : BitVec 5) (s : State) : Out := aluOp rd (fun s => s.rget rs &&& s.rget rt) s

/-- OR (R466). -/
def execOr (rs rt rd : BitVec 5) (s : State) : Out := aluOp rd (fun s => s.rget rs ||| s.rget rt) s

/-- XOR (R467). -/
def execXor (rs rt rd : BitVec 5) (s : State) : Out := aluOp rd (fun s => s.rget rs ^^^ s.rget rt) s

/-- NOR (R468). -/
def execNor (rs rt rd : BitVec 5) (s : State) : Out := aluOp rd (fun s => ~~~(s.rget rs ||| s.rget rt)) s

/-- ANDI (R469). -/
def execAndi (rs rt : BitVec 5) (imm : BitVec 16) (s : State) : Out := aluOp rt (fun s => s.rget rs &&& zext64 imm) s

/-- ORI (R470). -/
def execOri (rs rt : BitVec 5) (imm : BitVec 16) (s : State) : Out := aluOp rt (fun s => s.rget rs ||| zext64 imm) s

/-- XORI (R471). -/
def execXori (rs rt : BitVec 5) (imm : BitVec 16) (s : State) : Out := aluOp rt (fun s => s.rget rs ^^^ zext64 imm) s

/-- LUI (R472). -/
def execLui (rt : BitVec 5) (imm : BitVec 16) (s : State) : Out := aluOp rt (fun _ => sext64 (imm ++ 0#16)) s

/-! ## Set on less than -/

/-- SLT (R473). -/
def execSlt (rs rt rd : BitVec 5) (s : State) : Out := aluOp rd (fun s => boolValue ((s.rget rs).slt (s.rget rt))) s

/-- SLTU (R474). -/
def execSltu (rs rt rd : BitVec 5) (s : State) : Out := aluOp rd (fun s => boolValue ((s.rget rs).ult (s.rget rt))) s

/-- SLTI (R475). -/
def execSlti (rs rt : BitVec 5) (imm : BitVec 16) (s : State) : Out :=
  aluOp rt (fun s => boolValue ((s.rget rs).slt (sext64 imm))) s

/-- SLTIU (R476): sign-extended, then compared unsigned. -/
def execSltiu (rs rt : BitVec 5) (imm : BitVec 16) (s : State) : Out :=
  aluOp rt (fun s => boolValue ((s.rget rs).ult (sext64 imm))) s

/-! ## 32-bit shifts -/

/-- SLL (R477). -/
def execSll (rt rd sa : BitVec 5) (s : State) : Out := aluOp rd (fun s => sext64 (s.word rt <<< sa.toNat)) s

/-- SRL (R478). -/
def execSrl (rt rd sa : BitVec 5) (s : State) : Out := aluOp rd (fun s => sext64 (s.word rt >>> sa.toNat)) s

/-- SRA (R479). -/
def execSra (rt rd sa : BitVec 5) (s : State) : Out := aluOp rd (fun s => sext64 ((s.word rt).sshiftRight sa.toNat)) s

/-- The low five bits of a register: the amount of a variable word shift. -/
def State.shift5 (s : State) (r : RegNum) : Nat := ((s.rget r).setWidth 5).toNat

/-- The low six bits of a register: the amount of a variable doubleword shift. -/
def State.shift6 (s : State) (r : RegNum) : Nat := ((s.rget r).setWidth 6).toNat

/-- SLLV (R480). -/
def execSllv (rs rt rd : BitVec 5) (s : State) : Out := aluOp rd (fun s => sext64 (s.word rt <<< s.shift5 rs)) s

/-- SRLV (R481). -/
def execSrlv (rs rt rd : BitVec 5) (s : State) : Out := aluOp rd (fun s => sext64 (s.word rt >>> s.shift5 rs)) s

/-- SRAV (R482). -/
def execSrav (rs rt rd : BitVec 5) (s : State) : Out :=
  aluOp rd (fun s => sext64 ((s.word rt).sshiftRight (s.shift5 rs))) s

/-! ## 64-bit shifts -/

/-- DSLL (R483). -/
def execDsll (rt rd sa : BitVec 5) (s : State) : Out := aluOp64 rd (fun s => s.rget rt <<< sa.toNat) s

/-- DSRL (R484). -/
def execDsrl (rt rd sa : BitVec 5) (s : State) : Out := aluOp64 rd (fun s => s.rget rt >>> sa.toNat) s

/-- DSRA (R485). -/
def execDsra (rt rd sa : BitVec 5) (s : State) : Out := aluOp64 rd (fun s => (s.rget rt).sshiftRight sa.toNat) s

/-- DSLLV (R486). -/
def execDsllv (rs rt rd : BitVec 5) (s : State) : Out := aluOp64 rd (fun s => s.rget rt <<< s.shift6 rs) s

/-- DSRLV (R487). -/
def execDsrlv (rs rt rd : BitVec 5) (s : State) : Out := aluOp64 rd (fun s => s.rget rt >>> s.shift6 rs) s

/-- DSRAV (R488). -/
def execDsrav (rs rt rd : BitVec 5) (s : State) : Out :=
  aluOp64 rd (fun s => (s.rget rt).sshiftRight (s.shift6 rs)) s

/-- DSLL32 (R489). -/
def execDsll32 (rt rd sa : BitVec 5) (s : State) : Out := aluOp64 rd (fun s => s.rget rt <<< (sa.toNat + 32)) s

/-- DSRL32 (R490). -/
def execDsrl32 (rt rd sa : BitVec 5) (s : State) : Out := aluOp64 rd (fun s => s.rget rt >>> (sa.toNat + 32)) s

/-- DSRA32 (R491). -/
def execDsra32 (rt rd sa : BitVec 5) (s : State) : Out :=
  aluOp64 rd (fun s => (s.rget rt).sshiftRight (sa.toNat + 32)) s

/-! ## Conditional moves -/

/-- MOVN (R492). -/
def execMovn (rs rt rd : BitVec 5) (s : State) : Out :=
  ((needMips4 s).bind fun _ s => moveIf (s.rget rt != 0#64) rd (s.rget rs) s).finish

/-- MOVZ (R493). -/
def execMovz (rs rt rd : BitVec 5) (s : State) : Out :=
  ((needMips4 s).bind fun _ s => moveIf (s.rget rt == 0#64) rd (s.rget rs) s).finish

/-- MOVF (R494): MIPS IV, then CP1. -/
def execMovf (rs : BitVec 5) (cc : BitVec 3) (rd : BitVec 5) (s : State) : Out :=
  ((needCop1x s).bind fun _ s => moveIf (!s.fcc cc) rd (s.rget rs) s).finish

/-- MOVT (R495). -/
def execMovt (rs : BitVec 5) (cc : BitVec 3) (rd : BitVec 5) (s : State) : Out :=
  ((needCop1x s).bind fun _ s => moveIf (s.fcc cc) rd (s.rget rs) s).finish

end Sys2Proof.Machine
end

