-- ==== Sys2Proof/Machine/Branch.lean ====
section
/-! DEFINITION. Jumps and branches (spec/43_branch_jump.md R630 to R657) and the floating-point branches
(spec/47_fpu_instructions.md R826 to R829). -/

namespace Sys2Proof.Machine

/-! ## Shared operations -/

/-- A control transfer in a delay slot is refused (R632, U22; log 10). -/
def notInSlot (s : State) : Res Unit :=
  if s.delaySlot.isSome then .refuse .branchInDelaySlot else .ok () s

/-- Run the delay slot, then `target` (R630). -/
def toTarget (target : DWord) (s : State) : State := { s with pc := s.pc + 4#64, delaySlot := some target }

/-- An ordinary branch: not taken, it goes on to the next word and sets no `DelaySlot` (R630; log 11). -/
def branchTo (taken : Bool) (target : DWord) (s : State) : State :=
  if taken then toTarget target s else { s with pc := s.pc + 4#64, delaySlot := none }

/-- A likely branch: not taken, the delay slot is nullified (R633). -/
def likelyTo (taken : Bool) (target : DWord) (s : State) : State :=
  if taken then toTarget target s else { s with pc := s.pc + 8#64, delaySlot := none }

/-- A jump: `rs` and the target are read before the link register `rd` is written (R634). -/
def jumpOp (target : DWord) (link : Option RegNum) (s : State) : Out :=
  ((notInSlot s).bind fun _ s =>
    .ok () (toTarget target (match link with | some rd => s.rset rd s.linkValue | none => s))).finishAt

/-- A conditional branch on general registers. -/
def condOp (likely : Bool) (taken : Bool) (link : Option RegNum) (offset : BitVec 16) (s : State) : Out :=
  ((notInSlot s).bind fun _ s =>
    let t := s.branchTarget offset
    let s := match link with | some rd => s.rset rd s.linkValue | none => s
    .ok () (if likely then likelyTo taken t s else branchTo taken t s)).finishAt

/-- A register is at most zero. -/
def isLez (v : DWord) : Bool := v.sle 0#64
/-- A register is above zero. -/
def isGtz (v : DWord) : Bool := !v.sle 0#64
/-- A register is below zero. -/
def isLtz (v : DWord) : Bool := v.slt 0#64
/-- A register is zero or above. -/
def isGez (v : DWord) : Bool := !v.slt 0#64

/-- A floating-point branch: CP1, then MIPS IV for a condition bit other than 0 (R810, R826). -/
def fpBranchOp (likely want : Bool) (cc : BitVec 3) (offset : BitVec 16) (s : State) : Out :=
  ((needCp1 s).bind fun _ s =>
    (if cc ≠ 0#3 ∧ s.mips4 = false then .exc .reservedInstr s else notInSlot s).bind fun _ s =>
      let t := s.branchTarget offset
      .ok () (if likely then likelyTo (s.fcc cc == want) t s else branchTo (s.fcc cc == want) t s)).finishAt

/-! ## Jumps -/

/-- J (R636). -/
def execJ (target : BitVec 26) (s : State) : Out := jumpOp (s.jumpTarget target) none s

/-- JAL (R637). -/
def execJal (target : BitVec 26) (s : State) : Out := jumpOp (s.jumpTarget target) (some 31#5) s

/-- JR (R638). -/
def execJr (rs : BitVec 5) (s : State) : Out := jumpOp (s.rget rs) none s

/-- JALR (R639). -/
def execJalr (rs rd : BitVec 5) (s : State) : Out := jumpOp (s.rget rs) (some rd) s

/-! ## Conditional branches -/

/-- BEQ (R640). -/
def execBeq (rs rt : BitVec 5) (offset : BitVec 16) (s : State) : Out :=
  condOp false (s.rget rs == s.rget rt) none offset s

/-- BNE (R641). -/
def execBne (rs rt : BitVec 5) (offset : BitVec 16) (s : State) : Out :=
  condOp false (s.rget rs != s.rget rt) none offset s

/-- BLEZ (R642). -/
def execBlez (rs : BitVec 5) (offset : BitVec 16) (s : State) : Out := condOp false (isLez (s.rget rs)) none offset s

/-- BGTZ (R643). -/
def execBgtz (rs : BitVec 5) (offset : BitVec 16) (s : State) : Out := condOp false (isGtz (s.rget rs)) none offset s

/-- BLTZ (R644). -/
def execBltz (rs : BitVec 5) (offset : BitVec 16) (s : State) : Out := condOp false (isLtz (s.rget rs)) none offset s

/-- BGEZ (R645). -/
def execBgez (rs : BitVec 5) (offset : BitVec 16) (s : State) : Out := condOp false (isGez (s.rget rs)) none offset s

/-- BLTZAL (R646). -/
def execBltzal (rs : BitVec 5) (offset : BitVec 16) (s : State) : Out :=
  condOp false (isLtz (s.rget rs)) (some 31#5) offset s

/-- BGEZAL (R647). -/
def execBgezal (rs : BitVec 5) (offset : BitVec 16) (s : State) : Out :=
  condOp false (isGez (s.rget rs)) (some 31#5) offset s

/-! ## Likely branches -/

/-- BEQL (R650). -/
def execBeql (rs rt : BitVec 5) (offset : BitVec 16) (s : State) : Out :=
  condOp true (s.rget rs == s.rget rt) none offset s

/-- BNEL (R651). -/
def execBnel (rs rt : BitVec 5) (offset : BitVec 16) (s : State) : Out :=
  condOp true (s.rget rs != s.rget rt) none offset s

/-- BLEZL (R652). -/
def execBlezl (rs : BitVec 5) (offset : BitVec 16) (s : State) : Out := condOp true (isLez (s.rget rs)) none offset s

/-- BGTZL (R653). -/
def execBgtzl (rs : BitVec 5) (offset : BitVec 16) (s : State) : Out := condOp true (isGtz (s.rget rs)) none offset s

/-- BLTZL (R654). -/
def execBltzl (rs : BitVec 5) (offset : BitVec 16) (s : State) : Out := condOp true (isLtz (s.rget rs)) none offset s

/-- BGEZL (R655). -/
def execBgezl (rs : BitVec 5) (offset : BitVec 16) (s : State) : Out := condOp true (isGez (s.rget rs)) none offset s

/-- BLTZALL (R656). -/
def execBltzall (rs : BitVec 5) (offset : BitVec 16) (s : State) : Out :=
  condOp true (isLtz (s.rget rs)) (some 31#5) offset s

/-- BGEZALL (R657). -/
def execBgezall (rs : BitVec 5) (offset : BitVec 16) (s : State) : Out :=
  condOp true (isGez (s.rget rs)) (some 31#5) offset s

/-! ## Floating-point branches -/

/-- BC1F (R826). -/
def execBc1f (cc : BitVec 3) (offset : BitVec 16) (s : State) : Out := fpBranchOp false false cc offset s

/-- BC1T (R827). -/
def execBc1t (cc : BitVec 3) (offset : BitVec 16) (s : State) : Out := fpBranchOp false true cc offset s

/-- BC1FL (R828). -/
def execBc1fl (cc : BitVec 3) (offset : BitVec 16) (s : State) : Out := fpBranchOp true false cc offset s

/-- BC1TL (R829). -/
def execBc1tl (cc : BitVec 3) (offset : BitVec 16) (s : State) : Out := fpBranchOp true true cc offset s

end Sys2Proof.Machine
end

