-- ==== Sys2Proof/Machine/Cp0.lean ====
section
/-! DEFINITION. Coprocessor 0: the value and the effect of a move for every register (spec/11_cp0_registers.md,
spec/12_cp0_diag_perf_cache_regs.md, spec/45_cp0_instructions.md R717), the TLB instructions (R718 to R721), ERET
(R723) and RFE (R724). -/

namespace Sys2Proof.Machine

/-! ## Register values -/

/-- Random (R83, R84): 63 right after Cold Reset or a write of Wired, else any value from Wired to 63. -/
def State.random (s : State) : BitVec 6 :=
  if s.cp0.randomBoundStep = s.steps then 63#6
  else BitVec.ofNat 6 (s.cp0.wired.toNat + Config.randomPolicy s.steps % (64 - s.cp0.wired.toNat))

/-- Index (R81). -/
def State.indexReg (s : State) : Word := (BitVec.ofBool s.cp0.probeFail ++ 0#25 ++ s.cp0.index).cast (by decide)

/-- A performance counter with its top bit set and its interrupt enabled (R175). -/
def perfIrqOf (s : State) (n : Fin 4) : Bool := (s.cp0.perf.ctl.get n).getLsbD 4 && (s.cp0.perf.cnt.get n).getLsbD 31

/-- The performance counters request an interrupt (R175); the R10000 has two. -/
def State.perfIrq (s : State) : Bool :=
  perfIrqOf s 0 || perfIrqOf s 1 || (s.isR12k && (perfIrqOf s 2 || perfIrqOf s 3))

/-- Cause.IP[7:0] (R120). -/
def State.ip (s : State) : BitVec 8 :=
  (BitVec.ofBool (s.cp0.timerLatch || s.perfIrq) ++ s.cp0.interrupt ++ s.cp0.softIp).cast (by decide)

/-- Cause (R117). -/
def State.causeReg (s : State) : Word :=
  (BitVec.ofBool s.cp0.causeBD ++ 0#1 ++ s.cp0.causeCE ++ 0#12 ++ s.ip ++ 0#1 ++ s.cp0.excCode ++ 0#2).cast (by decide)

/-- PRId (R128). -/
def State.prid (s : State) : Word := (0#16 ++ s.hw.pridImp ++ s.hw.pridRev).cast (by decide)

/-- Config (R130): the mode bits, K0 as last written, DSD on the R12000, the primary cache sizes hardwired. -/
def State.configReg (s : State) : Word :=
  (0x1B#6 ++ 0#1 ++ BitVec.ofBool (s.isR12k && s.hw.modeBits.getLsbD 24) ++ 0#2 ++
    s.hw.modeBits.extractLsb' 3 19 ++ s.cp0.k0).cast (by decide)

/-- The BPIdx bits a variant has (R161, R163). -/
def bpIdxMask (r12k : Bool) : BitVec 11 := if r12k then 0x7FF#11 else 0x1FF#11

/-- A value placed at a bit position of the Diagnostic register. -/
def diagPut {n : Nat} (v : BitVec n) (pos : Nat) : DWord := (v.setWidth 64) <<< pos

/-- Diagnostic (R160 to R165): the writable fields as written; the status fields are free, and so is BPState when the
operation is a BPT read or the reader is in the delay slot of a conditional branch (R164, U6). -/
def State.diagReg (s : State) : DWord :=
  let l := s.hw.diagLayout
  let d := s.cp0.diag
  let f := s.free .diagStatus
  diagPut (f.extractLsb' 0 4) l.itlbm ||| diagPut (f.extractLsb' 4 2) l.bsIdx |||
    diagPut (BitVec.ofBool d.dbrc) l.dbrc ||| diagPut (f.extractLsb' 6 1) l.brcv ||| diagPut (f.extractLsb' 7 1) l.brcw |||
    diagPut (f.extractLsb' 8 1) l.brch ||| diagPut (f.extractLsb' 9 1) l.mp ||| diagPut d.bpMode l.bpMode |||
    diagPut (if d.bpOp = 0#2 ∨ d.inSlot = true then f.extractLsb' 10 2 else d.bpState) l.bpState ||| diagPut d.bpIdx l.bpIdx |||
    diagPut d.bpOp l.bpOp ||| diagPut (BitVec.ofBool d.btacDisable) 27 ||| diagPut d.ghistory 23

/-- The writable fields of a value moved to Diagnostic (R161, R162, U45). -/
def diagOf (h : Hw) (r12k : Bool) (v : DWord) : Diag :=
  let l := h.diagLayout
  { dbrc := v.getLsbD l.dbrc, bpMode := v.extractLsb' l.bpMode 2, bpState := v.extractLsb' l.bpState 2,
    bpIdx := v.extractLsb' l.bpIdx 11 &&& bpIdxMask r12k, bpOp := v.extractLsb' l.bpOp 2,
    btacDisable := r12k && v.getLsbD 27, ghistory := if r12k then v.extractLsb' 23 4 else 0#4, inSlot := false }

/-! ## Performance registers -/

/-- The index of the performance register the low instruction bits select (R171, R178). -/
def perfNumber (r12k : Bool) (sel : BitVec 4) : Fin 4 :=
  if r12k then (sel.extractLsb' 1 2).toFin else ((sel.extractLsb' 1 1).setWidth 2).toFin

/-- The selected register is a counter: bit 0 (R171, R178). -/
def perfIsCounter (sel : BitVec 4) : Bool := sel.getLsbD 0

/-- The bits a control register has (R172, R179). -/
def perfCtlMask (r12k : Bool) (n : Fin 4) : Word :=
  if !r12k then 0x1FF#32 else if n = 0 then 0x1FFFF#32 else if n = 3 then 0xFFFF#32 else 0x7FFF#32

/-- A control register as read: control 0 of the R12000A shows the syndrome (R185). -/
def State.perfCtl (s : State) (n : Fin 4) : Word :=
  if s.hw.variant = .r12000A ∧ n = 0 then s.cp0.perf.ctl.get n ||| (s.cp0.perf.syndrome.setWidth 32 <<< 23)
  else s.cp0.perf.ctl.get n

/-- Register 25 as read (R171, R178, R184): DMFC0 of counter 3 after the arming MTC0 shows the upper half. -/
def State.perfReg (s : State) (sel : BitVec 4) : DWord :=
  let n := perfNumber s.isR12k sel
  if !perfIsCounter sel then sext64 (s.perfCtl n)
  else if n = 3 ∧ s.cp0.perf.cnt3Miss = true then s.cp0.perf.cnt3High ++ s.cp0.perf.cnt.get n
  else sext64 (s.cp0.perf.cnt.get n)

/-- The miss-address value (R184): bits 31:1 are PA[35:5], bits 51:48 are PA[39:36]. -/
def missValue (pa : PAddr) : DWord :=
  (0#12 ++ pa.extractLsb' 36 4 ++ 0#16 ++ pa.extractLsb' 5 31 ++ 0#1).cast (by decide)

/-- The performance registers after a move to register 25 (R171, R178, R183, R184).  The upper half that counter 3 shows
after the arming move stays until the next move to counter 3 (log 62). -/
def writePerf (s : State) (sel : BitVec 4) (v : Word) : Perf :=
  let p := s.cp0.perf
  let n := perfNumber s.isR12k sel
  if s.isR12k = true ∧ sel.getLsbD 3 = true then
    { p with cnt := p.cnt.set 3 ((missValue p.missAddr).setWidth 32), cnt3Miss := true,
             cnt3High := (missValue p.missAddr).extractLsb' 32 32 }
  else if perfIsCounter sel then
    { p with cnt := p.cnt.set n v, reload := if n = 1 then v.setWidth 16 else p.reload,
             cnt3Miss := if n = 3 then false else p.cnt3Miss }
  else { p with ctl := p.ctl.set n (v &&& perfCtlMask s.isR12k n) }

/-! ## Moves -/

/-- The value of CP0 register `rd` (spec/10_state.md R44): 64 bits; a 32-bit register sign-extended. -/
def cp0Read (s : State) (rd : RegNum) (sel : BitVec 4) : DWord :=
  let c := s.cp0
  match rd.toNat with
  | 0 => sext64 s.indexReg
  | 1 => zext64 s.random
  | 2 => c.entryLo0
  | 3 => c.entryLo1
  | 4 => c.context
  | 5 => zext64 c.pageMask <<< 13
  | 6 => zext64 c.wired
  | 8 => c.badVAddr
  | 9 => sext64 c.count
  | 10 => c.entryHi
  | 11 => sext64 c.compare
  | 12 => sext64 c.status
  | 13 => sext64 s.causeReg
  | 14 => c.epc
  | 15 => sext64 s.prid
  | 16 => sext64 s.configReg
  | 17 => sext64 c.llAddr
  | 18 => sext64 c.watchLo
  | 19 => sext64 c.watchHi
  | 20 => c.xcontext
  | 21 => zext64 c.frameMask
  | 22 => s.diagReg
  | 25 => s.perfReg sel
  | 26 => zext64 c.ecc
  | 27 => sext64 c.cacheErr
  | 28 => sext64 c.tagLo
  | 29 => sext64 c.tagHi
  | 30 => c.errorEpc
  | _ => s.free .cp0Undefined

/-- The bits of Status that MTC0 writes (R103, R109, R717): not 23 and 17; 24 (DSD) on the R12000 only. -/
def statusMask (r12k : Bool) : Word := if r12k then 0xFF7DFFFF#32 else 0xFE7DFFFF#32

/-- EntryHi without its fill bits (R100). -/
def entryHiMask : DWord := 0xC0000FFFFFFFE0FF#64

/-- The state with CP0 registers replaced. -/
def State.setCp0 (s : State) (c : Cp0) : State := { s with cp0 := c }

/-- The effect of a move to CP0 register `rd` (R717).  Count written with the value of Compare sets the timer latch, Compare
written with the value of Count leaves it clear (log 25). -/
def cp0Write (s : State) (rd : RegNum) (sel : BitVec 4) (v : DWord) : State :=
  let c := s.cp0
  let w : Word := v.setWidth 32
  match rd.toNat with
  | 0 => s.setCp0 { c with index := v.setWidth 6 }
  | 2 => s.setCp0 { c with entryLo0 := v &&& entryLoMask }
  | 3 => s.setCp0 { c with entryLo1 := v &&& entryLoMask }
  | 4 => s.setCp0 { c with context := (v.extractLsb' 23 41 ++ c.context.extractLsb' 0 23).cast (by decide) }
  | 5 => s.setCp0 { c with pageMask := v.extractLsb' 13 12 }
  | 6 => s.setCp0 { c with wired := v.setWidth 6, randomBoundStep := s.steps + 1 }
  | 9 => s.setCp0 { c with count := w, timerLatch := c.timerLatch || w == c.compare }
  | 10 => s.setCp0 { c with entryHi := v &&& entryHiMask }
  | 11 => s.setCp0 { c with compare := w, timerLatch := false }
  | 12 => s.setCp0 { c with status := w &&& statusMask s.isR12k }
  | 13 => s.setCp0 { c with softIp := v.extractLsb' 8 2 }
  | 14 => s.setCp0 { c with epc := v }
  | 16 => s.setCp0 { c with k0 := v.setWidth 3 }
  | 17 => s.setCp0 { c with llAddr := w }
  | 18 => s.setCp0 { c with watchLo := w &&& ~~~4#32, watchPending := false }
  | 19 => s.setCp0 { c with watchHi := w &&& 0xFF#32 }
  | 20 => s.setCp0 { c with xcontext := (v.extractLsb' 37 27 ++ c.xcontext.extractLsb' 0 37).cast (by decide) }
  | 21 => s.setCp0 { c with frameMask := v.setWidth 16 }
  | 22 => s.setCp0 { c with diag := diagOf s.hw s.isR12k v }
  | 25 => s.setCp0 { c with perf := writePerf s sel w }
  | 26 => s.setCp0 { c with ecc := v.setWidth 10 }
  | 28 => s.setCp0 { c with tagLo := w }
  | 29 => s.setCp0 { c with tagHi := w }
  | 30 => s.setCp0 { c with errorEpc := v }
  | _ => s

/-- MFC0 (R713): the low 32 bits, sign-extended. -/
def execMfc0 (rt rd : BitVec 5) (sel : BitVec 4) (s : State) : Out :=
  Res.finishGpr rt ((needCp0 s).bind fun _ s => .ok (sext64 ((cp0Read s rd sel).setWidth 32)) s)

/-- DMFC0 (R714). -/
def execDmfc0 (rt rd : BitVec 5) (sel : BitVec 4) (s : State) : Out :=
  Res.finishGpr rt ((needCp0 s).bind fun _ s => (needMips3 s).bind fun _ s => .ok (cp0Read s rd sel) s)

/-- MTC0 (R715, R717): the whole register moves to a 64-bit CP0 register. -/
def execMtc0 (rt rd : BitVec 5) (sel : BitVec 4) (s : State) : Out :=
  ((needCp0 s).bind fun _ s => .ok () (cp0Write s rd sel (s.rget rt))).finish

/-- DMTC0 (R716). -/
def execDmtc0 (rt rd : BitVec 5) (sel : BitVec 4) (s : State) : Out :=
  ((needCp0 s).bind fun _ s => (needMips3 s).bind fun _ s => .ok () (cp0Write s rd sel (s.rget rt))).finish

/-! ## TLB instructions -/

/-- One page of a TLB entry as an EntryLo value (R85, R718). -/
def entryLoOf (p : TlbPage) (g : Bool) : DWord :=
  (p.uc ++ 0#28 ++ p.pfn ++ p.c ++ BitVec.ofBool p.d ++ BitVec.ofBool p.v ++ BitVec.ofBool g).cast (by decide)

/-- The PFN that a TLB write passes: bits 27:12 masked by FrameMask (R141). -/
def maskedPfn (pfn : BitVec 28) (frameMask : BitVec 16) : BitVec 28 :=
  ((pfn.extractLsb' 12 16 &&& ~~~frameMask) ++ pfn.extractLsb' 0 12).cast (by decide)

/-- One page of a TLB entry from an EntryLo register (R719). -/
def pageOf (lo : DWord) (frameMask : BitVec 16) : TlbPage :=
  { pfn := maskedPfn (lo.extractLsb' 6 28) frameMask, c := lo.extractLsb' 3 3, d := lo.getLsbD 2, v := lo.getLsbD 1,
    uc := lo.extractLsb' 62 2 }

/-- The entry that the CP0 registers describe (R719). -/
def newEntry (c : Cp0) : TlbEntry :=
  { mask := c.pageMask, r := c.entryHi.extractLsb' 62 2, vpn2 := c.entryHi.extractLsb' 13 31,
    asid := c.entryHi.setWidth 8, g := c.entryLo0.getLsbD 0 && c.entryLo1.getLsbD 0,
    even := pageOf c.entryLo0 c.frameMask, odd := pageOf c.entryLo1 c.frameMask, matchable := true }

/-- Two entries would allow a multiple match (R316). -/
def TlbEntry.conflict (e n : TlbEntry) : Bool :=
  e.matchable && e.r == n.r &&
    (e.vpn2 &&& ~~~((e.mask ||| n.mask).setWidth 31)) == (n.vpn2 &&& ~~~((e.mask ||| n.mask).setWidth 31)) &&
    (e.g || n.g || e.asid == n.asid)

/-- An entry, invalidated if it conflicts with the one written at another index (R316). -/
def TlbEntry.yield (e n : TlbEntry) (same : Bool) : TlbEntry :=
  if !same && e.conflict n then { e with matchable := false } else e

/-- Some entry other than `i` conflicts with `n`. -/
def tlbConflict (tlb : Vector TlbEntry 64) (n : TlbEntry) (i : Nat) : Bool :=
  (List.range 64).any fun j => j != i && ((tlb.toList.getD j TlbEntry.empty).conflict n)

/-- A TLB write at index `i` (R316, R719): conflicting entries are invalidated, TS says whether there was one. -/
def tlbWrite (i : BitVec 6) (s : State) : Res Unit :=
  let n := newEntry s.cp0
  if (pageShift n.mask).isNone then .refuse .illegalPageMask
  else
    let ts : Word := if tlbConflict s.tlb n i.toNat then 0x00200000#32 else 0#32
    let tlb := s.tlb.mapIdx fun j e => e.yield n (j == i.toNat)
    .ok () { s with tlb := tlb.set i.toNat n i.isLt,
                    cp0 := { s.cp0 with status := (s.cp0.status &&& ~~~0x00200000#32) ||| ts } }

/-- TLBR (R718). -/
def tlbRead (s : State) : State :=
  let e := s.tlb.get s.cp0.index.toFin
  s.setCp0 { s.cp0 with pageMask := e.mask, entryHi := entryHiOf e.r e.vpn2 e.asid,
                        entryLo0 := entryLoOf e.even e.g, entryLo1 := entryLoOf e.odd e.g }

/-- TLBP (R721): Index[5:0] is unspecified when nothing matches (log 7). -/
def tlbProbe (s : State) : Res Unit :=
  match tlbHits (s.cp0.entryHi.extractLsb' 62 2) (s.cp0.entryHi.extractLsb' 13 31) s.asid s.tlb.toList 0 with
  | [] => .ok () (s.setCp0 { s.cp0 with probeFail := true, index := (s.free .probeIndex).setWidth 6 })
  | [i] => .ok () (s.setCp0 { s.cp0 with probeFail := false, index := BitVec.ofNat 6 i })
  | _ => .refuse .tlbMultipleMatch

/-- TLBR (R718). -/
def execTlbr (s : State) : Out := ((needCp0 s).bind fun _ s => .ok () (tlbRead s)).finish

/-- TLBWI (R719). -/
def execTlbwi (s : State) : Out := ((needCp0 s).bind fun _ s => tlbWrite s.cp0.index s).finish

/-- TLBWR (R720). -/
def execTlbwr (s : State) : Out := ((needCp0 s).bind fun _ s => tlbWrite s.random s).finish

/-- TLBP (R721). -/
def execTlbp (s : State) : Out := ((needCp0 s).bind fun _ s => tlbProbe s).finish

/-! ## Return from exception -/

/-- ERET (R723): no delay slot; in one it is refused (R632). -/
def execEret (s : State) : Out :=
  ((needCp0 s).bind fun _ s =>
    if s.delaySlot.isSome then .refuse .branchInDelaySlot else .ok () (returnFromException s)).finishAt

/-- RFE (R724): Reserved Instruction. -/
def execRfe (s : State) : Out := ((needCp0 s).bind fun _ s => (Res.exc .reservedInstr s : Res Unit)).finish

end Sys2Proof.Machine
end

