-- ==== Sys2Proof/Machine/CacheOp.lean ====
section
/-! DEFINITION. The CACHE instruction (spec/22_caches.md R365 to R378) over the arrays of Machine/Cache.lean, with the
TagLo, TagHi and ECC formats of spec/12_cp0_diag_perf_cache_regs.md R200 to R217 (log 9). -/

namespace Sys2Proof.Machine

/-! ## Register formats -/

/-- The state with TagLo and TagHi written. -/
def State.setTags (s : State) (lo hi : Word) : State := s.setCp0 { s.cp0 with tagLo := lo, tagHi := hi }

/-- The state with ECC written (R202: unused bits are filled with zeroes). -/
def State.setEcc (s : State) (e : BitVec 10) : State := s.setCp0 { s.cp0 with ecc := e }

/-- A bit placed in a word. -/
def bitAt (b : Bool) (i : Nat) : Word := (BitVec.ofBool b).setWidth 32 <<< i

/-- TagLo of an instruction cache tag (R211, R217). -/
def itagLo (l : TagLayout) (t : ITag) (lru : Bool) : Word :=
  field (t.tag.extractLsb' 0 24) l.iPTag0 ||| bitAt t.valid l.iPState ||| bitAt lru l.iLRU ||| bitAt t.sp l.iSP |||
    bitAt t.tp l.iTP

/-- TagHi of an instruction cache tag. -/
def itagHi (l : TagLayout) (t : ITag) : Word := field (t.tag.extractLsb' 24 4) l.iPTag1

/-- The instruction cache tag in TagLo and TagHi. -/
def itagOf (l : TagLayout) (lo hi : Word) : ITag :=
  { tag := hi.extractLsb' l.iPTag1 4 ++ lo.extractLsb' l.iPTag0 24, valid := lo.getLsbD l.iPState,
    sp := lo.getLsbD l.iSP, tp := lo.getLsbD l.iTP }

/-- TagLo of a data cache tag (R212, R217). -/
def dtagLo (l : TagLayout) (t : DTag) (lru : Bool) : Word :=
  field (t.tag.extractLsb' 0 24) l.dPTag0 ||| field t.st l.dPState ||| bitAt lru l.dLRU ||| bitAt t.sp l.dSP |||
    bitAt t.way l.dWay ||| bitAt t.tp l.dTP

/-- TagHi of a data cache tag. -/
def dtagHi (l : TagLayout) (t : DTag) : Word := field t.mod l.dMod ||| field (t.tag.extractLsb' 24 4) l.dPTag1

/-- The data cache tag in TagLo and TagHi. -/
def dtagOf (l : TagLayout) (lo hi : Word) : DTag :=
  { tag := hi.extractLsb' l.dPTag1 4 ++ lo.extractLsb' l.dPTag0 24, st := lo.extractLsb' l.dPState 2,
    mod := hi.extractLsb' l.dMod 3, way := lo.getLsbD l.dWay, sp := lo.getLsbD l.dSP, tp := lo.getLsbD l.dTP }

/-- TagLo of a secondary cache tag (R213, R217). -/
def stagLo (l : TagLayout) (t : STag) : Word :=
  field (t.tag.extractLsb' 0 18) l.sSTag0 ||| field t.st l.sSState ||| field t.vindex l.sVIndex ||| field t.ecc l.sECC

/-- TagHi of a secondary cache tag. -/
def stagHi (l : TagLayout) (t : STag) (mru : Bool) : Word := bitAt mru l.sMRU ||| field (t.tag.extractLsb' 18 4) l.sSTag1

/-- The secondary cache tag in TagLo and TagHi. -/
def stagOfRegs (l : TagLayout) (lo hi : Word) : STag :=
  { tag := hi.extractLsb' l.sSTag1 4 ++ lo.extractLsb' l.sSTag0 18, vindex := lo.extractLsb' l.sVIndex 2,
    st := lo.extractLsb' l.sSState 2, ecc := lo.extractLsb' l.sECC 7 }

/-! ## Index Load and Index Store (R371, R372, R375, R376) -/

/-- The way an Index operation names: address bit 0 (R367). -/
def indexWay (va : DWord) : Bool := va.getLsbD 0

/-- The instruction word an Index operation names: VA[5:2] (R367). -/
def indexIWord (va : DWord) : Nat := (va.extractLsb' 2 4).toNat

/-- The data word an Index operation names: VA[4:2] (R367). -/
def indexDWord (va : DWord) : Nat := (va.extractLsb' 2 3).toNat

/-- Index Load Tag (I). -/
def loadTagI (va : DWord) (s : State) : State :=
  let t := s.itag (iSet va) (indexWay va)
  s.setTags (itagLo s.hw.tagLayout t (s.ilru (iSet va))) (itagHi s.hw.tagLayout t)

/-- Index Load Tag (D). -/
def loadTagD (va : DWord) (s : State) : State :=
  let t := s.dtag (dSet va) (indexWay va)
  s.setTags (dtagLo s.hw.tagLayout t (s.dlru (dSet va))) (dtagHi s.hw.tagLayout t)

/-- Index Load Tag (S). -/
def loadTagS (va : DWord) (pa : PAddr) (s : State) : State :=
  let t := s.stag (sSet s.hw pa) (indexWay va)
  s.setTags (stagLo s.hw.tagLayout t) (stagHi s.hw.tagLayout t (s.mru (mruIndex s pa)))

/-- Index Store Tag (I): the state, LRU and parity bits as given. -/
def storeTagI (va : DWord) (s : State) : State :=
  (s.setItag (iSet va) (indexWay va) (itagOf s.hw.tagLayout s.cp0.tagLo s.cp0.tagHi)).setIlru (iSet va)
    (s.cp0.tagLo.getLsbD s.hw.tagLayout.iLRU)

/-- Index Store Tag (D). -/
def storeTagD (va : DWord) (s : State) : State :=
  (s.setDtag (dSet va) (indexWay va) (dtagOf s.hw.tagLayout s.cp0.tagLo s.cp0.tagHi)).setDlru (dSet va)
    (s.cp0.tagLo.getLsbD s.hw.tagLayout.dLRU)

/-- Index Store Tag (S). -/
def storeTagS (va : DWord) (pa : PAddr) (s : State) : State :=
  (s.setStag (sSet s.hw pa) (indexWay va) (stagOfRegs s.hw.tagLayout s.cp0.tagLo s.cp0.tagHi)).setMru
    (mruIndex s pa) (s.cp0.tagHi.getLsbD s.hw.tagLayout.sMRU)

/-- The 36 bits of an instruction cache word (R214). -/
def IWord.bits (x : IWord) : BitVec 36 := (Config.predecode x.word ^^^ x.pre) ++ x.word

/-- Index Load Data (I): the predecode bits to TagHi, the word to TagLo, the parity bit to ECC (R201, R214). -/
def loadDataI (va : DWord) (s : State) : State :=
  let x := s.iword (iSet va) (indexWay va) (indexIWord va)
  (s.setTags x.word ((x.bits.extractLsb' 32 4).setWidth 32)).setEcc
    ((BitVec.ofBool (evenParity x.bits ^^ x.parBad)).setWidth 10)

/-- Index Load Data (D): the word to TagLo, the byte parity to ECC; TagHi is not used (R201, R215). -/
def loadDataD (va : DWord) (s : State) : State :=
  let x := s.dword (dSet va) (indexWay va) (indexDWord va)
  (s.setTags x.word s.cp0.tagHi).setEcc (x.par.setWidth 10)

/-- Index Load Data (S): the doubleword VA[3] of the quadword, and its check bits (R201, R216, R375). -/
def loadDataS (va : DWord) (pa : PAddr) (s : State) : State :=
  let q := s.squad (sSet s.hw pa) (indexWay va) (quadOf s.hw pa)
  let d : DWord := if va.getLsbD 3 then q.data.extractLsb' 0 64 else q.data.extractLsb' 64 64
  (s.setTags (d.extractLsb' 0 32) (d.extractLsb' 32 32)).setEcc (BitVec.ofBool q.sp ++ q.ecc)

/-- Index Store Data (I). -/
def storeDataI (va : DWord) (s : State) : State :=
  let w := s.cp0.tagLo
  let x : IWord := { pre := Config.predecode w ^^^ s.cp0.tagHi.extractLsb' 0 4, word := w, parBad := false }
  s.setIword (iSet va) (indexWay va) (indexIWord va) { x with parBad := evenParity x.bits != s.cp0.ecc.getLsbD 0 }

/-- Index Store Data (D). -/
def storeDataD (va : DWord) (s : State) : State :=
  s.setDword (dSet va) (indexWay va) (indexDWord va) { word := s.cp0.tagLo, par := s.cp0.ecc.setWidth 4 }

/-- Index Store Data (S): the doubleword VA[3] from TagHi and TagLo, the other doubleword zero, the check bits from ECC
(R376). -/
def storeDataS (va : DWord) (pa : PAddr) (s : State) : State :=
  let d : DWord := s.cp0.tagHi ++ s.cp0.tagLo
  let data : BitVec 128 := if va.getLsbD 3 then 0#64 ++ d else d ++ 0#64
  s.setSquad (sSet s.hw pa) (indexWay va) (quadOf s.hw pa)
    { data := data, ecc := s.cp0.ecc.setWidth 9, sp := s.cp0.ecc.getLsbD 9 }

/-! ## Invalidation and write-back -/

/-- Index Invalidate (I): it checks the tags (R368, R378). -/
def indexInvalidateI (va : DWord) (s : State) : Res Unit :=
  let (bad, s) := checkITags va s
  (errGate bad s).bind fun _ s => .ok () (invalidateI (iSet va) (indexWay va) s)

/-- Index WriteBack Invalidate (D): the R12000 also clears the tag (R369).  That the secondary way bit of the tag stays is the
model's choice (log 60). -/
def indexWriteBackD (va : DWord) (s : State) : Res Unit :=
  let (bad, s) := checkDTags va s
  (errGate bad s).bind fun _ s =>
    let w := indexWay va
    let s := invalidateD (dSet va) w (writeBackD (dSet va) w s)
    .ok () (if s.isR12k then s.setDtag (dSet va) w (DTag.of 0#28 0#2 0#3 (s.dtag (dSet va) w).way) else s)

/-- A secondary block leaves by a CACHE operation, once the outgoing buffer has room for it (R913). -/
def castOut (wb : Bool) (set : Nat) (w : Bool) (s : State) : Res Unit :=
  if outgoingFull s then .retry s else .ok () (evictSecondary wb set w s)

/-- Index WriteBack Invalidate (S) (R370). -/
def indexWriteBackS (va : DWord) (pa : PAddr) (s : State) : Res Unit :=
  let set := sSet s.hw pa
  let ((_, bad), s) := readSTag pa set (indexWay va) s
  (errGate bad s).bind fun _ s => castOut true set (indexWay va) s

/-- Hit Invalidate (I) (R373). -/
def hitInvalidateI (x : Xlate) (s : State) : Res Unit :=
  let (bad, s) := checkITags x.va s
  (errGate bad s).bind fun _ s =>
    match iHit s x.va x.pa with
    | some w => .ok () (invalidateI (iSet x.va) w s)
    | none => .ok () s

/-- Hit Invalidate and Hit WriteBack Invalidate (D) (R373, R374). -/
def hitOpD (wb : Bool) (x : Xlate) (s : State) : Res Unit :=
  let (bad, s) := checkDTags x.va s
  (errGate bad s).bind fun _ s =>
    match dHit s x.va x.pa with
    | some w => .ok () (invalidateD (dSet x.va) w (if wb then writeBackD (dSet x.va) w s else s))
    | none => .ok () s

/-- Status.CH, bit 18 (R109). -/
def State.setCh (s : State) (b : Bool) : State :=
  s.setStatus ((s.cp0.status &&& ~~~0x00040000#32) ||| bitAt b 18)

/-- Hit Invalidate and Hit WriteBack Invalidate (S): Status.CH tells hit or miss (R373, R374). -/
def hitOpS (wb : Bool) (x : Xlate) (s : State) : Res Unit :=
  let ((hit, bad), s) := lookupSecondary x.pa s
  (errGate bad s).bind fun _ s =>
    match hit with
    | some w => (castOut wb (sSet s.hw x.pa) w s).bind fun _ s => .ok () (s.setCh true)
    | none => .ok () (s.setCh false)

/-- The operation of the `op` field at a virtual address (R365): the primary Index operations do not translate, the
others do (R366 f); Cache Barrier uses no address (R377); an undefined operation is refused (U14). -/
def cacheOp (op : BitVec 5) (va : DWord) (s : State) : Res Unit :=
  match op with
  | 0#5 => indexInvalidateI va s
  | 1#5 => indexWriteBackD va s
  | 3#5 => (translate s va .load).bind fun x s => indexWriteBackS va x.pa s
  | 4#5 => .ok () (loadTagI va s)
  | 5#5 => .ok () (loadTagD va s)
  | 7#5 => (translate s va .load).bind fun x s => .ok () (loadTagS va x.pa s)
  | 8#5 => .ok () (storeTagI va s)
  | 9#5 => .ok () (storeTagD va s)
  | 11#5 => (translate s va .load).bind fun x s => .ok () (storeTagS va x.pa s)
  | 16#5 => (translate s va .load).bind fun x s => hitInvalidateI x s
  | 17#5 => (translate s va .load).bind fun x s => hitOpD false x s
  | 19#5 => (translate s va .load).bind fun x s => hitOpS false x s
  | 20#5 => .ok () s
  | 21#5 => (translate s va .load).bind fun x s => hitOpD true x s
  | 23#5 => (translate s va .load).bind fun x s => hitOpS true x s
  | 24#5 => .ok () (loadDataI va s)
  | 25#5 => .ok () (loadDataD va s)
  | 27#5 => (translate s va .load).bind fun x s => .ok () (loadDataS va x.pa s)
  | 28#5 => .ok () (storeDataI va s)
  | 29#5 => .ok () (storeDataD va s)
  | 31#5 => (translate s va .load).bind fun x s => .ok () (storeDataS va x.pa s)
  | _ => .refuse .undefinedCacheOp

/-- CACHE (R365, R366): coprocessor 0 must be usable; the link is broken. -/
def execCache (base op : BitVec 5) (offset : BitVec 16) (s : State) : Out :=
  ((needCp0 s).bind fun _ s =>
    (cacheOp op (s.ea base offset) s).bind fun _ s => .ok () (breakLl s)).finish

end Sys2Proof.Machine
end

