-- ==== Sys2Proof/Machine/Float.lean ====
section
/-! DEFINITION. Floating-point values and exact arithmetic (spec/46_fpu.md R765, R768, R776 to R783): operands are
unpacked to exact numbers, the operation is computed exactly, and the result is rounded once. -/

namespace Sys2Proof.Machine

/-! ## Formats and values -/

/-- A binary floating-point format: exponent and fraction widths (R765). -/
structure FloatFmt where
  eb : Nat
  fb : Nat
deriving DecidableEq, Repr

/-- Single precision. -/
def fmtS : FloatFmt := { eb := 8, fb := 23 }
/-- Double precision. -/
def fmtD : FloatFmt := { eb := 11, fb := 52 }

/-- The exponent of the least significant bit of the smallest numbers of a format. -/
def FloatFmt.emin (f : FloatFmt) : Int := 2 - (2 ^ (f.eb - 1) : Nat) - f.fb

/-- A floating-point datum: a number is `mant * 2 ^ exp` with a sign. -/
inductive FVal where
  | nan (signaling : Bool)
  | inf (neg : Bool)
  | num (neg : Bool) (mant : Nat) (exp : Int)
deriving DecidableEq, Repr

/-- The sign bit of a pattern. -/
def signOf (f : FloatFmt) (x : Nat) : Bool := x.testBit (f.eb + f.fb)

/-- A pattern with a sign bit. -/
def withSign (f : FloatFmt) (neg : Bool) (x : Nat) : Nat := (if neg then 2 ^ (f.eb + f.fb) else 0) + x

/-- The value of a pattern (R765): a NaN with its top fraction bit set is signaling. -/
def unpack (f : FloatFmt) (x : Nat) : FVal :=
  let e := x / 2 ^ f.fb % 2 ^ f.eb
  let m := x % 2 ^ f.fb
  if e = 2 ^ f.eb - 1 then (if m = 0 then .inf (signOf f x) else .nan (m.testBit (f.fb - 1)))
  else if e = 0 then .num (signOf f x) m f.emin
  else .num (signOf f x) (2 ^ f.fb + m) (f.emin + (e - 1 : Nat))

/-- The pattern is a denormalized number (R765). -/
def isDenorm (f : FloatFmt) (x : Nat) : Bool := x / 2 ^ f.fb % 2 ^ f.eb == 0 && x % 2 ^ f.fb != 0

/-- The pattern is a quiet NaN. -/
def isQuiet (f : FloatFmt) (x : Nat) : Bool := unpack f x == .nan false

/-- The pattern is a signaling NaN. -/
def isSignaling (f : FloatFmt) (x : Nat) : Bool := unpack f x == .nan true

/-- The standard quiet NaN (R765): `0x7FBFFFFF` or `0x7FF7FFFFFFFFFFFF`. -/
def stdNan (f : FloatFmt) : Nat := (2 ^ f.eb - 1) * 2 ^ f.fb + (2 ^ (f.fb - 1) - 1)

/-- An infinity. -/
def infBits (f : FloatFmt) (neg : Bool) : Nat := withSign f neg ((2 ^ f.eb - 1) * 2 ^ f.fb)

/-- A result with the Cause bits E, V, Z, O, U, I (from bit 5 down) that the operation raises (R772). -/
structure FRes where
  bits  : Nat
  cause : BitVec 6
deriving DecidableEq, Repr

def causeE : BitVec 6 := 0x20#6
def causeV : BitVec 6 := 0x10#6
def causeZ : BitVec 6 := 0x08#6
def causeO : BitVec 6 := 0x04#6
def causeU : BitVec 6 := 0x02#6
def causeI : BitVec 6 := 0x01#6

/-- An unimplemented operation (R782). -/
def unimplemented : FRes := { bits := 0, cause := causeE }

/-- An invalid operation with its default result (R776). -/
def invalid (f : FloatFmt) : FRes := { bits := stdNan f, cause := causeV }

/-- A result without causes. -/
def exactRes (x : Nat) : FRes := { bits := x, cause := 0#6 }

/-! ## Rounding (R768, R777) -/

/-- Whether a magnitude rounds up: the mode, the sign, whether the kept part is odd, how the dropped part compares with
half a unit, and whether anything is dropped. -/
def roundsUp (rm : BitVec 2) (neg odd : Bool) (cmp : Ordering) (inexact : Bool) : Bool :=
  match rm with
  | 0#2 => cmp == .gt || (cmp == .eq && odd)
  | 1#2 => false
  | 2#2 => inexact && !neg
  | _ => inexact && neg

/-- Round `mant` (plus a positive amount below one when `sticky`) to a multiple of `2 ^ k`: the quotient and whether
it is inexact. -/
def roundShift (rm : BitVec 2) (neg : Bool) (mant : Nat) (k : Int) (sticky : Bool) : Nat × Bool :=
  match k with
  | .ofNat k =>
    let q := mant / 2 ^ k
    let r := mant % 2 ^ k
    let inexact := r != 0 || sticky
    let cmp : Ordering :=
      if 2 * r > 2 ^ k then .gt
      else if 2 * r = 2 ^ k then (if sticky then .gt else .eq)
      else .lt
    (if roundsUp rm neg (q % 2 == 1) cmp inexact then q + 1 else q, inexact)
  | .negSucc k => (mant * 2 ^ (k + 1), sticky)

/-- What overflow delivers (R776): infinity, or the largest finite number where the mode rounds toward it. -/
def overflowBits (f : FloatFmt) (rm : BitVec 2) (neg : Bool) : Nat :=
  let toInf := match rm with
    | 0#2 => true
    | 1#2 => false
    | 2#2 => !neg
    | _ => neg
  if toInf then infBits f neg else infBits f neg - 1

/-- Round an exact non-zero magnitude, `mant * 2 ^ exp` (and a little more when `sticky`), to a format.  A result that
is denormalized or underflows to zero is unimplemented, or with FS = 1 a zero without a cause (R777); U is raised for a
result that is tiny, judged after rounding with an unbounded exponent, and inexact (log 36). -/
def roundTo (f : FloatFmt) (rm : BitVec 2) (fs : Bool) (neg : Bool) (mant : Nat) (exp : Int) (sticky : Bool) : FRes :=
  let p : Int := f.fb + 1
  let top : Int := exp + (mant.log2 + 1 : Nat) - p
  let e := max top f.emin
  let (q0, inexact) := roundShift rm neg mant (e - exp) sticky
  let carry := q0 == 2 ^ (f.fb + 1)
  let q := if carry then 2 ^ f.fb else q0
  let e := if carry then e + 1 else e
  if q < 2 ^ f.fb then (if fs then exactRes (withSign f neg 0) else unimplemented)
  else
    let biased := (e - f.emin).toNat + 1
    if 2 ^ f.eb - 1 ≤ biased then { bits := overflowBits f rm neg, cause := causeO ||| causeI }
    else
      let tiny := top < f.emin && (roundShift rm neg mant (top - exp) sticky).1 != 2 ^ (f.fb + 1)
      { bits := withSign f neg (biased * 2 ^ f.fb + (q - 2 ^ f.fb))
        cause := (if inexact then causeI else 0#6) ||| (if inexact && tiny then causeU else 0#6) }

/-- Round an exact magnitude that may be zero. -/
def roundExact (f : FloatFmt) (rm : BitVec 2) (fs : Bool) (neg : Bool) (mant : Nat) (exp : Int) : FRes :=
  if mant = 0 then exactRes (withSign f neg 0) else roundTo f rm fs neg mant exp false

/-! ## Integer square root -/

/-- The largest `r` below `2 ^ n` added to `acc` with `r * r ≤ x`, bit by bit. -/
def isqrtBits (x : Nat) : Nat → Nat → Nat
  | 0, acc => acc
  | n + 1, acc => isqrtBits x n (if (acc + 2 ^ n) * (acc + 2 ^ n) ≤ x then acc + 2 ^ n else acc)

/-- The integer square root of a number below `2 ^ 256`. -/
def isqrt (x : Nat) : Nat := isqrtBits x 128 0

/-! ## Arithmetic on values that are no NaN (R776) -/

/-- The signed integer a number stands for at the exponent `e` (at most its own). -/
def scaled (neg : Bool) (mant : Nat) (exp e : Int) : Int :=
  let v : Int := (mant * 2 ^ (exp - e).toNat : Nat)
  if neg then -v else v

/-- The sum of two values. -/
def addVal (f : FloatFmt) (rm : BitVec 2) (fs : Bool) : FVal → FVal → FRes
  | .inf n, .inf m => if n = m then exactRes (infBits f n) else invalid f
  | .inf n, .num _ _ _ => exactRes (infBits f n)
  | .num _ _ _, .inf n => exactRes (infBits f n)
  | .num n a x, .num m b y =>
    let e := min x y
    let v := scaled n a x e + scaled m b y e
    if v = 0 then
      exactRes (withSign f (if a = 0 ∧ b = 0 ∧ n = m then n else rm = 3#2) 0)
    else roundTo f rm fs (decide (v < 0)) v.natAbs e false
  | _, _ => invalid f

/-- The value with its sign inverted. -/
def negVal : FVal → FVal
  | .inf n => .inf (!n)
  | .num n m e => .num (!n) m e
  | .nan q => .nan q

/-- The product of two values. -/
def mulVal (f : FloatFmt) (rm : BitVec 2) (fs : Bool) : FVal → FVal → FRes
  | .inf n, .inf m => exactRes (infBits f (n ^^ m))
  | .inf n, .num m b _ => if b = 0 then invalid f else exactRes (infBits f (n ^^ m))
  | .num n a _, .inf m => if a = 0 then invalid f else exactRes (infBits f (n ^^ m))
  | .num n a x, .num m b y => roundExact f rm fs (n ^^ m) (a * b) (x + y)
  | _, _ => invalid f

/-- The quotient of two values (R833). -/
def divVal (f : FloatFmt) (rm : BitVec 2) (fs : Bool) : FVal → FVal → FRes
  | .inf _, .inf _ => invalid f
  | .inf n, .num m _ _ => exactRes (infBits f (n ^^ m))
  | .num n _ _, .inf m => exactRes (withSign f (n ^^ m) 0)
  | .num n a x, .num m b y =>
    if b = 0 then (if a = 0 then invalid f else { bits := infBits f (n ^^ m), cause := causeZ })
    else if a = 0 then exactRes (withSign f (n ^^ m) 0)
    else
      let k := 2 * f.fb + 10
      roundTo f rm fs (n ^^ m) (a * 2 ^ k / b) (x - y - k) (a * 2 ^ k % b != 0)
  | _, _ => invalid f

/-- A mantissa and exponent with the exponent made even. -/
def evenExp (m : Nat) (e : Int) : Nat × Int := if e % 2 = 0 then (m, e) else (2 * m, e - 1)

/-- The square root of a value (R834). -/
def sqrtVal (f : FloatFmt) (rm : BitVec 2) (fs : Bool) : FVal → FRes
  | .inf n => if n then invalid f else exactRes (infBits f false)
  | .num n m e =>
    if m = 0 then exactRes (withSign f n 0)
    else if n then invalid f
    else
      let (m, e) := evenExp m e
      let k := f.fb + 5
      let x := m * 2 ^ (2 * k)
      let r := isqrt x
      roundTo f rm fs false r (e / 2 - k) (r * r != x)
  | .nan _ => invalid f

/-- The reciprocal square root of a value (R855), correctly rounded (R783). -/
def rsqrtVal (f : FloatFmt) (rm : BitVec 2) (fs : Bool) : FVal → FRes
  | .inf n => if n then invalid f else exactRes (withSign f false 0)
  | .num n m e =>
    if m = 0 then { bits := infBits f n, cause := causeZ }
    else if n then invalid f
    else
      let (m, e) := evenExp m e
      let k := 2 * f.fb
      let x := 2 ^ (2 * k) / m
      let r := isqrt x
      roundTo f rm fs false r (-(e / 2) - k) (r * r * m != 2 ^ (2 * k))
  | .nan _ => invalid f

/-- One. -/
def oneVal : FVal := .num false 1 0

/-! ## Comparison (R781) -/

/-- The order of two values that are no NaN. -/
def cmpVal : FVal → FVal → Ordering
  | .inf n, .inf m => if n = m then .eq else if n then .lt else .gt
  | .inf n, _ => if n then .lt else .gt
  | _, .inf m => if m then .gt else .lt
  | .num n a x, .num m b y => compare (scaled n a x (min x y)) (scaled m b y (min x y))
  | _, _ => .eq

/-- A value is a NaN. -/
def FVal.isNan : FVal → Bool
  | .nan _ => true
  | _ => false

/-- The predicate of the four condition bits (R781, R860). -/
def predicate (cond : BitVec 4) (a b : FVal) : Bool :=
  if a.isNan || b.isNan then cond.getLsbD 0
  else
    match cmpVal a b with
    | .lt => cond.getLsbD 2
    | .eq => cond.getLsbD 1
    | .gt => false

/-! ## Conversions -/

/-- A signed integer rounded to a format. -/
def ofIntRounded (f : FloatFmt) (rm : BitVec 2) (v : Int) : FRes := roundExact f rm true (decide (v < 0)) v.natAbs 0

/-- A magnitude rounded to an integer in a mode: the signed integer and whether it is inexact. -/
def toIntRounded (rm : BitVec 2) (neg : Bool) (mant : Nat) (exp : Int) : Int × Bool :=
  let (q, inexact) := roundShift rm neg mant (-exp) false
  ((if neg then -(q : Int) else q), inexact)

/-- An integer is in the range of a two's-complement format, and below the limit a parameter sets (R780, U30).  That the limit
is an exponent `k`, the magnitude below 2 to the `k`, the same for operands and results, is the model's choice (log 79). -/
def inRange (bits : Nat) (limit : Option Nat) (v : Int) : Bool :=
  decide (-(2 ^ (bits - 1) : Nat) ≤ v ∧ v < (2 ^ (bits - 1) : Nat)) &&
    match limit with
    | none => true
    | some k => decide (v.natAbs < 2 ^ k)

/-- Conversion of a value to an integer of `bits` bits (R780): a NaN, an infinity or a value out of range is
unimplemented. -/
def toFixed (bits : Nat) (limit : Option Nat) (rm : BitVec 2) : FVal → FRes
  | .num n m e =>
    let (v, inexact) := toIntRounded rm n m e
    if inRange bits limit v then
      { bits := (BitVec.ofInt bits v).toNat, cause := if inexact then causeI else 0#6 }
    else unimplemented
  | _ => unimplemented

/-- Conversion of a value to another format (R846, R847). -/
def toFormat (f : FloatFmt) (rm : BitVec 2) (fs : Bool) : FVal → FRes
  | .inf n => exactRes (infBits f n)
  | .num n m e => roundExact f rm fs n m e
  | .nan _ => invalid f

end Sys2Proof.Machine
end

