-- ==== Sys2Proof/Machine/FpuArith.lean ====
section
/-! DEFINITION. Floating-point arithmetic (spec/47_fpu_instructions.md R830 to R837, R854 to R859): the screening of
denormalized and NaN operands (spec/46_fpu.md R778, R779), the completion sequence (R772), and the arithmetic meanings.
A format is a Bool: `false` single, `true` double. -/

namespace Sys2Proof.Machine

/-! ## Operands and results -/

/-- The format. -/
def fmtOf (d : Bool) : FloatFmt := if d then fmtD else fmtS

/-- `Val(fmt, i)`: the pattern of an operand (R811). -/
def State.fval (s : State) (d : Bool) (i : RegNum) : Nat := if d then (s.readD i).toNat else (s.readS i).toNat

/-- `Store(fmt, i, v)` (R811). -/
def State.fstore (s : State) (d : Bool) (i : RegNum) (v : Nat) : State :=
  if d then s.writeD i (BitVec.ofNat 64 v) else s.writeS i (BitVec.ofNat 32 v)

/-- Denormalized and quiet-NaN operands are handled without an Unimplemented Operation: R12000 and R12000A with FS = 1
(R779). -/
def State.flushMode (s : State) : Bool := s.isR12k && s.flushDenorm

/-- An operand with a denormalized number flushed to a zero of its sign (R779). -/
def flushedVal (f : FloatFmt) (x : Nat) : FVal := if isDenorm f x then unpack f (withSign f (signOf f x) 0) else unpack f x

/-- The operation `k` on screened operands `xs`; `k` reads an operand through the function it is given.  Else: with a
denormalized number or a quiet NaN E alone (R778; log 35); with a signaling NaN V (R776).  In flush mode a NaN gives
the standard NaN, and a flushed operand raises I unless the other operands decide the result (R779). -/
def screened (s : State) (f : FloatFmt) (xs : List Nat) (decided : Bool) (k : (Nat → FVal) → FRes) : FRes :=
  if s.flushMode then
    if xs.any (isSignaling f) then invalid f
    else if xs.any (isQuiet f) then exactRes (stdNan f)
    else
      let r := k (flushedVal f)
      if xs.any (isDenorm f) && !decided then { r with cause := r.cause ||| causeI } else r
  else if xs.any fun x => isDenorm f x || isQuiet f x then unimplemented
  else if xs.any (isSignaling f) then invalid f
  else k (unpack f)

/-- A value is an infinity. -/
def FVal.isInf : FVal → Bool
  | .inf _ => true
  | _ => false

/-- A value is zero. -/
def FVal.isZero : FVal → Bool
  | .num _ m _ => m == 0
  | _ => false

/-! ## Completion (R772) -/

/-- FCR31 after an operation with causes `c`; the exception, or the flags and the result. -/
def fpComplete (c : BitVec 6) (write : State → State) (s : State) : Res Unit :=
  let v := fcr31WithCause s.fpu.fcr31 c
  if c.getLsbD 5 || c.setWidth 5 &&& s.fpEnables != 0#5 then .exc .floatingPoint (s.setFcr31 v)
  else .ok () (write (s.setFcr31 (fcr31OrFlags v (c.setWidth 5))))

/-- An operation with a result of format `d` in `fd`. -/
def fpResult (d : Bool) (fd : RegNum) (r : FRes) (s : State) : Res Unit :=
  fpComplete r.cause (fun s => s.fstore d fd r.bits) s

/-- The gate of a floating-point operation that the enabled instruction set does not have: CP1 first, then
Unimplemented Operation (R782, R810). -/
def needFpOp (enabled : Bool) (s : State) : Res Unit :=
  (needCp1 s).bind fun _ s => if enabled then .ok () s else fpComplete causeE id s

/-- An arithmetic instruction of COP1 with one result. -/
def fpArith (enabled : Bool) (d : Bool) (fd : RegNum) (r : State → FRes) (s : State) : Out :=
  ((needFpOp enabled s).bind fun _ s => fpResult d fd (r s) s).finish

/-! ## The operations -/

/-- Addition, or subtraction with `neg` (R830, R831). -/
def fpAdd (d neg : Bool) (fs ft : RegNum) (s : State) : FRes :=
  let f := fmtOf d
  let a := s.fval d fs
  let b := s.fval d ft
  screened s f [a, b] ((unpack f a).isInf || (unpack f b).isInf) fun u =>
    addVal f s.roundMode s.flushDenorm (u a) (if neg then negVal (u b) else u b)

/-- Multiplication (R832). -/
def fpMul (d : Bool) (fs ft : RegNum) (s : State) : FRes :=
  let f := fmtOf d
  let a := s.fval d fs
  let b := s.fval d ft
  screened s f [a, b] ((unpack f a).isZero || (unpack f b).isZero) fun u =>
    mulVal f s.roundMode s.flushDenorm (u a) (u b)

/-- Division (R833). -/
def fpDiv (d : Bool) (fs ft : RegNum) (s : State) : FRes :=
  let f := fmtOf d
  let a := s.fval d fs
  let b := s.fval d ft
  screened s f [a, b] ((unpack f a).isInf || (unpack f b).isInf) fun u =>
    divVal f s.roundMode s.flushDenorm (u a) (u b)

/-- Square root (R834). -/
def fpSqrt (d : Bool) (fs : RegNum) (s : State) : FRes :=
  let f := fmtOf d
  let a := s.fval d fs
  screened s f [a] false fun u => sqrtVal f s.roundMode s.flushDenorm (u a)

/-- Reciprocal, correctly rounded (R783, R854). -/
def fpRecip (d : Bool) (fs : RegNum) (s : State) : FRes :=
  let f := fmtOf d
  let a := s.fval d fs
  screened s f [a] false fun u => divVal f s.roundMode s.flushDenorm oneVal (u a)

/-- Reciprocal square root, correctly rounded (R783, R855). -/
def fpRsqrt (d : Bool) (fs : RegNum) (s : State) : FRes :=
  let f := fmtOf d
  let a := s.fval d fs
  screened s f [a] false fun u => rsqrtVal f s.roundMode s.flushDenorm (u a)

/-- A change of the sign bit, `f` giving the new one (R835, R837).  A denormalized operand is exact, or flushed with I
in flush mode (R778, R779). -/
def fpSign (d : Bool) (newSign : Bool → Bool) (fs : RegNum) (s : State) : FRes :=
  let f := fmtOf d
  let a := s.fval d fs
  let signed (x : Nat) : Nat := withSign f (newSign (signOf f x)) (x % 2 ^ (f.eb + f.fb))
  if isSignaling f a then invalid f
  else if isQuiet f a then (if s.flushMode then exactRes (stdNan f) else unimplemented)
  else if isDenorm f a && s.flushMode then
    { bits := signed (withSign f (signOf f a) 0), cause := causeI }
  else exactRes (signed a)

/-- A result with its sign inverted after rounding; a NaN is kept (R858). -/
def negResult (f : FloatFmt) (r : FRes) : FRes :=
  if (unpack f r.bits).isNan then r
  else { r with bits := withSign f (!signOf f r.bits) (r.bits % 2 ^ (f.eb + f.fb)) }

/-- The sum of a rounded product and a value: a product that is no number stays the standard NaN. -/
def sumOf (f : FloatFmt) (rm : BitVec 2) (fs : Bool) (p : Nat) (c : FVal) : FRes :=
  if (unpack f p).isNan then exactRes (stdNan f) else addVal f rm fs (unpack f p) c

/-- Whether the operands of a multiply-add decide its result without the denormalized ones (R779). -/
def maddDecided (r a b : FVal) (rDen aDen bDen : Bool) : Bool :=
  if r.isNan || a.isNan || b.isNan then true
  else if (aDen && b.isInf) || (bDen && a.isInf) then false
  else if r.isInf || a.isInf || b.isInf then true
  else !rDen && ((a.isZero && bDen) || (b.isZero && aDen))

/-- The product step of a multiply-add on the patterns `a` and `b`, its operands screened (R856). -/
def maddProduct (s : State) (f : FloatFmt) (a b : Nat) : FRes :=
  screened s f [a, b] true fun u => mulVal f s.roundMode s.flushDenorm (u a) (u b)

/-- The sum step of a multiply-add on the product `p` and the pattern `c`, that operand screened: the causes of the two
steps are ORed, but an unimplemented product ends the operation (R856; log 35). -/
def maddSum (s : State) (f : FloatFmt) (sub : Bool) (p : FRes) (c : Nat) : FRes :=
  if p.cause.getLsbD 5 then p
  else
    let r := screened s f [c] true fun u =>
      sumOf f s.roundMode s.flushDenorm p.bits (if sub then negVal (u c) else u c)
    { r with cause := r.cause ||| p.cause }

/-- Multiply and add, product and sum rounded each (R783, R856 to R859); in flush mode a denormalized operand raises I
unless the others decide the result (R779). -/
def fpMadd (d sub neg : Bool) (fr fs ft : RegNum) (s : State) : FRes :=
  let f := fmtOf d
  let a := s.fval d fs
  let b := s.fval d ft
  let c := s.fval d fr
  let r := maddSum s f sub (maddProduct s f a b) c
  let r := if neg then negResult f r else r
  if s.flushMode && [a, b, c].any (isDenorm f) &&
      !maddDecided (unpack f c) (unpack f a) (unpack f b) (isDenorm f c) (isDenorm f a) (isDenorm f b) then
    { r with cause := r.cause ||| causeI }
  else r

/-- A multiply-add instruction of COP1X. -/
def maddOp (d sub neg : Bool) (fr fs ft fd : RegNum) (s : State) : Out :=
  ((needCop1x s).bind fun _ s => fpResult d fd (fpMadd d sub neg fr fs ft s) s).finish

/-! ## Add, subtract, multiply, divide -/

/-- ADD.S (R830). -/
def execAddS (ft fs fd : BitVec 5) (s : State) : Out :=
  fpArith true false fd (fpAdd false false fs ft) s

/-- ADD.D (R830). -/
def execAddD (ft fs fd : BitVec 5) (s : State) : Out :=
  fpArith true true fd (fpAdd true false fs ft) s

/-- SUB.S (R831). -/
def execSubS (ft fs fd : BitVec 5) (s : State) : Out :=
  fpArith true false fd (fpAdd false true fs ft) s

/-- SUB.D (R831). -/
def execSubD (ft fs fd : BitVec 5) (s : State) : Out :=
  fpArith true true fd (fpAdd true true fs ft) s

/-- MUL.S (R832). -/
def execMulS (ft fs fd : BitVec 5) (s : State) : Out :=
  fpArith true false fd (fpMul false fs ft) s

/-- MUL.D (R832). -/
def execMulD (ft fs fd : BitVec 5) (s : State) : Out :=
  fpArith true true fd (fpMul true fs ft) s

/-- DIV.S (R833). -/
def execDivS (ft fs fd : BitVec 5) (s : State) : Out :=
  fpArith true false fd (fpDiv false fs ft) s

/-- DIV.D (R833). -/
def execDivD (ft fs fd : BitVec 5) (s : State) : Out :=
  fpArith true true fd (fpDiv true fs ft) s

/-- SQRT.S (R834). -/
def execSqrtS (fs fd : BitVec 5) (s : State) : Out :=
  fpArith true false fd (fpSqrt false fs) s

/-- SQRT.D (R834). -/
def execSqrtD (fs fd : BitVec 5) (s : State) : Out :=
  fpArith true true fd (fpSqrt true fs) s

/-- ABS.S (R835). -/
def execAbsS (fs fd : BitVec 5) (s : State) : Out :=
  fpArith true false fd (fpSign false (fun _ => false) fs) s

/-- ABS.D (R835). -/
def execAbsD (fs fd : BitVec 5) (s : State) : Out :=
  fpArith true true fd (fpSign true (fun _ => false) fs) s

/-- NEG.S (R837). -/
def execNegS (fs fd : BitVec 5) (s : State) : Out :=
  fpArith true false fd (fpSign false not fs) s

/-- NEG.D (R837). -/
def execNegD (fs fd : BitVec 5) (s : State) : Out :=
  fpArith true true fd (fpSign true not fs) s

/-! ## Reciprocals (MIPS IV) -/

/-- RECIP.S (R854). -/
def execRecipS (fs fd : BitVec 5) (s : State) : Out :=
  fpArith s.mips4 false fd (fpRecip false fs) s

/-- RECIP.D (R854). -/
def execRecipD (fs fd : BitVec 5) (s : State) : Out :=
  fpArith s.mips4 true fd (fpRecip true fs) s

/-- RSQRT.S (R855). -/
def execRsqrtS (fs fd : BitVec 5) (s : State) : Out :=
  fpArith s.mips4 false fd (fpRsqrt false fs) s

/-- RSQRT.D (R855). -/
def execRsqrtD (fs fd : BitVec 5) (s : State) : Out :=
  fpArith s.mips4 true fd (fpRsqrt true fs) s

/-! ## Multiply-add -/

/-- MADD.S (R856). -/
def execMaddS (fr ft fs fd : BitVec 5) (s : State) : Out :=
  maddOp false false false fr fs ft fd s

/-- MADD.D (R856). -/
def execMaddD (fr ft fs fd : BitVec 5) (s : State) : Out :=
  maddOp true false false fr fs ft fd s

/-- MSUB.S (R857). -/
def execMsubS (fr ft fs fd : BitVec 5) (s : State) : Out :=
  maddOp false true false fr fs ft fd s

/-- MSUB.D (R857). -/
def execMsubD (fr ft fs fd : BitVec 5) (s : State) : Out :=
  maddOp true true false fr fs ft fd s

/-- NMADD.S (R858). -/
def execNmaddS (fr ft fs fd : BitVec 5) (s : State) : Out :=
  maddOp false false true fr fs ft fd s

/-- NMADD.D (R858). -/
def execNmaddD (fr ft fs fd : BitVec 5) (s : State) : Out :=
  maddOp true false true fr fs ft fd s

/-- NMSUB.S (R859). -/
def execNmsubS (fr ft fs fd : BitVec 5) (s : State) : Out :=
  maddOp false true true fr fs ft fd s

/-- NMSUB.D (R859). -/
def execNmsubD (fr ft fs fd : BitVec 5) (s : State) : Out :=
  maddOp true true true fr fs ft fd s

end Sys2Proof.Machine
end

