-- ==== Sys2Proof/Machine/FpuConvert.lean ====
section
/-! DEFINITION. Floating-point conversions (spec/47_fpu_instructions.md R838 to R849; spec/46_fpu.md R780) and
comparison (R860; R781). -/

namespace Sys2Proof.Machine

/-! ## Conversion to fixed point (R780) -/

/-- A value to an integer of `bits` bits in the rounding mode `rm`: a NaN, an infinity or a value out of range is
unimplemented; a denormalized operand is unimplemented, or flushed with I in flush mode. -/
def fpToFixed (d : Bool) (bits : Nat) (limit : Option Nat) (rm : BitVec 2) (fs : RegNum) (s : State) : FRes :=
  let f := fmtOf d
  let a := s.fval d fs
  if isDenorm f a then (if s.flushMode then { bits := 0, cause := causeI } else unimplemented)
  else toFixed bits limit rm (unpack f a)

/-- To the W format. -/
def toWordOp (d : Bool) (rm : State → BitVec 2) (fs fd : RegNum) (s : State) : Out :=
  fpArith true false fd (fun s => fpToFixed d 32 none (rm s) fs s) s

/-- To the L format: MIPS III (R782, D24); `LongConvLimit` (R780). -/
def toLongOp (d : Bool) (rm : State → BitVec 2) (fs fd : RegNum) (s : State) : Out :=
  fpArith s.mips3 true fd (fun s => fpToFixed d 64 s.hw.longConvLimit (rm s) fs s) s

/-! ## Conversion to floating point -/

/-- Between the floating-point formats: from `d` to the other one (R846, R847). -/
def fpToFormat (d : Bool) (fs : RegNum) (s : State) : FRes :=
  let a := s.fval d fs
  let r := screened s (fmtOf d) [a] false fun u => toFormat (fmtOf !d) s.roundMode s.flushDenorm (u a)
  if (unpack (fmtOf d) a).isNan && !r.cause.getLsbD 5 then { r with bits := stdNan (fmtOf !d) } else r

/-- From the W format to `d`. -/
def fpOfWord (d : Bool) (fs : RegNum) (s : State) : FRes := ofIntRounded (fmtOf d) s.roundMode (s.readS fs).toInt

/-- From the L format to `d`; `LongConvLimit` (R780, U30). -/
def fpOfLong (d : Bool) (fs : RegNum) (s : State) : FRes :=
  if inRange 64 s.hw.longConvLimit (s.readD fs).toInt then ofIntRounded (fmtOf d) s.roundMode (s.readD fs).toInt
  else unimplemented

/-! ## Comparison (R781) -/

/-- The predicate and the causes of a comparison: a denormalized operand is exact, or flushed in flush mode with I
when that changes the predicate (R778, R779); V for a signaling NaN, and for any NaN with cond[3]. -/
def fpCompare (d : Bool) (cond : BitVec 4) (fs ft : RegNum) (s : State) : Bool × BitVec 6 :=
  let f := fmtOf d
  let a := s.fval d fs
  let b := s.fval d ft
  let exact := predicate cond (unpack f a) (unpack f b)
  let r := if s.flushMode then predicate cond (flushedVal f a) (flushedVal f b) else exact
  let unordered := (unpack f a).isNan || (unpack f b).isNan
  let v := isSignaling f a || isSignaling f b || (unordered && cond.getLsbD 3)
  (r, (if v then causeV else 0#6) ||| (if r == exact then 0#6 else causeI))

/-- C.cond: MIPS IV for a condition bit other than 0 (R782). -/
def compareOp (d : Bool) (cond : BitVec 4) (cc : BitVec 3) (fs ft : RegNum) (s : State) : Out :=
  ((needFpOp (s.mips4 || cc == 0#3) s).bind fun _ s =>
    let r := fpCompare d cond fs ft s
    fpComplete r.2 (fun s => s.setFcc cc r.1) s).finish

/-! ## ROUND, TRUNC, CEIL, FLOOR: the mode is in the instruction -/

/-- ROUND.L.S (R838). -/
def execRoundLS (fs fd : BitVec 5) (s : State) : Out :=
  toLongOp false (fun _ => 0#2) fs fd s

/-- ROUND.L.D (R838). -/
def execRoundLD (fs fd : BitVec 5) (s : State) : Out :=
  toLongOp true (fun _ => 0#2) fs fd s

/-- TRUNC.L.S (R839). -/
def execTruncLS (fs fd : BitVec 5) (s : State) : Out :=
  toLongOp false (fun _ => 1#2) fs fd s

/-- TRUNC.L.D (R839). -/
def execTruncLD (fs fd : BitVec 5) (s : State) : Out :=
  toLongOp true (fun _ => 1#2) fs fd s

/-- CEIL.L.S (R840). -/
def execCeilLS (fs fd : BitVec 5) (s : State) : Out :=
  toLongOp false (fun _ => 2#2) fs fd s

/-- CEIL.L.D (R840). -/
def execCeilLD (fs fd : BitVec 5) (s : State) : Out :=
  toLongOp true (fun _ => 2#2) fs fd s

/-- FLOOR.L.S (R841). -/
def execFloorLS (fs fd : BitVec 5) (s : State) : Out :=
  toLongOp false (fun _ => 3#2) fs fd s

/-- FLOOR.L.D (R841). -/
def execFloorLD (fs fd : BitVec 5) (s : State) : Out :=
  toLongOp true (fun _ => 3#2) fs fd s

/-- ROUND.W.S (R842). -/
def execRoundWS (fs fd : BitVec 5) (s : State) : Out :=
  toWordOp false (fun _ => 0#2) fs fd s

/-- ROUND.W.D (R842). -/
def execRoundWD (fs fd : BitVec 5) (s : State) : Out :=
  toWordOp true (fun _ => 0#2) fs fd s

/-- TRUNC.W.S (R843). -/
def execTruncWS (fs fd : BitVec 5) (s : State) : Out :=
  toWordOp false (fun _ => 1#2) fs fd s

/-- TRUNC.W.D (R843). -/
def execTruncWD (fs fd : BitVec 5) (s : State) : Out :=
  toWordOp true (fun _ => 1#2) fs fd s

/-- CEIL.W.S (R844). -/
def execCeilWS (fs fd : BitVec 5) (s : State) : Out :=
  toWordOp false (fun _ => 2#2) fs fd s

/-- CEIL.W.D (R844). -/
def execCeilWD (fs fd : BitVec 5) (s : State) : Out :=
  toWordOp true (fun _ => 2#2) fs fd s

/-- FLOOR.W.S (R845). -/
def execFloorWS (fs fd : BitVec 5) (s : State) : Out :=
  toWordOp false (fun _ => 3#2) fs fd s

/-- FLOOR.W.D (R845). -/
def execFloorWD (fs fd : BitVec 5) (s : State) : Out :=
  toWordOp true (fun _ => 3#2) fs fd s

/-! ## CVT: rounding by FCR31.RM -/

/-- CVT.S.D (R846). -/
def execCvtSD (fs fd : BitVec 5) (s : State) : Out :=
  fpArith true false fd (fpToFormat true fs) s

/-- CVT.S.W (R846). -/
def execCvtSW (fs fd : BitVec 5) (s : State) : Out :=
  fpArith true false fd (fpOfWord false fs) s

/-- CVT.S.L (R846). -/
def execCvtSL (fs fd : BitVec 5) (s : State) : Out :=
  fpArith s.mips3 false fd (fpOfLong false fs) s

/-- CVT.D.S (R847). -/
def execCvtDS (fs fd : BitVec 5) (s : State) : Out :=
  fpArith true true fd (fpToFormat false fs) s

/-- CVT.D.W (R847). -/
def execCvtDW (fs fd : BitVec 5) (s : State) : Out :=
  fpArith true true fd (fpOfWord true fs) s

/-- CVT.D.L (R847). -/
def execCvtDL (fs fd : BitVec 5) (s : State) : Out :=
  fpArith s.mips3 true fd (fpOfLong true fs) s

/-- CVT.W.S (R848). -/
def execCvtWS (fs fd : BitVec 5) (s : State) : Out :=
  toWordOp false State.roundMode fs fd s

/-- CVT.W.D (R848). -/
def execCvtWD (fs fd : BitVec 5) (s : State) : Out :=
  toWordOp true State.roundMode fs fd s

/-- CVT.L.S (R849). -/
def execCvtLS (fs fd : BitVec 5) (s : State) : Out :=
  toLongOp false State.roundMode fs fd s

/-- CVT.L.D (R849). -/
def execCvtLD (fs fd : BitVec 5) (s : State) : Out :=
  toLongOp true State.roundMode fs fd s

/-! ## C.cond (R860) -/

/-- C.F.S (R860). -/
def execCFS (ft fs : BitVec 5) (cc : BitVec 3) (s : State) : Out :=
  compareOp false 0#4 cc fs ft s

/-- C.UN.S (R860). -/
def execCUnS (ft fs : BitVec 5) (cc : BitVec 3) (s : State) : Out :=
  compareOp false 1#4 cc fs ft s

/-- C.EQ.S (R860). -/
def execCEqS (ft fs : BitVec 5) (cc : BitVec 3) (s : State) : Out :=
  compareOp false 2#4 cc fs ft s

/-- C.UEQ.S (R860). -/
def execCUeqS (ft fs : BitVec 5) (cc : BitVec 3) (s : State) : Out :=
  compareOp false 3#4 cc fs ft s

/-- C.OLT.S (R860). -/
def execCOltS (ft fs : BitVec 5) (cc : BitVec 3) (s : State) : Out :=
  compareOp false 4#4 cc fs ft s

/-- C.ULT.S (R860). -/
def execCUltS (ft fs : BitVec 5) (cc : BitVec 3) (s : State) : Out :=
  compareOp false 5#4 cc fs ft s

/-- C.OLE.S (R860). -/
def execCOleS (ft fs : BitVec 5) (cc : BitVec 3) (s : State) : Out :=
  compareOp false 6#4 cc fs ft s

/-- C.ULE.S (R860). -/
def execCUleS (ft fs : BitVec 5) (cc : BitVec 3) (s : State) : Out :=
  compareOp false 7#4 cc fs ft s

/-- C.SF.S (R860). -/
def execCSfS (ft fs : BitVec 5) (cc : BitVec 3) (s : State) : Out :=
  compareOp false 8#4 cc fs ft s

/-- C.NGLE.S (R860). -/
def execCNgleS (ft fs : BitVec 5) (cc : BitVec 3) (s : State) : Out :=
  compareOp false 9#4 cc fs ft s

/-- C.SEQ.S (R860). -/
def execCSeqS (ft fs : BitVec 5) (cc : BitVec 3) (s : State) : Out :=
  compareOp false 10#4 cc fs ft s

/-- C.NGL.S (R860). -/
def execCNglS (ft fs : BitVec 5) (cc : BitVec 3) (s : State) : Out :=
  compareOp false 11#4 cc fs ft s

/-- C.LT.S (R860). -/
def execCLtS (ft fs : BitVec 5) (cc : BitVec 3) (s : State) : Out :=
  compareOp false 12#4 cc fs ft s

/-- C.NGE.S (R860). -/
def execCNgeS (ft fs : BitVec 5) (cc : BitVec 3) (s : State) : Out :=
  compareOp false 13#4 cc fs ft s

/-- C.LE.S (R860). -/
def execCLeS (ft fs : BitVec 5) (cc : BitVec 3) (s : State) : Out :=
  compareOp false 14#4 cc fs ft s

/-- C.NGT.S (R860). -/
def execCNgtS (ft fs : BitVec 5) (cc : BitVec 3) (s : State) : Out :=
  compareOp false 15#4 cc fs ft s

/-- C.F.D (R860). -/
def execCFD (ft fs : BitVec 5) (cc : BitVec 3) (s : State) : Out :=
  compareOp true 0#4 cc fs ft s

/-- C.UN.D (R860). -/
def execCUnD (ft fs : BitVec 5) (cc : BitVec 3) (s : State) : Out :=
  compareOp true 1#4 cc fs ft s

/-- C.EQ.D (R860). -/
def execCEqD (ft fs : BitVec 5) (cc : BitVec 3) (s : State) : Out :=
  compareOp true 2#4 cc fs ft s

/-- C.UEQ.D (R860). -/
def execCUeqD (ft fs : BitVec 5) (cc : BitVec 3) (s : State) : Out :=
  compareOp true 3#4 cc fs ft s

/-- C.OLT.D (R860). -/
def execCOltD (ft fs : BitVec 5) (cc : BitVec 3) (s : State) : Out :=
  compareOp true 4#4 cc fs ft s

/-- C.ULT.D (R860). -/
def execCUltD (ft fs : BitVec 5) (cc : BitVec 3) (s : State) : Out :=
  compareOp true 5#4 cc fs ft s

/-- C.OLE.D (R860). -/
def execCOleD (ft fs : BitVec 5) (cc : BitVec 3) (s : State) : Out :=
  compareOp true 6#4 cc fs ft s

/-- C.ULE.D (R860). -/
def execCUleD (ft fs : BitVec 5) (cc : BitVec 3) (s : State) : Out :=
  compareOp true 7#4 cc fs ft s

/-- C.SF.D (R860). -/
def execCSfD (ft fs : BitVec 5) (cc : BitVec 3) (s : State) : Out :=
  compareOp true 8#4 cc fs ft s

/-- C.NGLE.D (R860). -/
def execCNgleD (ft fs : BitVec 5) (cc : BitVec 3) (s : State) : Out :=
  compareOp true 9#4 cc fs ft s

/-- C.SEQ.D (R860). -/
def execCSeqD (ft fs : BitVec 5) (cc : BitVec 3) (s : State) : Out :=
  compareOp true 10#4 cc fs ft s

/-- C.NGL.D (R860). -/
def execCNglD (ft fs : BitVec 5) (cc : BitVec 3) (s : State) : Out :=
  compareOp true 11#4 cc fs ft s

/-- C.LT.D (R860). -/
def execCLtD (ft fs : BitVec 5) (cc : BitVec 3) (s : State) : Out :=
  compareOp true 12#4 cc fs ft s

/-- C.NGE.D (R860). -/
def execCNgeD (ft fs : BitVec 5) (cc : BitVec 3) (s : State) : Out :=
  compareOp true 13#4 cc fs ft s

/-- C.LE.D (R860). -/
def execCLeD (ft fs : BitVec 5) (cc : BitVec 3) (s : State) : Out :=
  compareOp true 14#4 cc fs ft s

/-- C.NGT.D (R860). -/
def execCNgtD (ft fs : BitVec 5) (cc : BitVec 3) (s : State) : Out :=
  compareOp true 15#4 cc fs ft s

end Sys2Proof.Machine
end

