-- ==== Sys2Proof/Machine/FpuMove.lean ====
section
/-! DEFINITION. Floating-point moves (spec/47_fpu_instructions.md R812 to R817, R836, R850 to R853) and loads and stores
(R818 to R825). -/

namespace Sys2Proof.Machine

/-! ## Moves to and from the general registers (R763, R774, R775) -/

/-- MFC1 (R812). -/
def execMfc1 (rt fs : BitVec 5) (s : State) : Out :=
  Res.finishGpr rt ((needCp1 s).bind fun _ s => .ok (sext64 (s.readMove fs)) s)

/-- DMFC1 (R813). -/
def execDmfc1 (rt fs : BitVec 5) (s : State) : Out :=
  Res.finishGpr rt ((needCp1 s).bind fun _ s => (needMips3 s).bind fun _ s => (needEvenDouble fs s).bind fun _ s =>
    .ok (s.fraw fs) s)

/-- MTC1 (R814). -/
def execMtc1 (rt fs : BitVec 5) (s : State) : Out :=
  ((needCp1 s).bind fun _ s => .ok () (s.writeMove fs (s.word rt))).finish

/-- DMTC1 (R815). -/
def execDmtc1 (rt fs : BitVec 5) (s : State) : Out :=
  ((needCp1 s).bind fun _ s => (needMips3 s).bind fun _ s => (needEvenDouble fs s).bind fun _ s =>
    .ok () (s.setFraw fs (s.rget rt))).finish

/-- A floating-point control register (R764, R766, R774); one the source does not define reads as any value (U28;
log 7). -/
def State.fcr (s : State) (fs : RegNum) : Word :=
  if fs = 31#5 then s.fpu.fcr31
  else if fs = 0#5 then (0#16 ++ s.hw.fcr0Imp ++ s.hw.fcr0Rev).cast (by decide)
  else (s.free .fcrUndefined).setWidth 32

/-- CFC1 (R774, R816). -/
def execCfc1 (rt fs : BitVec 5) (s : State) : Out :=
  Res.finishGpr rt ((needCp1 s).bind fun _ s => .ok (sext64 (s.fcr fs)) s)

/-- FCR31 holds E, or a cause with its enable bit (R775). -/
def fcr31Traps (v : Word) : Bool := v.getLsbD 17 || v.extractLsb' 12 5 &&& v.extractLsb' 7 5 != 0#5

/-- CTC1 (R775, R817). -/
def execCtc1 (rt fs : BitVec 5) (s : State) : Out :=
  ((needCp1 s).bind fun _ s =>
    if fs = 31#5 then
      let v := s.word rt &&& fcr31Mask
      if fcr31Traps v then .exc .floatingPoint (s.setFcr31 v) else .ok () (s.setFcr31 v)
    else .ok () s).finish

/-! ## Moves between floating-point registers -/

/-- MOV.S (R836: a bit pattern). -/
def execMovS (fs fd : BitVec 5) (s : State) : Out :=
  fpArith true false fd (fun s => exactRes (s.fval false fs)) s

/-- MOV.D (R836: a bit pattern). -/
def execMovD (fs fd : BitVec 5) (s : State) : Out :=
  fpArith true true fd (fun s => exactRes (s.fval true fs)) s

/-- What a single-precision conditional move leaves in the high half of `fd`: with FR = 1 undefined whether or not it
moves (R761, U25; log 7). -/
def movcHigh (d : Bool) (fd : RegNum) (s : State) : State :=
  if d || !s.fr then s else s.setFraw fd ((s.free .movcHigh).extractLsb' 32 32 ++ (s.fraw fd).setWidth 32)

/-- A conditional move of format `d`: MIPS IV, else Unimplemented Operation (R850). -/
def fpMoveIf (d : Bool) (c : State → Bool) (fs fd : RegNum) (s : State) : Out :=
  ((needFpOp s.mips4 s).bind fun _ s =>
    fpComplete 0#6 (fun s => movcHigh d fd (if c s then s.fstore d fd (s.fval d fs) else s)) s).finish

/-- MOVF.S (R850). -/
def execMovfS (cc : BitVec 3) (fs fd : BitVec 5) (s : State) : Out :=
  fpMoveIf false (fun s => !s.fcc cc) fs fd s

/-- MOVF.D (R850). -/
def execMovfD (cc : BitVec 3) (fs fd : BitVec 5) (s : State) : Out :=
  fpMoveIf true (fun s => !s.fcc cc) fs fd s

/-- MOVT.S (R851). -/
def execMovtS (cc : BitVec 3) (fs fd : BitVec 5) (s : State) : Out :=
  fpMoveIf false (fun s => s.fcc cc) fs fd s

/-- MOVT.D (R851). -/
def execMovtD (cc : BitVec 3) (fs fd : BitVec 5) (s : State) : Out :=
  fpMoveIf true (fun s => s.fcc cc) fs fd s

/-- MOVZ.S (R852). -/
def execMovzS (rt fs fd : BitVec 5) (s : State) : Out :=
  fpMoveIf false (fun s => s.rget rt == 0#64) fs fd s

/-- MOVZ.D (R852). -/
def execMovzD (rt fs fd : BitVec 5) (s : State) : Out :=
  fpMoveIf true (fun s => s.rget rt == 0#64) fs fd s

/-- MOVN.S (R853). -/
def execMovnS (rt fs fd : BitVec 5) (s : State) : Out :=
  fpMoveIf false (fun s => s.rget rt != 0#64) fs fd s

/-- MOVN.D (R853). -/
def execMovnD (rt fs fd : BitVec 5) (s : State) : Out :=
  fpMoveIf true (fun s => s.rget rt != 0#64) fs fd s

/-! ## Loads and stores -/

/-- A word load into a floating-point register (R818). -/
def fpLoadWord (ft : RegNum) (va : State → DWord) (s : State) : Res Unit :=
  (memRead (va s) 4 s).bind fun v s => .ok () (s.writeMove ft (v.setWidth 32))

/-- A doubleword load (R819): an odd register with FR = 0 is invalid. -/
def fpLoadDouble (ft : RegNum) (va : State → DWord) (s : State) : Res Unit :=
  (needEvenDouble ft s).bind fun _ s => (memRead (va s) 8 s).bind fun v s => .ok () (s.setFraw ft v)

/-- A word store (R820). -/
def fpStoreWord (ft : RegNum) (va : State → DWord) (s : State) : Res Unit := memWrite (va s) 4 (zext64 (s.readMove ft)) s

/-- A doubleword store (R821). -/
def fpStoreDouble (ft : RegNum) (va : State → DWord) (s : State) : Res Unit :=
  (needEvenDouble ft s).bind fun _ s => memWrite (va s) 8 (s.fraw ft) s

/-- LWC1 (R818). -/
def execLwc1 (base ft : BitVec 5) (offset : BitVec 16) (s : State) : Out :=
  ((needCp1 s).bind fun _ s => fpLoadWord ft (fun s => s.ea base offset) s).finish

/-- LDC1 (R819). -/
def execLdc1 (base ft : BitVec 5) (offset : BitVec 16) (s : State) : Out :=
  ((needCp1 s).bind fun _ s => fpLoadDouble ft (fun s => s.ea base offset) s).finish

/-- SWC1 (R820). -/
def execSwc1 (base ft : BitVec 5) (offset : BitVec 16) (s : State) : Out :=
  ((needCp1 s).bind fun _ s => fpStoreWord ft (fun s => s.ea base offset) s).finish

/-- SDC1 (R821). -/
def execSdc1 (base ft : BitVec 5) (offset : BitVec 16) (s : State) : Out :=
  ((needCp1 s).bind fun _ s => fpStoreDouble ft (fun s => s.ea base offset) s).finish

/-- LWXC1 (R822). -/
def execLwxc1 (base index fd : BitVec 5) (s : State) : Out :=
  ((needCop1x s).bind fun _ s => fpLoadWord fd (fun s => s.eaIndexed base index) s).finish

/-- LDXC1 (R823). -/
def execLdxc1 (base index fd : BitVec 5) (s : State) : Out :=
  ((needCop1x s).bind fun _ s => fpLoadDouble fd (fun s => s.eaIndexed base index) s).finish

/-- SWXC1 (R824). -/
def execSwxc1 (base index fs : BitVec 5) (s : State) : Out :=
  ((needCop1x s).bind fun _ s => fpStoreWord fs (fun s => s.eaIndexed base index) s).finish

/-- SDXC1 (R825). -/
def execSdxc1 (base index fs : BitVec 5) (s : State) : Out :=
  ((needCop1x s).bind fun _ s => fpStoreDouble fs (fun s => s.eaIndexed base index) s).finish

end Sys2Proof.Machine
end

