-- ==== Sys2Proof/Machine/LoadStore.lean ====
section
/-! DEFINITION. Integer loads, stores, LL/SC, SYNC and prefetch (spec/42_load_store.md R560 to R592). -/

namespace Sys2Proof.Machine

/-! ## Shared operations -/

/-- An aligned load of `n` bytes, extended by `f` into `rt` (R561). -/
def loadOp (n : Nat) (f : DWord → DWord) (base rt : RegNum) (offset : BitVec 16) (s : State) : Out :=
  Res.finishGpr rt ((memRead (s.ea base offset) n s).bind fun v s => .ok (f v) s)

/-- The same for a MIPS III load: the gate comes before the address (R562). -/
def loadOp64 (n : Nat) (f : DWord → DWord) (base rt : RegNum) (offset : BitVec 16) (s : State) : Out :=
  Res.finishGpr rt ((needMips3 s).bind fun _ s => (memRead (s.ea base offset) n s).bind fun v s => .ok (f v) s)

/-- An aligned store of the low `n` bytes of `rt` (R561). -/
def storeOp (n : Nat) (base rt : RegNum) (offset : BitVec 16) (s : State) : Out :=
  (memWrite (s.ea base offset) n (s.rget rt) s).finish

/-- Sign extension of the low `n` bits of a doubleword. -/
def signLow (n : Nat) (v : DWord) : DWord := sext64 (v.setWidth n)

/-- The mask of the low `k` bytes. -/
def lowBytes (k : Nat) : DWord := BitVec.ofNat 64 (2 ^ (8 * k) - 1)

/-- The unit a left load leaves: the `k + 1` bytes read on top of the low bytes of the old value (R576, R580). -/
def mergeLeft (n k : Nat) (v old : DWord) : DWord := (v <<< (8 * (n - 1 - k))) ||| (old &&& lowBytes (n - 1 - k))

/-- The unit a right load leaves: the `n - k` bytes read below the high bytes of the old value (R577, R581). -/
def mergeRight (n k : Nat) (v old : DWord) : DWord := (old &&& ~~~(lowBytes (n - k))) ||| v

/-! ## Aligned loads -/

/-- LB (R564). -/
def execLb (base rt : BitVec 5) (offset : BitVec 16) (s : State) : Out := loadOp 1 (signLow 8) base rt offset s

/-- LBU (R565). -/
def execLbu (base rt : BitVec 5) (offset : BitVec 16) (s : State) : Out := loadOp 1 id base rt offset s

/-- LH (R566). -/
def execLh (base rt : BitVec 5) (offset : BitVec 16) (s : State) : Out := loadOp 2 (signLow 16) base rt offset s

/-- LHU (R567). -/
def execLhu (base rt : BitVec 5) (offset : BitVec 16) (s : State) : Out := loadOp 2 id base rt offset s

/-- LW (R568). -/
def execLw (base rt : BitVec 5) (offset : BitVec 16) (s : State) : Out := loadOp 4 (signLow 32) base rt offset s

/-- LWU (R569). -/
def execLwu (base rt : BitVec 5) (offset : BitVec 16) (s : State) : Out := loadOp64 4 id base rt offset s

/-- LD (R570). -/
def execLd (base rt : BitVec 5) (offset : BitVec 16) (s : State) : Out := loadOp64 8 id base rt offset s

/-! ## Aligned stores -/

/-- SB (R571). -/
def execSb (base rt : BitVec 5) (offset : BitVec 16) (s : State) : Out := storeOp 1 base rt offset s

/-- SH (R572). -/
def execSh (base rt : BitVec 5) (offset : BitVec 16) (s : State) : Out := storeOp 2 base rt offset s

/-- SW (R573). -/
def execSw (base rt : BitVec 5) (offset : BitVec 16) (s : State) : Out := storeOp 4 base rt offset s

/-- SD (R574). -/
def execSd (base rt : BitVec 5) (offset : BitVec 16) (s : State) : Out :=
  ((needMips3 s).bind fun _ s => memWrite (s.ea base offset) 8 (s.rget rt) s).finish

/-! ## Unaligned loads and stores -/

/-- LWL (R576). -/
def execLwl (base rt : BitVec 5) (offset : BitVec 16) (s : State) : Out :=
  Res.finishGpr rt ((unalignedRead true 4 (s.ea base offset) s).bind fun r s =>
    .ok (signLow 32 (mergeLeft 4 r.1 r.2 (s.rget rt))) s)

/-- LWR (R577): sign-extended from bit 31 of the merged word in every case (U20). -/
def execLwr (base rt : BitVec 5) (offset : BitVec 16) (s : State) : Out :=
  Res.finishGpr rt ((unalignedRead false 4 (s.ea base offset) s).bind fun r s =>
    .ok (signLow 32 (mergeRight 4 r.1 r.2 (s.rget rt))) s)

/-- SWL (R578). -/
def execSwl (base rt : BitVec 5) (offset : BitVec 16) (s : State) : Out :=
  (unalignedWrite true 4 (s.rget rt) (s.ea base offset) s).finish

/-- SWR (R579). -/
def execSwr (base rt : BitVec 5) (offset : BitVec 16) (s : State) : Out :=
  (unalignedWrite false 4 (s.rget rt) (s.ea base offset) s).finish

/-- LDL (R580). -/
def execLdl (base rt : BitVec 5) (offset : BitVec 16) (s : State) : Out :=
  Res.finishGpr rt ((needMips3 s).bind fun _ s => (unalignedRead true 8 (s.ea base offset) s).bind fun r s =>
    .ok (mergeLeft 8 r.1 r.2 (s.rget rt)) s)

/-- LDR (R581). -/
def execLdr (base rt : BitVec 5) (offset : BitVec 16) (s : State) : Out :=
  Res.finishGpr rt ((needMips3 s).bind fun _ s => (unalignedRead false 8 (s.ea base offset) s).bind fun r s =>
    .ok (mergeRight 8 r.1 r.2 (s.rget rt)) s)

/-- SDL (R582). -/
def execSdl (base rt : BitVec 5) (offset : BitVec 16) (s : State) : Out :=
  ((needMips3 s).bind fun _ s => unalignedWrite true 8 (s.rget rt) (s.ea base offset) s).finish

/-- SDR (R583). -/
def execSdr (base rt : BitVec 5) (offset : BitVec 16) (s : State) : Out :=
  ((needMips3 s).bind fun _ s => unalignedWrite false 8 (s.rget rt) (s.ea base offset) s).finish

/-! ## Load linked and store conditional -/

/-- LL (R585). -/
def execLl (base rt : BitVec 5) (offset : BitVec 16) (s : State) : Out :=
  Res.finishGpr rt ((linkedRead (s.ea base offset) 4 s).bind fun v s => .ok (signLow 32 v) s)

/-- LLD (R586). -/
def execLld (base rt : BitVec 5) (offset : BitVec 16) (s : State) : Out :=
  Res.finishGpr rt ((needMips3 s).bind fun _ s => linkedRead (s.ea base offset) 8 s)

/-- The success value of a conditional store (R587). -/
def scValue (ok : Bool) : DWord := if ok then 1#64 else 0#64

/-- SC (R587). -/
def execSc (base rt : BitVec 5) (offset : BitVec 16) (s : State) : Out :=
  Res.finishGpr rt ((conditionalWrite (s.ea base offset) 4 (s.rget rt) s).bind fun ok s => .ok (scValue ok) s)

/-- SCD (R588). -/
def execScd (base rt : BitVec 5) (offset : BitVec 16) (s : State) : Out :=
  Res.finishGpr rt ((needMips3 s).bind fun _ s =>
    (conditionalWrite (s.ea base offset) 8 (s.rget rt) s).bind fun ok s => .ok (scValue ok) s)

/-! ## SYNC and prefetch -/

/-- SYNC (R256, R590, R914): it graduates only while SysGblPerf* is asserted and no uncached store is in the uncached
buffer; an accelerated one does not hold it. -/
def execSync (_stype : BitVec 5) (s : State) : Out :=
  (if s.ext.gblPerf && !storePending s then Res.ok () (breakLl s) else .retry s).finish

/-- PREF (R591). -/
def execPref (base hint : BitVec 5) (offset : BitVec 16) (s : State) : Out :=
  ((needMips4 s).bind fun _ s => .ok () (prefetch hint (s.ea base offset) s)).finish

/-- PREFX (R592). -/
def execPrefx (base index hint : BitVec 5) (s : State) : Out :=
  ((needCop1x s).bind fun _ s => .ok () (prefetch hint (s.eaIndexed base index) s)).finish

end Sys2Proof.Machine
end

