-- ==== Sys2Proof/Machine/MulDiv.lean ====
section
/-! DEFINITION. Integer multiply, divide and HI/LO moves (spec/41_multiply_divide.md R530 to R543). -/

namespace Sys2Proof.Machine

/-- The state with HI and LO written. -/
def State.setHiLo (s : State) (hi lo : DWord) : State := { s with hi := hi, lo := lo }

/-- A multiply or divide of words: it always completes. -/
def hiLoOp (hi lo : State → DWord) (s : State) : Out := (Res.ok () (s.setHiLo (hi s) (lo s))).finish

/-- A multiply or divide of doublewords: MIPS III (R530). -/
def hiLoOp64 (hi lo : State → DWord) (s : State) : Out :=
  ((needMips3 s).bind fun _ s => .ok () (s.setHiLo (hi s) (lo s))).finish

/-- A quotient or remainder, or the free value a division by zero leaves (R534, U19). -/
def divResult (zero : Bool) (site : FreeSite) (v : DWord) (s : State) : DWord := if zero then s.free site else v

/-- The exact signed product of two words (R532). -/
def productS (a b : Word) : DWord := a.signExtend 64 * b.signExtend 64

/-- The exact unsigned product of two words (R533). -/
def productU (a b : Word) : DWord := a.setWidth 64 * b.setWidth 64

/-- The exact signed product of two doublewords (R536). -/
def dproductS (a b : DWord) : BitVec 128 := a.signExtend 128 * b.signExtend 128

/-- The exact unsigned product of two doublewords (R537). -/
def dproductU (a b : DWord) : BitVec 128 := a.setWidth 128 * b.setWidth 128

/-- The signed quotient, truncated toward zero (R534). -/
def quotS {n : Nat} (a b : BitVec n) : BitVec n := BitVec.ofInt n (a.toInt.tdiv b.toInt)

/-- The signed remainder, with the sign of the dividend (R534). -/
def remS {n : Nat} (a b : BitVec n) : BitVec n := BitVec.ofInt n (a.toInt.tmod b.toInt)

/-- MULT (R532). -/
def execMult (rs rt : BitVec 5) (s : State) : Out :=
  hiLoOp (fun s => sext64 ((productS (s.word rs) (s.word rt)).extractLsb' 32 32))
    (fun s => sext64 ((productS (s.word rs) (s.word rt)).extractLsb' 0 32)) s

/-- MULTU (R533). -/
def execMultu (rs rt : BitVec 5) (s : State) : Out :=
  hiLoOp (fun s => sext64 ((productU (s.word rs) (s.word rt)).extractLsb' 32 32))
    (fun s => sext64 ((productU (s.word rs) (s.word rt)).extractLsb' 0 32)) s

/-- DIV (R534). -/
def execDiv (rs rt : BitVec 5) (s : State) : Out :=
  hiLoOp (fun s => divResult (s.word rt == 0#32) .divHi (sext64 (remS (s.word rs) (s.word rt))) s)
    (fun s => divResult (s.word rt == 0#32) .divLo (sext64 (quotS (s.word rs) (s.word rt))) s) s

/-- DIVU (R535). -/
def execDivu (rs rt : BitVec 5) (s : State) : Out :=
  hiLoOp (fun s => divResult (s.word rt == 0#32) .divHi (sext64 (s.word rs % s.word rt)) s)
    (fun s => divResult (s.word rt == 0#32) .divLo (sext64 (s.word rs / s.word rt)) s) s

/-- DMULT (R536). -/
def execDmult (rs rt : BitVec 5) (s : State) : Out :=
  hiLoOp64 (fun s => (dproductS (s.rget rs) (s.rget rt)).extractLsb' 64 64)
    (fun s => (dproductS (s.rget rs) (s.rget rt)).extractLsb' 0 64) s

/-- DMULTU (R537). -/
def execDmultu (rs rt : BitVec 5) (s : State) : Out :=
  hiLoOp64 (fun s => (dproductU (s.rget rs) (s.rget rt)).extractLsb' 64 64)
    (fun s => (dproductU (s.rget rs) (s.rget rt)).extractLsb' 0 64) s

/-- DDIV (R538). -/
def execDdiv (rs rt : BitVec 5) (s : State) : Out :=
  hiLoOp64 (fun s => divResult (s.rget rt == 0#64) .divHi (remS (s.rget rs) (s.rget rt)) s)
    (fun s => divResult (s.rget rt == 0#64) .divLo (quotS (s.rget rs) (s.rget rt)) s) s

/-- DDIVU (R539). -/
def execDdivu (rs rt : BitVec 5) (s : State) : Out :=
  hiLoOp64 (fun s => divResult (s.rget rt == 0#64) .divHi (s.rget rs % s.rget rt) s)
    (fun s => divResult (s.rget rt == 0#64) .divLo (s.rget rs / s.rget rt) s) s

/-- MFHI (R540). -/
def execMfhi (rd : BitVec 5) (s : State) : Out := Res.finishGpr rd (.ok s.hi s)

/-- MFLO (R541). -/
def execMflo (rd : BitVec 5) (s : State) : Out := Res.finishGpr rd (.ok s.lo s)

/-- MTHI (R542): LO is unchanged. -/
def execMthi (rs : BitVec 5) (s : State) : Out := hiLoOp (fun s => s.rget rs) (fun s => s.lo) s

/-- MTLO (R543): HI is unchanged. -/
def execMtlo (rs : BitVec 5) (s : State) : Out := hiLoOp (fun s => s.hi) (fun s => s.rget rs) s

end Sys2Proof.Machine
end

