-- ==== Sys2Proof/Machine/Reject.lean ====
section
/-! DEFINITION. Words that are no instruction (spec/30_encoding.md R405, R406, R410, R413) and the Coprocessor 2
instructions, which always trap (R409; spec/60_exceptions.md R1075). -/

namespace Sys2Proof.Machine

/-- An instruction that always raises `e`. -/
def raise (e : Exc) (s : State) : Out := (Res.exc (α := Unit) e s).finish

/-- What the machine does with a word the decoder rejects (R410, R413): Reserved Instruction; for COP0 and COP1 words
Coprocessor Unusable first, then the refusal of an undefined COP0 function (U16; log 15), Reserved Instruction for an
undefined COP1 *sub* (R406), Unimplemented Operation for an undefined COP1 format or function (R407, R782); an
undefined COP1X function by the COP1X gate, then Reserved Instruction (R408, R412). -/
def execReject (d : DecodeReject) (s : State) : Out :=
  match d with
  | .reservedMajor => raise .reservedInstr s
  | .reservedSpecial => raise .reservedInstr s
  | .reservedRegimm => raise .reservedInstr s
  | .undefinedCop0 => ((needCp0 s).bind fun _ _ => (.refuse .undefinedCop0 : Res Unit)).finish
  | .undefinedCop1Sub => ((needCp1 s).bind fun _ s => (.exc .reservedInstr s : Res Unit)).finish
  | .undefinedCop1Op => (needFpOp false s).finish
  | .undefinedCop1x => ((needCop1x s).bind fun _ s => (.exc .reservedInstr s : Res Unit)).finish

/-! ## Coprocessor 2 (R409) -/

/-- Coprocessor Unusable with CE = 2 when CU2 = 0, Reserved Instruction when CU2 = 1. -/
def cop2Op (s : State) : Out := raise (if s.statusBit 30 then .reservedInstr else .copUnusable 2#2) s

/-- COP2 (R409). -/
def execCop2 (_cofun : BitVec 26) (s : State) : Out := cop2Op s

/-- LWC2 (R409). -/
def execLwc2 (_cofun : BitVec 26) (s : State) : Out := cop2Op s

/-- SWC2 (R409). -/
def execSwc2 (_cofun : BitVec 26) (s : State) : Out := cop2Op s

/-- LDC2 (R409). -/
def execLdc2 (_cofun : BitVec 26) (s : State) : Out := cop2Op s

/-- SDC2 (R409). -/
def execSdc2 (_cofun : BitVec 26) (s : State) : Out := cop2Op s

end Sys2Proof.Machine
end

