-- ==== Sys2Proof/Machine/Trap.lean ====
section
/-! DEFINITION. Conditional traps, SYSCALL and BREAK (spec/44_trap_syscall.md R680 to R694).  The `code` fields are
ignored by the hardware. -/

namespace Sys2Proof.Machine

/-- A conditional trap (R680). -/
def trapOp (c : Bool) (s : State) : Out := (if c then Res.exc .trap s else .ok () s).finish

/-- TGE (R681). -/
def execTge (rs rt : BitVec 5) (_code : BitVec 10) (s : State) : Out := trapOp (!(s.rget rs).slt (s.rget rt)) s

/-- TGEU (R682). -/
def execTgeu (rs rt : BitVec 5) (_code : BitVec 10) (s : State) : Out := trapOp (!(s.rget rs).ult (s.rget rt)) s

/-- TLT (R683). -/
def execTlt (rs rt : BitVec 5) (_code : BitVec 10) (s : State) : Out := trapOp ((s.rget rs).slt (s.rget rt)) s

/-- TLTU (R684). -/
def execTltu (rs rt : BitVec 5) (_code : BitVec 10) (s : State) : Out := trapOp ((s.rget rs).ult (s.rget rt)) s

/-- TEQ (R685). -/
def execTeq (rs rt : BitVec 5) (_code : BitVec 10) (s : State) : Out := trapOp (s.rget rs == s.rget rt) s

/-- TNE (R686). -/
def execTne (rs rt : BitVec 5) (_code : BitVec 10) (s : State) : Out := trapOp (s.rget rs != s.rget rt) s

/-- TGEI (R687). -/
def execTgei (rs : BitVec 5) (imm : BitVec 16) (s : State) : Out := trapOp (!(s.rget rs).slt (sext64 imm)) s

/-- TGEIU (R688): sign-extended, compared unsigned. -/
def execTgeiu (rs : BitVec 5) (imm : BitVec 16) (s : State) : Out := trapOp (!(s.rget rs).ult (sext64 imm)) s

/-- TLTI (R689). -/
def execTlti (rs : BitVec 5) (imm : BitVec 16) (s : State) : Out := trapOp ((s.rget rs).slt (sext64 imm)) s

/-- TLTIU (R690). -/
def execTltiu (rs : BitVec 5) (imm : BitVec 16) (s : State) : Out := trapOp ((s.rget rs).ult (sext64 imm)) s

/-- TEQI (R691). -/
def execTeqi (rs : BitVec 5) (imm : BitVec 16) (s : State) : Out := trapOp (s.rget rs == sext64 imm) s

/-- TNEI (R692). -/
def execTnei (rs : BitVec 5) (imm : BitVec 16) (s : State) : Out := trapOp (s.rget rs != sext64 imm) s

/-- SYSCALL (R693). -/
def execSyscall (_code : BitVec 20) (s : State) : Out := (Res.exc (α := Unit) .syscall s).finish

/-- BREAK (R694). -/
def execBrk (_code : BitVec 20) (s : State) : Out := (Res.exc (α := Unit) .breakpoint s).finish

end Sys2Proof.Machine
end

