-- ==== Sys2Proof/Machine/Jtag.lean ====
section
/-! DEFINITION. The JTAG port (spec/51_errors_jtag_testmode.md R1000 to R1005): the IEEE 1149.1 TAP controller (log 28)
and the registers it reaches; no architectural state. -/

namespace Sys2Proof.Machine

/-- The TAP controller's next state, by JTMS (IEEE 1149.1). -/
def tapNext : TapState → Bool → TapState
  | .testLogicReset, tms => if tms then .testLogicReset else .runTestIdle
  | .runTestIdle, tms => if tms then .selectDr else .runTestIdle
  | .selectDr, tms => if tms then .selectIr else .captureDr
  | .captureDr, tms => if tms then .exit1Dr else .shiftDr
  | .shiftDr, tms => if tms then .exit1Dr else .shiftDr
  | .exit1Dr, tms => if tms then .updateDr else .pauseDr
  | .pauseDr, tms => if tms then .exit2Dr else .pauseDr
  | .exit2Dr, tms => if tms then .updateDr else .shiftDr
  | .updateDr, tms => if tms then .selectDr else .runTestIdle
  | .selectIr, tms => if tms then .testLogicReset else .captureIr
  | .captureIr, tms => if tms then .exit1Ir else .shiftIr
  | .shiftIr, tms => if tms then .exit1Ir else .shiftIr
  | .exit1Ir, tms => if tms then .updateIr else .pauseIr
  | .pauseIr, tms => if tms then .exit2Ir else .pauseIr
  | .exit2Ir, tms => if tms then .updateIr else .shiftIr
  | .updateIr, tms => if tms then .selectDr else .runTestIdle

/-- A reset of the TAP controller (R1000, R1001, R1003): the bypass register is selected and the direction bit, the
last position of the chain model, is 0. -/
def tapReset (j : Jtag) : Jtag :=
  { j with tap := .testLogicReset, ir := 0xF#4, bsr := 0#1 ++ j.bsr.extractLsb' 0 333 }

/-- The instruction register selects the boundary scan register (R1001). -/
def Jtag.scans (j : Jtag) : Bool := j.ir == 0#4 || j.ir == 1#4

/-- What the clock edge does in the controller's state: capture, shift from JTDI to JTDO, or update; `pins` are the
sampled pins. -/
def tapAct (pins : BitVec 334) (tdi : Bool) (j : Jtag) : Jtag :=
  match j.tap with
  | .captureDr => if j.scans then { j with bsrShift := pins } else { j with bypass := false }
  | .shiftDr =>
    if j.scans then
      { j with bsrShift := BitVec.ofBool tdi ++ j.bsrShift.extractLsb' 1 333, tdo := j.bsrShift.getLsbD 0 }
    else { j with bypass := tdi, tdo := j.bypass }
  | .updateDr => if j.scans then { j with bsr := j.bsrShift } else j
  | .captureIr => { j with irShift := 1#4 }
  | .shiftIr => { j with irShift := BitVec.ofBool tdi ++ j.irShift.extractLsb' 1 3, tdo := j.irShift.getLsbD 0 }
  | .updateIr => { j with ir := j.irShift }
  | _ => j

/-- One JTCK cycle. -/
def tapClock (pins : BitVec 334) (tms tdi : Bool) (j : Jtag) : Jtag :=
  let j := tapAct pins tdi j
  if tapNext j.tap tms = .testLogicReset then tapReset j else { j with tap := tapNext j.tap tms }

/-! ## The boundary scan chain (R1004) -/

/-- A cell of the boundary scan register: the pin it belongs to. -/
inductive Pin where
  | scData (i : Nat)
  | scDataChk (i : Nat)
  | scaAddr (i : Nat)
  | scbAddr (i : Nat)
  | scTag (i : Nat)
  | scTagChk (i : Nat)
  | sysAd (i : Nat)
  | sysAdChk (i : Nat)
  | sysCmd (i : Nat)
  | sysResp (i : Nat)
  | sysState (i : Nat)
  | scaDWay | scaDCS | scaDOE | scaDWr | scbDWay | scbDCS | scbDOE | scbDWr | sctCS | sctOE | sctWr | scTagLSBAddr
  | sctWay | sysCyc | sysCmdPar | sysVal | sysReq | sysRel | sysGnt | sysReset | sysRespVal | sysRespPar
  | sysGblPerf | sysRdRdy | sysWrRdy | sysStateVal | sysStatePar | sysCorErr | sysUncErr | sysNMI | spare1
  | triState
deriving DecidableEq, Repr

/-- `n` pins of a bus with rising indices from `i` on. -/
def pinsUp (f : Nat → Pin) (i : Nat) : Nat → List Pin
  | 0 => []
  | n + 1 => f i :: pinsUp f (i + 1) n

/-- `n` pins of a bus with falling indices down to `i`. -/
def pinsDown (f : Nat → Pin) (i : Nat) : Nat → List Pin
  | 0 => []
  | n + 1 => f (i + n) :: pinsDown f i n

/-- The 333 cells in the order of the table, position 1 first.  That every part and revision has the chain of the table, with the
cell TriState that later fabs are to drop (R1004), is the model's choice (log 28). -/
def scanOrder : List Pin :=
  [.scDataChk 1] ++ pinsDown .scData 32 32 ++ pinsUp .sysAd 0 16 ++ pinsUp .scData 0 32 ++ [.scDataChk 0] ++
    pinsDown .scaAddr 9 10 ++ [.scDataChk 2, .scDataChk 4] ++ pinsUp .scData 64 8 ++ [.scDataChk 9, .sysCyc] ++
    pinsUp .sysAd 32 16 ++ pinsUp .scData 72 8 ++ pinsUp .scaAddr 0 9 ++ [.scaDWay, .scaDCS, .scaDOE, .scaDWr] ++
    pinsUp .scData 80 16 ++ [.scDataChk 6, .scDataChk 8, .spare1, .sctCS, .sctOE, .sctWr] ++ pinsDown .scTag 0 26 ++
    [.scTagLSBAddr, .triState, .sctWay] ++ pinsDown .scTagChk 0 7 ++ pinsUp .sysCmd 0 12 ++
    [.sysCmdPar, .sysVal, .sysReq, .sysRel, .sysGnt, .sysReset, .sysRespVal, .sysRespPar] ++ pinsDown .sysResp 0 5 ++
    [.sysGblPerf, .sysRdRdy, .sysWrRdy, .sysStateVal, .sysStatePar] ++ pinsDown .sysState 0 3 ++
    [.sysCorErr, .sysUncErr, .sysNMI, .scDataChk 7, .scDataChk 5] ++ pinsDown .scData 112 16 ++
    [.scbDWr, .scbDOE, .scbDCS, .scbDWay] ++ pinsDown .scbAddr 0 9 ++ pinsDown .scData 104 8 ++
    pinsDown .sysAd 48 16 ++ pinsDown .sysAdChk 0 8 ++ pinsDown .sysAd 16 16 ++ pinsDown .scData 96 8 ++
    [.scDataChk 3] ++ pinsUp .scbAddr 9 10

/-- The bit of the boundary scan register that holds a pin's cell: position 1 is next to JTDI (log 28), behind the
direction bit. -/
def pinBit (p : Pin) : Option Nat :=
  if scanOrder.contains p then some (332 - scanOrder.idxOf p) else none

end Sys2Proof.Machine
end

