-- ==== Sys2Proof/Machine/Tick.lean ====
section
/-! DEFINITION. What advances with every step (spec/60_exceptions.md R1043): Count and its comparator
(spec/11_cp0_registers.md R97, R98) and the performance counters (spec/12_cp0_diag_perf_cache_regs.md R173 to R187). -/

namespace Sys2Proof.Machine

/-! ## Count -/

/-- Count after `d` ticks; reaching Compare on the way, or turning round past it, sets the timer latch (R97, R98).  That
Compare is watched at every tick inside a step of many is the model's choice (log 25). -/
def tickCount (d : Nat) (c : Cp0) : Cp0 :=
  let gap := (c.compare - c.count).toNat
  { c with count := c.count + BitVec.ofNat 32 d
           timerLatch := c.timerLatch || decide ((if gap = 0 then 2 ^ 32 else gap) ≤ d) }

/-! ## Performance events -/

/-- The classes of instruction that the performance events tell apart (R176, R186). -/
inductive PerfClass where
  | load
  | store
  | storeConditional
  | prefetch
  | sync
  | cacheOp
  /-- A CACHE operation of the data or the secondary cache (log 26). -/
  | dataCacheOp
  | mulDiv
  /-- Sets the FCR31 exception bits (R176 event 5). -/
  | floating
  | branch
  | other
deriving DecidableEq, Repr

/-- The class of an instruction. -/
def perfClass : Instr → PerfClass
  | .lb .. | .lbu .. | .lh .. | .lhu .. | .lw .. | .lwu .. | .ld .. | .lwl .. | .lwr .. | .ldl .. | .ldr .. | .ll ..
  | .lld .. | .lwc1 .. | .ldc1 .. | .lwxc1 .. | .ldxc1 .. => .load
  | .sb .. | .sh .. | .sw .. | .sd .. | .swl .. | .swr .. | .sdl .. | .sdr .. | .swc1 .. | .sdc1 .. | .swxc1 ..
  | .sdxc1 .. => .store
  | .sc .. | .scd .. => .storeConditional
  | .pref .. | .prefx .. => .prefetch
  | .sync .. => .sync
  | .cache _ op _ => if op.extractLsb' 0 2 = 0#2 then .cacheOp else .dataCacheOp
  | .mult .. | .multu .. | .dmult .. | .dmultu .. | .div .. | .divu .. | .ddiv .. | .ddivu .. => .mulDiv
  | .beq .. | .bne .. | .blez .. | .bgtz .. | .bltz .. | .bgez .. | .bltzal .. | .bgezal .. | .beql .. | .bnel ..
  | .blezl .. | .bgtzl .. | .bltzl .. | .bgezl .. | .bltzall .. | .bgezall .. | .bc1f .. | .bc1t .. | .bc1fl ..
  | .bc1tl .. => .branch
  | .ctc1 .. | .addS .. | .addD .. | .subS .. | .subD .. | .mulS .. | .mulD .. | .divS .. | .divD .. | .sqrtS ..
  | .sqrtD .. | .absS .. | .absD .. | .movS .. | .movD .. | .negS .. | .negD .. | .roundLS .. | .roundLD ..
  | .truncLS .. | .truncLD .. | .ceilLS .. | .ceilLD .. | .floorLS .. | .floorLD .. | .roundWS .. | .roundWD ..
  | .truncWS .. | .truncWD .. | .ceilWS .. | .ceilWD .. | .floorWS .. | .floorWD .. | .cvtSD .. | .cvtSW ..
  | .cvtSL .. | .cvtDS .. | .cvtDW .. | .cvtDL .. | .cvtWS .. | .cvtWD .. | .cvtLS .. | .cvtLD .. | .movfS ..
  | .movfD .. | .movtS .. | .movtD .. | .movzS .. | .movzD .. | .movnS .. | .movnD .. | .recipS .. | .recipD ..
  | .rsqrtS .. | .rsqrtD .. | .maddS .. | .maddD .. | .msubS .. | .msubD .. | .nmaddS .. | .nmaddD .. | .nmsubS ..
  | .nmsubD .. | .cFS .. | .cUnS .. | .cEqS .. | .cUeqS .. | .cOltS .. | .cUltS .. | .cOleS .. | .cUleS .. | .cSfS ..
  | .cNgleS .. | .cSeqS .. | .cNglS .. | .cLtS .. | .cNgeS .. | .cLeS .. | .cNgtS .. | .cFD .. | .cUnD .. | .cEqD ..
  | .cUeqD .. | .cOltD .. | .cUltD .. | .cOleD .. | .cUleD .. | .cSfD .. | .cNgleD .. | .cSeqD .. | .cNglD ..
  | .cLtD .. | .cNgeD .. | .cLeD .. | .cNgtD .. => .floating
  | _ => .other

/-- What one step did, as the performance events see it. -/
structure StepRecord where
  /-- The class of the instruction that graduated, if one did. -/
  graduated : Option PerfClass
  /-- A store-conditional graduated and failed. -/
  scFailed  : Bool
  /-- A TLB Refill exception was taken. -/
  refill    : Bool
  events    : CacheEvents
  /-- The step number. -/
  n         : Nat
deriving DecidableEq, Repr

/-- The record of a step from `pre` to `post` that executed `i` (none: an exception or event came first). -/
def stepRecord (pre post : State) (i : Option Instr) : StepRecord :=
  let done := post.note == .done
  let cls := i.map perfClass
  { graduated := if done then cls else none
    scFailed := done && cls == some .storeConditional && !pre.llbit
    refill := match post.note with
      | .raised (.tlbRefill _ _) => true
      | _ => false
    events := post.events
    n := pre.steps }

/-- One if the graduated instruction is of one of these classes. -/
def StepRecord.ofClass (r : StepRecord) (cs : List PerfClass) : Nat :=
  match r.graduated with
  | some c => if cs.contains c then 1 else 0
  | none => 0

/-- Instructions graduated; a multiply or divide counts as two (R176, R186). -/
def StepRecord.count (r : StepRecord) : Nat :=
  match r.graduated with
  | some .mulDiv => 2
  | some _ => 1
  | none => 0

/-- Requests entered into the SCTP logic on behalf of the data cache: misses, ownership for a store that hit a clean line,
CACHE operations of the data and the secondary cache (R176 event 9, R186 event 25; log 26). -/
def StepRecord.dataRequests (r : StepRecord) : Nat :=
  r.events.dcMiss + r.events.dcClean + r.ofClass [.dataCacheOp]

/-- What event `e` of counter 0 (`c = false`) or 1 of the R10000 adds in a step (R174, R176).  Events defined by the
pipeline alone are the environment's (R187; log 26). -/
def perfEvent10k (r : StepRecord) (c : Bool) (e : Nat) : Nat :=
  let ev := r.events
  match c, e with
  | false, 5 => r.scFailed.toNat
  | false, 6 => r.ofClass [.branch]
  | false, 7 => ev.quadsS
  | false, 8 => ev.eccFixed
  | false, 9 => ev.icMiss
  | false, 10 => ev.scFillI
  | false, 11 => ev.wayMissI
  | false, 12 => ev.ivn
  | false, 13 => ev.inv
  | false, 15 => r.count
  | true, 1 => r.count
  | true, 2 => r.ofClass [.load, .prefetch, .sync, .cacheOp, .dataCacheOp]
  | true, 3 => r.ofClass [.store, .storeConditional]
  | true, 4 => r.ofClass [.storeConditional]
  | true, 5 => r.ofClass [.floating]
  | true, 6 => ev.quadsD
  | true, 7 => r.refill.toNat
  | true, 9 => r.dataRequests
  | true, 10 => ev.scFillD
  | true, 11 => ev.wayMissD
  | true, 12 => (ev.ivnHit != 0#2).toNat
  | true, 13 => (ev.invHit != 0#2).toNat
  | true, 14 => ev.upClean
  | true, 15 => ev.upShared
  | _, _ => Config.perfEvent (16 * c.toNat + e) r.n

/-- What an event of the R12000 and R12000A has as its value in a step (R180, R186). -/
def perfEvent12k (r : StepRecord) (e : Nat) : Nat :=
  let ev := r.events
  match e with
  | 5 => r.scFailed.toNat
  | 6 => r.ofClass [.branch]
  | 7 => ev.quadsS
  | 8 => ev.eccFixed
  | 9 => ev.icMiss
  | 10 => ev.scMissI
  | 11 => ev.wayMissI
  | 12 => ev.ivn
  | 13 => ev.inv
  | 14 => 0
  | 15 => r.count
  | 16 => ev.prefTags
  | 17 => ev.prefTags * ev.prefFills
  | 18 => r.ofClass [.load, .prefetch]
  | 19 => r.ofClass [.store, .storeConditional]
  | 20 => r.ofClass [.storeConditional]
  | 21 => r.ofClass [.floating]
  | 22 => ev.quadsD
  | 23 => r.refill.toNat
  | 25 => r.dataRequests
  | 26 => ev.scMissD
  | 27 => ev.wayMissD
  | 28 => ev.ivnHit.toNat
  | 29 => ev.invHit.toNat
  | 30 => ev.upClean
  | 31 => ev.upShared
  | _ => Config.perfEvent (32 + e) r.n

/-! ## Counting -/

/-- `count_enabled` (R173), by the Status the step began with. -/
def countEnabled (status ctl : Word) : Bool :=
  let ksu := status.extractLsb' 3 2
  let exl := status.getLsbD 1
  !status.getLsbD 2 &&
    (ctl.getLsbD 3 && ksu == 2#2 && !exl || ctl.getLsbD 2 && ksu == 1#2 && !exl ||
      ctl.getLsbD 1 && ksu == 0#2 && !exl || ctl.getLsbD 0 && exl)

/-- The increment of a counter of the R12000 from its event value (R181, R182): for events 28 and 29 the sense of
bit 14 is reversed. -/
def conditionalInc (ctl : Word) (event v : Nat) : Nat :=
  let cond := (ctl.extractLsb' 10 3).toNat
  let inverted := if event = 28 ∨ event = 29 then !ctl.getLsbD 14 else ctl.getLsbD 14
  if inverted then (v != cond).toNat
  else if ctl.getLsbD 13 then (v == cond).toNat
  else v

/-- What a counter adds in a step. -/
def perfInc (s : State) (r : StepRecord) (n : Fin 4) : Nat :=
  let ctl := s.cp0.perf.ctl.get n
  if !countEnabled s.cp0.status ctl then 0
  else if s.isR12k then
    let event := (ctl.extractLsb' 5 5).toNat
    conditionalInc ctl event (perfEvent12k r event)
  else if 2 ≤ n.val then 0
  else perfEvent10k r (n.val == 1) (ctl.extractLsb' 5 4).toNat

/-- A counter with an amount added. -/
def addCounter (p : Perf) (n : Fin 4) (d : Nat) : Perf :=
  if d = 0 then p else { p with cnt := p.cnt.set n (p.cnt.get n + BitVec.ofNat 32 d) }

/-- Counter 1 after an accepted trigger (R183): the low half reloaded, bit 16 set, bits 31:17 incremented. -/
def triggerCounter (p : Perf) : Perf :=
  let c := p.cnt.get 1
  { p with cnt := p.cnt.set 1 ((c.extractLsb' 17 15 + 1#15) ++ 1#1 ++ p.reload) }

/-- Counter 1 counting in an open window: the carry out of the low half clears bit 16 (R183). -/
def windowCounter (p : Perf) (d : Nat) : Perf :=
  let c := p.cnt.get 1
  let low := (c.extractLsb' 0 16).toNat + d
  let still := BitVec.ofBool (decide (low < 2 ^ 16))
  { p with cnt := p.cnt.set 1 (c.extractLsb' 17 15 ++ still ++ BitVec.ofNat 16 low) }

/-- Triggered counting (R183): counter 2 watches for the trigger, counters 0 and 1 count while bit 16 of counter 1 is
set; with One Shot an open window ignores triggers.  A trigger comes exactly when counter 2 would increment (log 63). -/
def triggeredPerf (p : Perf) (oneShotOnly : Bool) (d0 d1 d2 d3 : Nat) : Perf :=
  let opened := (p.cnt.get 1).getLsbD 16
  let p2 := addCounter (addCounter p 2 d2) 3 d3
  let p2 := if opened then addCounter p2 0 d0 else p2
  if d2 ≠ 0 ∧ (opened = false ∨ oneShotOnly = false) then triggerCounter p2
  else if opened then windowCounter p2 d1
  else p2

/-- The performance registers after a step (R173 to R187), with the enables of the state `s` it began with.  With both
trigger bits set the mode is Open Trigger (log 63). -/
def tickPerf (s : State) (r : StepRecord) (p : Perf) : Perf :=
  let c0 := s.cp0.perf.ctl.get 0
  if s.isR12k && (c0.getLsbD 15 || c0.getLsbD 16) then
    triggeredPerf p (!c0.getLsbD 16) (perfInc s r 0) (perfInc s r 1) (perfInc s r 2) (perfInc s r 3)
  else
    addCounter (addCounter (addCounter (addCounter p 0 (perfInc s r 0)) 1 (perfInc s r 1)) 2 (perfInc s r 2)) 3
      (perfInc s r 3)

/-- Whether the next instruction is the delay slot of a conditional branch (R164): `i` is one that has not left its slot
behind; an instruction to be tried again stays where it is, and so does one that only an event of the environment
comes before. -/
def nextInSlot (pre : State) (i : Option Instr) (post : State) : Bool :=
  match post.note, i with
  | .waiting, _ => pre.cp0.diag.inSlot
  | .done, none => post.cp0.diag.inSlot && post.pc == pre.pc
  | _, _ => i.map perfClass == some .branch && post.pc == pre.pc + 4#64

/-- The end of a step that began in `pre` and executed `i` (R1043): the counters advance. -/
def tick (pre : State) (i : Option Instr) (post : State) : State :=
  let c := tickCount (Config.countStep pre.steps) post.cp0
  { post with cp0 := { c with perf := tickPerf pre (stepRecord pre post i) c.perf
                              diag := { c.diag with inSlot := nextInSlot pre i post } }
              steps := pre.steps + 1 }

end Sys2Proof.Machine
end

