-- ==== Sys2Proof/Machine/Speculate.lean ====
section
/-! DEFINITION. Speculation (spec/70_reset_and_hazards.md R1150 to R1155; log 64): how far the processor may run ahead of the
instruction at the pc, along which instructions and with which registers, and what an aborted instruction leaves in the
caches and on the bus. -/

namespace Sys2Proof.Machine

/-! ## Running ahead -/

/-- The word at a virtual address as a fetch would find it, without a trace. -/
def peekWord (va : DWord) (s : State) : Option Word :=
  match translate s va .fetch with
  | .ok x _ =>
    let memory := (valueOfBytes s.bigEndianMem (readBytes s.physByte x.pa.toNat 4)).setWidth 32
    if isCached x.ca then
      match iHit s x.va x.pa with
      | some w => some (s.iword (iSet x.va) w (x.va.extractLsb' 2 4).toNat).word
      | none =>
        match (lookupSecondary x.pa s).1.1 with
        | some w =>
          (quadsWords s.bigEndianMem [(s.squad (sSet s.hw x.pa) w (quadOf s.hw x.pa)).data])[x.pa.toNat / 4 % 4]?
        | none => some memory
    else some memory
  | _ => none

/-- The instruction at a virtual address: none where nothing can be fetched or the word is reserved. -/
def peekInstr (va : DWord) (s : State) : Option Instr :=
  match peekWord va s with
  | some w =>
    match decode w with
    | .ok i => some i
    | .error _ => none
  | none => none

/-- The instructions taken as serializing (R1153). -/
def serializes : Instr → Bool
  | .mfc0 .. | .mtc0 .. | .dmfc0 .. | .dmtc0 .. | .tlbr | .tlbwi | .tlbwr | .tlbp | .eret | .cache .. | .ctc1 ..
  | .cfc1 .. => true
  | _ => false

/-- The instruction at a virtual address serializes: no request is made for an instruction after it before it graduates
(R1153). -/
def serializedAt (va : DWord) (s : State) : Bool := (peekInstr va s).any serializes

/-- The processor running ahead. -/
structure Ahead where
  /-- The state that the instructions run so far would leave, their pc and their registers: a copy, of which nothing stays. -/
  state   : State
  /-- Branches and register jumps mispredicted so far. -/
  wrong   : Nat
  /-- An instruction run so far leaves a result that the spec does not give (log 64). -/
  garbled : Bool
deriving DecidableEq, Repr

/-- The copy of the machine that the processor runs ahead in: no event comes and no request is held back. -/
def shadow (s : State) : State :=
  { s with note := .done
           ext := { s.ext with inbox := [], replies := [], outstanding := [], cluster := [], readsHeld := false,
                               writesHeld := false, posted := .none } }

/-- Where an instruction can be mispredicted to: a branch to its other way, a likely branch to its target alone, since it is
always predicted as taken, a register jump anywhere (R1151, R1154, R1155). -/
def mispredicts (s : State) (dest : DWord) : Instr → Bool
  | .jr .. | .jalr .. => true
  | .beq _ _ o | .bne _ _ o | .blez _ o | .bgtz _ o | .bltz _ o | .bgez _ o | .bltzal _ o | .bgezal _ o | .bc1f _ o
  | .bc1t _ o => dest == s.branchTarget o || dest == s.pc + 8#64
  | .beql _ _ o | .bnel _ _ o | .blezl _ o | .bgtzl _ o | .bltzl _ o | .bgezl _ o | .bltzall _ o | .bgezall _ o
  | .bc1fl _ o | .bc1tl _ o => dest == s.branchTarget o
  | _ => false

/-- Where an instruction that was run really goes after its delay slot. -/
def realTarget (before after : State) : DWord := after.delaySlot.getD (before.pc + 8#64)

/-- The processor goes on behind an instruction that would raise an exception, wait or stop (R1150): it leaves no result, or
one that the spec does not give. -/
def passOver (garbled : Bool) (a : Ahead) : Ahead :=
  { a with state := { a.state with pc := a.state.delaySlot.getD (a.state.pc + 4#64), delaySlot := none }
           garbled := a.garbled || garbled }

/-- The exception of an operation that has computed a result. -/
def Exc.afterResult : Exc → Bool
  | .overflow => true
  | .floatingPoint => true
  | _ => false

/-- One instruction run ahead, predicted right, or with an address mispredicted to it; at most four are mispredicted (R1150),
and one that serializes lets no reference behind it be made (R1153). -/
def runOne (turn : Option DWord) (a : Ahead) : Option Ahead :=
  match peekWord a.state.pc a.state, peekInstr a.state.pc a.state with
  | none, _ => none
  | some _, none => if turn.isNone then some (passOver false a) else none
  | some _, some i =>
    if serializes i then none
    else
      match exec i a.state, turn with
      | .next t, none =>
        match t.note with
        | .done => some { a with state := t }
        | .raised e => some (passOver e.afterResult a)
        | .waiting => some (passOver false a)
      | .next t, some dest =>
        if t.note = .done ∧ mispredicts a.state dest i = true ∧ dest ≠ realTarget a.state t ∧ a.wrong < 4 then
          some { a with state := { t with pc := a.state.pc + 4#64, delaySlot := some dest }, wrong := a.wrong + 1 }
        else none
      | _, none => some (passOver true a)
      | _, some _ => none

/-- The processor runs ahead past the instructions of `path`. -/
def runAhead : List (Option DWord) → Ahead → Option Ahead
  | [], a => some a
  | turn :: path, a => (runOne turn a).bind fun a => runAhead path a

/-- How many instructions the processor holds beyond the one that graduates (R1150), with the 12 that may be fetched and not
yet decoded (R1154): the R10000 has the 12 of the R12000 by the model's choice (log 64). -/
def aheadLimit (s : State) (kind : AccessKind) : Nat :=
  (if s.isR12k then 48 else 32) + if kind = .fetch then 12 else 0

/-- The data reference of an instruction: its kind, that of a prefetch by its hint (R591), and its address. -/
def dataRef (s : State) : Instr → Option (AccessKind × DWord)
  | .lb b _ o | .lbu b _ o | .lh b _ o | .lhu b _ o | .lw b _ o | .lwu b _ o | .ld b _ o | .lwl b _ o | .lwr b _ o
  | .ldl b _ o | .ldr b _ o | .ll b _ o | .lld b _ o | .lwc1 b _ o | .ldc1 b _ o => some (.load, s.ea b o)
  | .lwxc1 b x _ | .ldxc1 b x _ => some (.load, s.rget b + s.rget x)
  | .sb b _ o | .sh b _ o | .sw b _ o | .sd b _ o | .swl b _ o | .swr b _ o | .sdl b _ o | .sdr b _ o | .sc b _ o
  | .scd b _ o | .swc1 b _ o | .sdc1 b _ o => some (.store, s.ea b o)
  | .swxc1 b x _ | .sdxc1 b x _ => some (.store, s.rget b + s.rget x)
  | .pref b h o => (prefetchHint h).map fun store => (if store then .store else .load, s.ea b o)
  | .prefx b x h => (prefetchHint h).map fun store => (if store then .store else .load, s.rget b + s.rget x)
  | _ => none

/-- The instruction that the processor has run ahead to makes this reference: the fetch of itself, or that of its data, at the
address its registers give or, after a garbled result, at any (R1151). -/
def makes (a : Ahead) (kind : AccessKind) (va : DWord) : Bool :=
  match kind with
  | .fetch => a.state.pc == va
  | _ =>
    match (peekInstr a.state.pc a.state).bind (dataRef a.state) with
    | some (k, at') => k == kind && (a.garbled || at' == va)
    | none => false

/-- The processor may have run ahead along `path` to an instruction that makes this reference: the instruction then. -/
def reached (s : State) (path : List (Option DWord)) (kind : AccessKind) (va : DWord) : Option Ahead :=
  if path.length < aheadLimit s kind then
    (runAhead path { state := shadow s, wrong := 0, garbled := false }).filter fun a => makes a kind va
  else none

/-! ## What an aborted instruction leaves -/

/-- DSD: a store marks no block Dirty before it graduates (R1138).  That Status[24] acts in every mode and Config[24] in User
mode alone is the model's choice (log 71). -/
def dsdActive (s : State) : Bool :=
  s.isR12k && (s.statusBit 24 || (s.hw.modeBits.getLsbD 24 && s.mode == .user))

/-- The state that a piece of an aborted instruction leaves: its result and its exception are gone, its work on the caches
stays (R1150). -/
def Res.left {α : Type} (s : State) : Res α → State
  | .ok _ t => t
  | .exc _ t => t
  | .retry t => t
  | .fault _ => s
  | .refuse _ => s

/-- The request of an aborted instruction: as a prefetch, it raises nothing. -/
def specReq (x : Xlate) (kind : AccessKind) (s : State) : CReq :=
  { va := x.va, pa := x.pa, ca := x.ca, kind := kind,
    cause := match kind with
      | .fetch => 0#2
      | .load => 1#2
      | .store => 1#2
    upCause := 1#2, excl := kind = .store, upState := if dsdActive s then 2#2 else 3#2, pref := true }

/-- An aborted store: the line is refilled and marked Dirty, its data unchanged (R1152); under DSD it stays
CleanExclusive (R1138). -/
def specStore (a : CReq) (s : State) : State :=
  match dAccess a s with
  | .ok (some w) t =>
    if dsdActive s then t else setBlockState 3#2 (sSet t.hw a.pa) (t.dtag (dSet a.va) w).way t
  | r => r.left s

/-- The reference of an aborted prefetch (R591): exclusive for a store hint. -/
def specPrefetch (x : Xlate) (kind : AccessKind) (s : State) : CReq :=
  { specReq x .load s with cause := 3#2, upCause := 3#2, excl := kind = .store }

/-- An instruction that the processor has run ahead to along `path`, and that is then aborted, references `va` (R1150): under
a cached translation only; an R12000 delays a cached noncoherent load until it is no longer speculative (R1138). -/
def speculate (path : List (Option DWord)) (kind : AccessKind) (va : DWord) (s : State) : State :=
  match reached s path kind va with
  | none => s
  | some a =>
    let prefetches := (peekInstr a.state.pc a.state).any fun i => perfClass i == .prefetch
    match translate s va (if prefetches = true ∧ kind = .store then .load else kind) with
    | .ok x _ =>
      if s.ext.hung || !isCached x.ca || dRefilling s x.va x.pa then s
      else
        match kind with
        | .fetch => (cachedFetch (specReq x .fetch s) s).left s
        | .load =>
          if prefetches then (dAccess (specPrefetch x .load s) s).left s
          else if s.isR12k && x.ca == 3#3 then s
          else (dAccess (specReq x .load s) s).left s
        | .store =>
          if prefetches then (dAccess (specPrefetch x .store s) s).left s else specStore (specReq x .store s) s
    | _ => s

/-- The fetch runs `k` instructions ahead through uncached memory, at most 12 and none of them serializing (R1153, R1154,
U35).  The 12 are the R12000's; that an R10000 runs as far is the model's choice (log 64). -/
def fetchAhead (k : Nat) (s : State) : State :=
  if s.ext.hung || k == 0 || 12 < k || (List.range k).any fun j => serializedAt (s.pc + BitVec.ofNat 64 (4 * j)) s then s
  else
    match translate s (s.pc + BitVec.ofNat 64 (4 * k)) .fetch with
    | .ok x _ => if isUncached x.ca then (uncachedRead true .fetch 0#2 x.pa 4 x.uc s).left s else s
    | _ => s

end Sys2Proof.Machine
end

