-- ==== Sys2Proof/Machine/Env.lean ====
section
/-! DEFINITION. What the environment does to the processor between two steps (spec/00_scope.md R19;
spec/50_system_interface.md R977): the reset sequences (spec/70_reset_and_hazards.md R1130 to R1136), external
requests (R940, R958, R966), injected errors (spec/51_errors_jtag_testmode.md R992), JTAG and the cache test mode
(R1020 to R1027). -/

namespace Sys2Proof.Machine

/-! ## Resets -/

/-- A mode-bit field has a reserved value: Kseg0CA, SysClkDiv, SCSize or SCClkDiv (R1136).  Other reserved bits are accepted
by the model's choice (log 37). -/
def reservedMode (v : Variant) (m : BitVec 64) : Bool :=
  let ca := (m.extractLsb' 0 3).toNat
  let sys := (m.extractLsb' 9 4).toNat
  let size := (m.extractLsb' 16 3).toNat
  let sc := (m.extractLsb' 19 3).toNat
  ca == 0 || ca == 1 || ca == 6 || size == 6 || size == 7 ||
    match v with
    | .r10000 => sys == 0 || 8 ≤ sys || sc == 0 || 6 ≤ sc
    | .r12000 => sys ≤ 2 || 12 ≤ sys || sc ≤ 1 || sc == 6
    | .r12000A => sys ≤ 2 || 13 ≤ sys || sc ≤ 1 || sc == 6

/-- The R12000 and R12000A reset the TAP controller with SysReset* (R1000). -/
def resetTap (r12k : Bool) (j : Jtag) : Jtag := if r12k then tapReset j else j

/-- The boundary after a reset sequence: the external interface state, the outstanding requests and the buffers are lost
(R1132, R1133). -/
def resetExt (s : State) : Ext :=
  { s.ext with outgoing := [], outstanding := [], cluster := [], probes := [], forwarded := [], busErr := none,
               fifo := [], gathered := [], gather := none, posted := .none, intWait := 0, hung := false,
               jtag := resetTap s.isR12k s.ext.jtag }

/-- The cache test mode as it is entered: what its registers hold is undefined (R1027). -/
def enterTest (s : State) : TestMode :=
  { active := true, lastAddr := (s.free .testAddr).setWidth 12, lastWay := (s.free .testWay).getLsbD 0,
    lastData := (s.free .testData).setWidth 40 }

/-- Power-on or Cold Reset (R1130, R1131) with these mode bits: the registers as after State.reset, ErrorEPC the pc;
memory and the caches keep their contents (R360, R1020).  With CTM asserted the cache test mode begins. -/
def coldReset (m : BitVec 64) (s : State) : Res Unit :=
  if reservedMode s.hw.variant m then .refuse .reservedModeBits
  else
    let hw := { s.hw with modeBits := m }
    .ok () (State.cold hw s.pc s.mem s.caches
      { resetExt s with nmiLatch := false, test := if hw.ctm then enterTest s else { s.ext.test with active := false } } (s.steps + 1))

/-- A data cache tag left in the refill state (R1132). -/
def leaveRefilling (s : State) (key : Nat) : State :=
  let set := key / 2 % 512
  let w := key % 2 == 1
  s.setDtag set w { s.dtag set w with mod := 2#3 }

/-- CacheErr after a Soft Reset: it shows the bus error that hung the processor (R989), else what it held. -/
def resetCacheErr (s : State) : Word :=
  match s.ext.hung, s.ext.posted.sysif with
  | true, some v => v ||| (s.cp0.cacheErr &&& s.hw.ewBit)
  | _, _ => s.cp0.cacheErr

/-- Soft Reset (R1132, R1133); `refilling` are the data cache tags it leaves in the refill state. -/
def softReset (refilling : List Nat) (s : State) : State :=
  let c := { s.cp0 with
    errorEpc := s.restart
    status := (s.cp0.status &&& ~~~0x00280000#32) ||| 0x00500004#32
    interrupt := 0#5
    watchPending := false
    diag := { s.cp0.diag with inSlot := false }
    cacheErr := resetCacheErr s }
  refilling.foldl leaveRefilling
    { s with cp0 := c, ext := resetExt s, llbit := (s.free .llAfterReset).getLsbD 0, delaySlot := none,
             pc := resetVector, sctp := .none }

/-- NMI (R1134). -/
def takeNmi (s : State) : State :=
  { s with
    cp0 := { s.cp0 with errorEpc := s.restart
                        status := (s.cp0.status &&& ~~~0x00200000#32) ||| 0x00580004#32
                        diag := { s.cp0.diag with inSlot := false } }
    ext := { s.ext with posted := .none, nmiLatch := false }
    llbit := false
    delaySlot := none
    pc := resetVector }

/-! ## Interrupts and Cache Errors -/

/-- An external interrupt request (R940): the enabled Interrupt bits take the given values. -/
def extInterrupt (ad : BitVec 64) (s : State) : State :=
  if ad.getLsbD (60 + s.hw.devNum.toNat) then
    let en := ad.extractLsb' 16 5
    s.setCp0 { s.cp0 with interrupt := (s.cp0.interrupt &&& ~~~en) ||| (ad.extractLsb' 0 5 &&& en) }
  else s

/-- The interrupt condition (R1080). -/
def interruptCondition (s : State) : Bool :=
  s.statusBit 0 && !s.statusBit 1 && !s.statusBit 2 && (s.ip &&& s.cp0.status.extractLsb' 8 8) != 0#8

/-- Whether an interrupt is taken now, and the state with the latency counted (R1086; log 27). -/
def interruptNow (s : State) : Bool × State :=
  if !interruptCondition s then (false, { s with ext := { s.ext with intWait := 0 } })
  else
    match s.ext.intWait, s.ext.intDelays with
    | 0, [] => (true, s)
    | 0, d :: ds => (d == 0, { s with ext := { s.ext with intDelays := ds, intWait := d } })
    | 1, _ => (true, { s with ext := { s.ext with intWait := 0 } })
    | n + 2, _ => (false, { s with ext := { s.ext with intWait := n + 1 } })

/-- The posted Cache Error that goes first (R1061). -/
def PostedErrors.first (p : PostedErrors) : Option (CacheUnit × BitVec 32) :=
  match p.icache, p.dcache, p.scache, p.sysif with
  | .some v, _, _, _ => .some (.icache, v)
  | .none, .some v, _, _ => .some (.dcache, v)
  | .none, .none, .some v, _ => .some (.scache, v)
  | .none, .none, .none, .some v => .some (.sysif, v)
  | .none, .none, .none, .none => .none

/-- The Cache Error exception (R1060, R208): CacheErr from the local register, EW sticky; the error-level entry. -/
def takeCacheError (u : CacheUnit) (v : BitVec 32) (s : State) : State :=
  errorEntry (if s.statusBit 22 then 0xFFFFFFFFBFC00300#64 else 0xFFFFFFFFA0000100#64)
    { s with cp0 := { s.cp0 with cacheErr := v ||| (s.cp0.cacheErr &&& s.hw.ewBit) }
             ext := { s.ext with posted := s.ext.posted.put u none } }

/-! ## Coherency requests (R958 to R966) -/

/-- An external intervention or invalidate breaks the link on its block (R259). -/
def breakLinkOn (pa : PAddr) (s : State) : State :=
  if s.llblock = s.hw.blockBase pa then { s with llbit := false } else s

/-- The interrogation of the data cache sets that may hold lines of a block checks their tags (R982, R985). -/
def interrogate (vindex : BitVec 2) (pa : PAddr) : Nat → State → Bool × State
  | 0, s => (false, s)
  | n + 1, s =>
    let set := dSetAt vindex pa
    let (bad, s) := checkDSet set (BitVec.ofNat 11 (set * 4)) s
    let (bads, s) := interrogate vindex (pa + 32#40) n s
    (bad || bads, s)

/-- The data response of a DirtyExclusive block goes to the special entry of the outgoing buffer, every doubleword flagged after
a tag error (R913, R960, R982). -/
def respondData (c : Probe) (set : Nat) (w tagBad : Bool) (st : BitVec 2) (s : State) : State :=
  let (qs, s) := readQuads c.pa set w 0 (sQuads s.hw) s
  s.pend (.dataResponse false c.rq c.pa (flaggedDwords (qs.map fun q => (q.1, q.2 || tagBad))) st)

/-- An intervention shared on the block in way `w` (R359, R966). -/
def shareBlock (c : Probe) (set : Nat) (w bad : Bool) (s : State) : State :=
  let t := s.ctag set w
  let n := 2 ^ (s.hw.blkLog - 5)
  let (primaryBad, s) := interrogate t.vindex (s.hw.blockBase c.pa) n s
  let s := flushPrimary t.vindex (s.hw.blockBase c.pa) n s
  let s := if t.st = 3#2 then respondData c set w (bad || primaryBad) 1#2 s else s
  setBlockState 1#2 set w s

/-- An intervention exclusive (`supply`) or an invalidate on the block in way `w` (R359, R966). -/
def surrenderBlock (supply : Bool) (c : Probe) (set : Nat) (w bad : Bool) (s : State) : State :=
  let t := s.ctag set w
  let (primaryBad, s) := interrogate t.vindex (s.hw.blockBase c.pa) (2 ^ (s.hw.blkLog - 5)) s
  let s := purgePrimary true t.vindex (s.hw.blockBase c.pa) s
  let s := if supply = true ∧ t.st = 3#2 then respondData c set w (bad || primaryBad) 3#2 s else s
  s.setStag set w (STag.of t.tag t.vindex 0#2)

/-- What a coherency request makes of the typical entry `r` of the outgoing buffer (R913, R967): the former state answered,
and what becomes of the entry.  A block write turns into a data response for an intervention, in the same entry; else the entry goes. -/
def probeEntry (supply : Bool) (c : Probe) : BusReq → BitVec 2 × List BusReq
  | .blockWrite _ data _ => (3#2, if supply then [.dataResponse true c.rq c.pa data 3#2] else [])
  | .eliminate _ former _ => (if former = 1#2 then 1#2 else 2#2, [])
  | r => (0#2, [r])

/-- The eviction pending issue that a coherency request hits. -/
def probeHit (c : Probe) (s : State) : Option BusReq :=
  s.ext.outgoing.find? fun r => r.isEviction && r.evicts s.hw (s.hw.blockBase c.pa)

/-- The outgoing buffer with what a coherency request puts in the place of an entry. -/
def replaceEntry (r : BusReq) (new : List BusReq) (s : State) : State :=
  { s with ext := { s.ext with outgoing := s.ext.outgoing.erase r ++ new } }

/-- A coherency request (R959, R966, R967): it breaks the link; a typical entry of the outgoing buffer, else the secondary
tags, give the former state that is answered; then `act` on a block that hit. -/
def coherencyRequest (supply : Bool) (c : Probe) (note : BitVec 2 → CacheEvents → CacheEvents)
    (act : Nat → Bool → Bool → State → State) (s : State) : State :=
  let s := breakLinkOn c.pa s
  match probeHit c s with
  | some r =>
    let (former, new) := probeEntry supply c r
    replaceEntry r new ((s.emit (.stateResponse false former)).count (note 0#2))
  | none =>
    let ((hit, bad), s) := lookupSecondary (s.hw.blockBase c.pa) s
    match hit with
    | none => (s.emit (.stateResponse bad 0#2)).count (note 0#2)
    | some w =>
      let set := sSet s.hw c.pa
      let st := (s.ctag set w).st
      act set w bad ((s.emit (.stateResponse bad st)).count (note st))

/-- A coherency request is performed (R966). -/
def performProbe (c : Probe) (s : State) : State :=
  match c.kind with
  | .shared => coherencyRequest true c (fun st e => { e with ivn := e.ivn + 1, ivnHit := st }) (shareBlock c) s
  | .exclusive => coherencyRequest true c (fun st e => { e with ivn := e.ivn + 1, ivnHit := st }) (surrenderBlock true c) s
  | .invalidate => coherencyRequest false c (fun st e => { e with inv := e.inv + 1, invHit := st }) (surrenderBlock false c) s

/-- The secondary cache holds the block of `pa` DirtyExclusive. -/
def dirtyHere (pa : PAddr) (s : State) : Bool :=
  match (lookupSecondary (s.hw.blockBase pa) s).1.1 with
  | some w => (s.ctag (sSet s.hw pa) w).st == 3#2
  | none => false

/-- An intervention needs the special entry of the outgoing buffer (R913). -/
def needsSpecial (c : Probe) (s : State) : Bool :=
  c.kind != .invalidate && (probeHit c s).isNone && dirtyHere c.pa s

/-- A coherency request waits: for the instruction that its block has come for (R911), or, the model's choice, for the special
entry of the outgoing buffer (R913; log 74). -/
def probeWaits (c : Probe) (s : State) : Bool := heldBack c.pa s || (needsSpecial c s && specialTaken s)

/-- The coherency requests that waited are performed in their order, up to one that still waits (R959). -/
def resumeProbes : List Probe → State → State
  | [], s => s
  | c :: cs, s =>
    if probeWaits c s then { s with ext := { s.ext with probes := c :: cs } } else resumeProbes cs (performProbe c s)

/-- A coherency request arrives: it is performed behind those that wait (R959). -/
def takeProbe (c : Probe) (s : State) : State :=
  resumeProbes (s.ext.probes ++ [c]) { s with ext := { s.ext with probes := [] } }

/-- An external request (R922, R940, R958, R966): a coherency or allocate request holds its number until its completion
response. -/
def busRequest (e : EnvEvent) (s : State) : State :=
  match e with
  | .extInterrupt ad => extInterrupt ad s
  | .intervention x pa rq =>
    takeProbe { kind := if x then .exclusive else .shared, rq := rq, pa := pa } (takeNumber rq (some pa) s)
  | .invalidate pa rq => takeProbe { kind := .invalidate, rq := rq, pa := pa } (takeNumber rq (some pa) s)
  | .allocate rq => takeNumber rq none s
  | _ => s

/-- The response that a completion alone is. -/
def bareReply (c : Completion) : Reply := { completion := c, st := 0#2, bad := 0#16, withData := false }

/-- An external completion response (R930, R956, R989, R990): ACK, NACK and ERR free the number of an external request, or
answer the read or upgrade of the processor that has it; one with bad parity is lost and posted, a Reserved one ignored. -/
def externalCompletion (resp : BitVec 5) (par : Bool) (s : State) : State :=
  match completionOf resp par with
  | (_, .lost) => postRespError s
  | (_, .reserved) => s
  | (rq, c) => respond rq (bareReply c) (freeExternal rq s)

/-- An external address cycle as the pins carry it (R987): bad parity or, where checked, an uncorrectable SysAD loses the
cycle and is posted; a correctable one is corrected. -/
def addressCycle (c : BusCycle) (s : State) : State :=
  if !c.parityGood then reportError (.sysBus false true false) s
  else if c.cmd.getLsbD 11 then s
  else
    let take (ad : DWord) (s : State) : State :=
      match externalRequest s.hw c.cmd ad with
      | some e => busRequest e s
      | none => s
    if c.cmd.getLsbD 0 then
      match c.read s.hw with
      | .clean _ => take c.ad s
      | .corrected x => take (BitVec.ofNat 64 x) (s.emit .corErr)
      | .bad _ => reportError (.sysBus true false false) s
    else take c.ad s

/-! ## Other agents -/

/-- The coherency data responses pending issue leave, unless SysWrRdy* is negated (R917, R960). -/
def sendResponses (s : State) : State :=
  if s.ext.writesHeld then s
  else
    issueAll (s.ext.outgoing.filter BusReq.isDataResponse)
      { s with ext := { s.ext with outgoing := s.ext.outgoing.filter fun r => !r.isDataResponse } }

/-- Another agent takes exclusive ownership of `n` blocks from `base` on, with their data; its request is complete at once. -/
def takeBlocks (base : Nat) : Nat → State → State
  | 0, s => s
  | n + 1, s =>
    takeBlocks (base + 2 ^ s.hw.blkLog) n
      (sendResponses (performProbe { kind := .exclusive, rq := s.nextNumber, pa := BitVec.ofNat 40 base } s))

/-- Blocks that `n` bytes from `pa` on touch. -/
def blocksTouched (h : Hw) (pa : PAddr) (n : Nat) : Nat :=
  if n = 0 then 0 else (pa.toNat + n - 1) / 2 ^ h.blkLog + 1 - pa.toNat / 2 ^ h.blkLog

/-- The processor has the latest data of the block of `pa`: a DirtyExclusive block, or one in the outgoing buffer. -/
def suppliesBlock (pa : PAddr) (s : State) : Bool := dirtyHere pa s || evictionPending pa s

/-- A coherent agent cannot have one of `n` blocks from `base` on yet: a request for it waits, or its data cannot leave
(R911, R960). -/
def blocksWait (base : Nat) : Nat → State → Bool
  | 0, _ => false
  | n + 1, s =>
    heldBack (BitVec.ofNat 40 base) s || (s.ext.writesHeld && suppliesBlock (BitVec.ofNat 40 base) s) ||
      blocksWait (base + 2 ^ s.hw.blkLog) n s

/-- A store of a coherent agent waits, behind the coherency requests that wait (R959) or for one of its blocks; outside the
coherency of the processor, in cache test mode, none does (log 80). -/
def agentWaits (pa : PAddr) (bytes : List Byte) (s : State) : Bool :=
  !s.ext.test.active &&
    (!s.ext.probes.isEmpty || blocksWait (s.hw.blockBase pa).toNat (blocksTouched s.hw pa bytes.length) s)

/-- A coherent agent stores bytes, in one: it takes the blocks over, which breaks a link on one of them, and memory takes the
bytes (R19 (d), R259, R977). -/
def performStore (pa : PAddr) (bytes : List Byte) (s : State) : State :=
  if s.ext.test.active then s.physWrite pa bytes
  else
    (takeBlocks (s.hw.blockBase pa).toNat (blocksTouched s.hw pa bytes.length) (sendResponses s)).physWrite pa bytes

/-- The stores of other agents are performed in their order, up to one that waits (R247). -/
def landStores : List (PAddr × List Byte) → State → State
  | [], s => s
  | (pa, bytes) :: rest, s =>
    if agentWaits pa bytes s then { s with ext := { s.ext with agentStores := (pa, bytes) :: rest } }
    else landStores rest (performStore pa bytes s)

/-- The coherency requests that waited go on, then the stores of other agents that waited. -/
def resume (s0 : State) : State :=
  let s := resumeProbes s0.ext.probes { s0 with ext := { s0.ext with probes := [] } }
  landStores s.ext.agentStores { s with ext := { s.ext with agentStores := [] } }

/-- A store of another coherent agent: behind those that wait, whatever their addresses, so that all agents see one order
(R247, R252; log 80). -/
def agentStore (pa : PAddr) (bytes : List Byte) (s : State) : State :=
  resume { s with ext := { s.ext with agentStores := s.ext.agentStores ++ [(pa, bytes)] } }

/-! ## Cache test mode (R1020 to R1027; log 29) -/

/-- The last index of an array (R1027). -/
def testMaxAddr (arr : BitVec 3) : Option (BitVec 12) :=
  match arr with
  | 0#3 => some 0xFFF#12
  | 1#3 => some 0x1FF#12
  | 2#3 => some 0xFFF#12
  | 3#3 => some 0x0FF#12
  | 4#3 => some 0xFFF#12
  | _ => none

/-- The entry of an array on SysAD[39:0] (R1022).  That the instruction cache tag is 28 bits at 34:7 is the model's choice
(log 29). -/
def testRead (arr : BitVec 3) (a : BitVec 12) (w : Bool) (s : State) : BitVec 40 :=
  match arr with
  | 0#3 =>
    let x := s.dword (a.extractLsb' 3 9).toNat w (a.extractLsb' 0 3).toNat
    0#4 ++ x.par ++ x.word
  | 1#3 =>
    let t := s.dtag (a.extractLsb' 0 9).toNat w
    0#1 ++ t.mod ++ t.tag ++ BitVec.ofBool t.way ++ t.st ++ 0#1 ++ BitVec.ofBool (s.dlru (a.extractLsb' 0 9).toNat) ++
      BitVec.ofBool t.sp ++ BitVec.ofBool t.way ++ BitVec.ofBool t.tp
  | 2#3 =>
    let x := s.iword (a.extractLsb' 4 8).toNat w (a.extractLsb' 0 4).toNat
    0#3 ++ BitVec.ofBool (evenParity x.bits ^^ x.parBad) ++ x.bits
  | 3#3 =>
    let t := s.itag (a.extractLsb' 0 8).toNat w
    0#5 ++ t.tag ++ 0#1 ++ BitVec.ofBool t.valid ++ 0#1 ++ BitVec.ofBool (s.ilru (a.extractLsb' 0 8).toNat) ++
      BitVec.ofBool t.sp ++ 0#1 ++ BitVec.ofBool t.tp
  | _ => (BitVec.ofBool (s.mru (w.toNat * 4096 + a.toNat))).setWidth 40

/-- An instruction cache word from its 36 bits and its stored parity bit. -/
def iwordOfBits (bits : BitVec 36) (parity : Bool) : IWord :=
  { pre := bits.extractLsb' 32 4 ^^^ Config.predecode (bits.extractLsb' 0 32), word := bits.extractLsb' 0 32,
    parBad := evenParity bits != parity }

/-- An entry of an array written from SysAD[39:0] (R1022). -/
def testWrite (arr : BitVec 3) (a : BitVec 12) (w : Bool) (d : BitVec 40) (s : State) : State :=
  match arr with
  | 0#3 =>
    s.setDword (a.extractLsb' 3 9).toNat w (a.extractLsb' 0 3).toNat
      { word := d.extractLsb' 0 32, par := d.extractLsb' 32 4 }
  | 1#3 =>
    (s.setDtag (a.extractLsb' 0 9).toNat w
      { tag := d.extractLsb' 8 28, st := d.extractLsb' 5 2, mod := d.extractLsb' 36 3, way := d.getLsbD 1,
        sp := d.getLsbD 2, tp := d.getLsbD 0 }).setDlru (a.extractLsb' 0 9).toNat (d.getLsbD 3)
  | 2#3 =>
    s.setIword (a.extractLsb' 4 8).toNat w (a.extractLsb' 0 4).toNat
      (iwordOfBits (d.extractLsb' 0 36) (d.getLsbD 36))
  | 3#3 =>
    (s.setItag (a.extractLsb' 0 8).toNat w
      { tag := d.extractLsb' 7 28, valid := d.getLsbD 5, sp := d.getLsbD 2, tp := d.getLsbD 0 }).setIlru
        (a.extractLsb' 0 8).toNat (d.getLsbD 3)
  | _ => s.setMru (w.toNat * 4096 + a.toNat) (d.getLsbD 0)

/-- A cache test mode command (R1027); outside the mode SysAD means nothing. -/
def testCommand (ad : BitVec 64) (s : State) : Res Unit :=
  if !s.ext.test.active then .ok () s
  else
    let arr := ad.extractLsb' 40 3
    match testMaxAddr arr with
    | none => .refuse .undefinedTestArray
    | some last =>
      let t := s.ext.test
      let inc := ad.getLsbD 44
      let a := if !inc then ad.extractLsb' 46 12 else if t.lastAddr = last then 0#12 else t.lastAddr + 1#12
      let w := if !inc then ad.getLsbD 45 else t.lastWay ^^ (t.lastAddr == last)
      let wr := ad.getLsbD 43
      let d := if !wr || inc then t.lastData else ad.extractLsb' 0 40
      let s := if wr then testWrite arr a w d s else s.emit (.testRead (testRead arr a w s))
      .ok () { s with ext := { s.ext with test := { t with lastAddr := a, lastWay := w, lastData := d } } }

/-! ## Events -/

/-- In cache test mode the processor heeds SysAD and SysVal* alone (R1021), and the reset sequence that ends the mode (R1020);
what other agents do to memory goes on. -/
def heeded (e : EnvEvent) (s : State) : Bool :=
  !s.ext.test.active ||
    match e with
    | .coldReset _ | .testCommand _ | .agentStore _ _ | .dmaStore _ _ | .quiet => true
    | _ => false

/-- The effect of an event. -/
def eventEffect (e : EnvEvent) (s : State) : Res Unit :=
  match e with
  | .quiet => .ok () s
  | .coldReset m => coldReset m s
  | .softReset keys => .ok () (softReset keys s)
  | .nmi => .ok () { s with ext := { s.ext with nmiLatch := true } }
  | .extInterrupt _ | .intervention _ _ _ | .invalidate _ _ | .allocate _ => .ok () (busRequest e s)
  | .completion resp par => .ok () (resume (externalCompletion resp par s))
  | .response rq r => .ok () (resume (respond rq r s))
  | .addressCycle cmd par ad chk => .ok () (addressCycle { cmd := cmd, par := par, ad := ad, chk := chk } s)
  | .readReady b => .ok () { s with ext := { s.ext with readsHeld := !b } }
  | .writeReady b => .ok () { s with ext := { s.ext with writesHeld := !b } }
  | .gblPerf b => .ok () { s with ext := { s.ext with gblPerf := b } }
  | .cacheError u => .ok () (reportError u s)
  | .correctableError d => .ok () ((s.emit .corErr).count fun e => { e with eccFixed := e.eccFixed + d.toNat })
  | .agentStore pa bytes => .ok () (agentStore pa bytes s)
  | .dmaStore pa bytes => .ok () (s.physWrite pa bytes)
  | .speculate path kind va => .ok () (speculate path kind va s)
  | .fetchAhead k => .ok () (fetchAhead k s)
  | .breakLink => .ok () { s with llbit := false }
  | .flushGather => .ok () (flushGather s)
  | .jtagClock tms tdi => .ok () { s with ext := { s.ext with jtag := tapClock (Config.pins s.steps) tms tdi s.ext.jtag } }
  | .jtagReset =>
    .ok () (if s.hw.variant = .r12000A then { s with ext := { s.ext with jtag := tapReset s.ext.jtag } } else s)
  | .testCommand ad => testCommand ad s

/-- An event as the processor takes it. -/
def envEvent (e : EnvEvent) (s : State) : Res Unit := if heeded e s then eventEffect e s else .ok () s

end Sys2Proof.Machine
end

