-- ==== Sys2Proof/Machine/Run.lean ====
section
/-! DEFINITION. One step of the machine (spec/60_exceptions.md R1043, spec/43_branch_jump.md R630): the environment's
events and the pending exceptions in the order of R1043, then fetch, decode, execute; then the counters. -/

namespace Sys2Proof.Machine

/-- The state a step works on: last step's record cleared. -/
def State.fresh (s : State) : State := { s with note := .done, events := .none }

/-- The outcome of a step that began in `pre`: a next state has its counters advanced. -/
def endStep (pre : State) (i : Option Instr) (o : Out) : Out :=
  match o with
  | .next t => .next (tick pre i t)
  | .fault f => .fault f
  | .refused r => .refused r

/-- The instruction at the pc waits no longer: its reference is out of the SCTP logic, a request still pending response that it
made is no longer waited for (R956), and no block is kept for it (R911). -/
def State.released (s : State) : State :=
  { s with sctp := .none
           ext := { s.ext with outstanding := s.ext.outstanding.map fun o => { o with live := false }
                               forwarded := [], busErr := none } }

/-- The state at the end of a step of the processor: the reads and upgrades of the instruction have gone out, now what is
pending issue leaves (R946; log 70), and what other agents wait for goes on. -/
def concluded (s : State) : State := resume (drain (if s.note = .waiting then s else s.released))

/-- The outcome of a step of the processor that began in `pre`. -/
def endRun (pre : State) (i : Option Instr) (o : Out) : Out :=
  match o with
  | .next t => .next (tick pre i (concluded t))
  | .fault f => .fault f
  | .refused r => .refused r

/-- Decode and execute a fetched word. -/
def runWord (pre : State) (w : Word) (s : State) : Out :=
  match decode w with
  | .ok i => endRun pre (some i) (exec i s)
  | .error d => endRun pre none (execReject d s)

/-- Fetch, decode and execute the instruction at the pc; `pre` is the state the step began with. -/
def runInstr (pre s : State) : Out :=
  match fetchWord s with
  | .ok w s => runWord pre w s
  | .exc e s => endRun pre none (.next (takeException e s))
  | .retry s => endRun pre none (.next { s with note := .waiting })
  | .fault f => .fault f
  | .refuse r => .refused r

/-- The instruction at the pc, or the Bus Error that an ERR to its request has left it (R956; when: log 81). -/
def runNext (pre s : State) : Out :=
  match s.ext.busErr with
  | some k => endRun pre none (.next (takeException (.busError k) s))
  | none => runInstr pre s

/-- The Cache Error to take: none with ERL = 1 (R1061). -/
def dueCacheError (s : State) : Option (CacheUnit × BitVec 32) := if s.statusBit 2 then none else s.ext.posted.first

/-- The pending exceptions of R1043 in their order, then an instruction. -/
def runPending (s : State) : Out :=
  if s.ext.nmiLatch then endRun s none (.next (takeNmi s))
  else
    match dueCacheError s with
    | some (u, v) => endRun s none (.next (takeCacheError u v s))
    | none =>
      if s.cp0.watchPending && watchLive s then endRun s none (.next (takeException .watch s))
      else if (interruptNow s).1 then endRun s none (.next (takeException .interrupt (interruptNow s).2))
      else runNext s (interruptNow s).2

/-- A step of the processor itself; hung (R989, R1132) or in cache test mode (R1020) it only waits. -/
def runProcessor (s : State) : Out :=
  if s.ext.hung || s.ext.test.active then endStep s none (.next { s with note := .waiting })
  else runPending s

/-- One step (R1043; log 20): an event the environment has delivered is a step of its own, but for `quiet`, which lets the
processor make one; with no event left a hung processor stops (log 19). -/
def runStep (s0 : State) : Out :=
  let s := s0.fresh
  match s.ext.inbox with
  | .quiet :: es => runProcessor { s with ext := { s.ext with inbox := es } }
  | e :: es => endStep s none ((envEvent e { s with ext := { s.ext with inbox := es } }).finishAt)
  | [] => if s.ext.hung then .fault .hung else runProcessor s

/-! ## Placing an instruction -/

/-- The boundary with nothing in the way of the next instruction: no event, reply, request, flow control, reset, error or
test mode; a pending interrupt waits one instruction. -/
def quietExt (s : State) : Ext :=
  { s.ext with inbox := [], replies := [], outstanding := [], cluster := [], busErr := none, readsHeld := false, writesHeld := false,
               nmiLatch := false, posted := .none, hung := false,
               test := { s.ext.test with active := false },
               intWait := if interruptCondition s then 2 else s.ext.intWait }

/-- A word replaced in a secondary cache quadword, with its check bits. -/
def SQuad.withWord (be : Bool) (q : SQuad) (k : Nat) (w : Word) : SQuad :=
  match quadsWords be [q.data] with
  | [w0, w1, w2, w3] =>
    SQuad.of (quadOfWords be (if k = 0 then w else w0) (if k = 1 then w else w1) (if k = 2 then w else w2)
      (if k = 3 then w else w3))
  | _ => q

/-- The state with a word stored where a fetch at `x` reads it: memory for an uncached fetch; for a cached one the
instruction cache line, the secondary block or memory, the first that holds the address. -/
def placeWord (x : Xlate) (w : Word) (s : State) : State :=
  let inMemory := { s with mem := Memory.writeList s.mem x.pa.toNat (wordBytes s.bigEndianMem w) }
  if isCached x.ca then
    match iHit s x.va x.pa with
    | some way =>
      s.setIword (iSet x.va) way (x.va.extractLsb' 2 4).toNat { pre := 0#4, word := w, parBad := false }
    | none =>
      match (lookupSecondary x.pa s).1.1 with
      | some way =>
        let set := sSet s.hw x.pa
        s.setSquad set way (quadOf s.hw x.pa)
          ((s.squad set way (quadOf s.hw x.pa)).withWord s.bigEndianMem (x.pa.toNat / 4 % 4) w)
      | none => inMemory
  else inMemory

/-- The state whose next step fetches and runs the word `w` (log 20): the boundary quiet, all of physical memory
answering, what was pending issue gone, no Watch exception pending, and the word where the pc is fetched from. -/
def placeNext (w : Word) (s : State) : State :=
  let s := drain { s with ext := quietExt s }
  let s := { s with cp0 := { s.cp0 with watchPending := false }, hw := { s.hw with physMap := [] } }
  match translate s s.pc .fetch with
  | .ok x s => placeWord x w s
  | _ => s

end Sys2Proof.Machine
end

