-- ==== Sys2Proof/Safety.lean ====
section
/-! DEFINITION. Canonical states and safe runs: the invariants of the representation, and what counts as a run the
spec gives a meaning to. -/

namespace Sys2Proof.Machine

/-- Every sparse array of the caches is in canonical form. -/
def Caches.wf (c : Caches) : Bool :=
  sparseWf ITag.none c.itag && sparseWf IWord.none c.idata && sparseWf false c.ilru && sparseWf DTag.none c.dtag &&
    sparseWf DWordCell.none c.ddata && sparseWf false c.dlru && sparseWf STag.none c.stag && sparseWf SQuad.none c.sdata &&
    sparseWf false c.mru

/-- Memory and the caches are in canonical form: equal contents are equal data. -/
def State.canonical (s : State) : Bool := s.mem.wf && s.caches.wf

/-- The reserved fields read as the spec says (R85, R89, R100, R103, R135, R136, R139, R766): Status bits 23 and 17 and,
on the R10000, 24; FCR31 bits 22:18; the fill bits of EntryHi and EntryLo; the low four bits of Context and XContext;
WatchLo bit 2 and WatchHi bits 31:8 are zero. -/
def State.reservedClear (s : State) : Bool :=
  s.cp0.status &&& ~~~(statusMask s.isR12k ||| 0x00200000#32) == 0#32 && s.fpu.fcr31 &&& ~~~fcr31Mask == 0#32 &&
    s.cp0.entryLo0 &&& ~~~entryLoMask == 0#64 && s.cp0.entryLo1 &&& ~~~entryLoMask == 0#64 &&
    s.cp0.entryHi &&& ~~~entryHiMask == 0#64 && s.cp0.context.setWidth 4 == 0#4 && s.cp0.xcontext.setWidth 4 == 0#4 &&
    s.cp0.watchLo &&& 4#32 == 0#32 && s.cp0.watchHi &&& ~~~0xFF#32 == 0#32

/-- A run of `n` steps stays within the spec: every step answers a next state. -/
def safeFor : Nat → State → Prop
  | 0, _ => True
  | n + 1, s => ∃ t, step s = .next t ∧ safeFor n t

/-! ## The terms of the statements: what an instruction changes, and that it changes nothing else -/

/-- The link, CP0, the FPU, the TLB, the caches, every byte of memory, the boundary and the model's own records are as
they were. -/
def sameSystem (s t : State) : Prop :=
  t.llbit = s.llbit ∧ t.llblock = s.llblock ∧ t.cp0 = s.cp0 ∧ t.fpu = s.fpu ∧ t.tlb = s.tlb ∧ t.caches = s.caches ∧
    t.mem = s.mem ∧ (∀ a, Memory.read t.mem a = Memory.read s.mem a) ∧ t.ext = s.ext ∧ t.hw = s.hw ∧
    t.steps = s.steps ∧ t.note = s.note ∧ t.events = s.events ∧ t.sctp = s.sctp

/-- Control goes on: to the pending branch target if there is one, else to the next word (R450, R630). -/
def fallsThrough (s t : State) : Prop :=
  t.pc = (match s.delaySlot with | some a => a | none => s.pc + 4#64) ∧ t.delaySlot = none

/-- The general registers but `rd` are as they were and `rd` holds `v`; a write of register 0 is discarded (R31). -/
def gprBecomes (rd : RegNum) (v : DWord) (s t : State) : Prop :=
  ∀ r, t.rget r = if r = rd ∧ rd ≠ 0#5 then v else s.rget r

/-- Every general register is as it was. -/
def gprSame (s t : State) : Prop := ∀ r, t.rget r = s.rget r

/-- HI and LO are as they were. -/
def hiLoSame (s t : State) : Prop := t.hi = s.hi ∧ t.lo = s.lo

/-- The instruction completes: it writes `v` to general register `rd` and nothing else. -/
def completesGpr (i : Instr) (rd : RegNum) (v : DWord) (s : State) : Prop :=
  ∃ t, exec i s = .next t ∧ gprBecomes rd v s t ∧ hiLoSame s t ∧ fallsThrough s t ∧ sameSystem s t

/-- The instruction completes and changes nothing but the pc. -/
def completesIdle (i : Instr) (s : State) : Prop :=
  ∃ t, exec i s = .next t ∧ gprSame s t ∧ hiLoSame s t ∧ fallsThrough s t ∧ sameSystem s t

/-- The instruction completes: it writes HI and LO and nothing else. -/
def completesHiLo (i : Instr) (hi lo : DWord) (s : State) : Prop :=
  ∃ t, exec i s = .next t ∧ t.hi = hi ∧ t.lo = lo ∧ gprSame s t ∧ fallsThrough s t ∧ sameSystem s t

/-- The instruction does nothing but take the exception `e`, entered as R1046 says. -/
def traps (i : Instr) (e : Exc) (s : State) : Prop := exec i s = .next (takeException e s)

/-- The signed integers of `n` bits. -/
def fits (n : Nat) (x : Int) : Prop := -(2 ^ (n - 1) : Int) ≤ x ∧ x < 2 ^ (n - 1)

/-- A jump or branch completes: the delay slot runs next and `target` follows it; `link` is written with the address
after the delay slot. -/
def completesBranch (i : Instr) (target : DWord) (link : RegNum) (s : State) : Prop :=
  ∃ t, exec i s = .next t ∧ gprBecomes link (s.pc + 8#64) s t ∧ hiLoSame s t ∧ t.pc = s.pc + 4#64 ∧
    t.delaySlot = some target ∧ sameSystem s t

/-- A likely branch that is not taken completes: the delay slot is nullified (R633). -/
def completesNullified (i : Instr) (link : RegNum) (s : State) : Prop :=
  ∃ t, exec i s = .next t ∧ gprBecomes link (s.pc + 8#64) s t ∧ hiLoSame s t ∧ t.pc = s.pc + 8#64 ∧
    t.delaySlot = none ∧ sameSystem s t

/-- An ordinary branch that is not taken completes: the next word follows, and it is no delay slot (R630). -/
def completesUntaken (i : Instr) (link : RegNum) (s : State) : Prop :=
  ∃ t, exec i s = .next t ∧ gprBecomes link (s.pc + 8#64) s t ∧ hiLoSame s t ∧ t.pc = s.pc + 4#64 ∧
    t.delaySlot = none ∧ sameSystem s t

/-- An ordinary branch completes: taken exactly under the condition `c`. -/
def completesCond (i : Instr) (c : Prop) (target : DWord) (link : RegNum) (s : State) : Prop :=
  (c → completesBranch i target link s) ∧ (¬ c → completesUntaken i link s)

/-- The instruction completes with only CP0 changed. -/
def completesCp0 (i : Instr) (c : Cp0) (s : State) : Prop :=
  ∃ t, exec i s = .next t ∧ t.cp0 = c ∧ gprSame s t ∧ hiLoSame s t ∧ fallsThrough s t ∧
    sameSystem s { t with cp0 := s.cp0 }

/-! ## Data references -/

/-- Nothing on the System interface holds a request back: no request of the processor or another agent is pending, no store is
ready for issue, no block waits for its instruction (R911), and the external agent asserts SysRdRdy* and SysWrRdy*
(R917). -/
structure State.busFree (s : State) : Prop where
  issued   : s.ext.outgoing = []
  queued   : s.ext.fifo = []
  gathered : s.ext.gathered = []
  answered : s.ext.outstanding = []
  external : s.ext.cluster = []
  used     : s.ext.forwarded = []
  reads    : s.ext.readsHeld = false
  writes   : s.ext.writesHeld = false

/-- A reference of `n` bytes at `va`, physical address `pa`, that goes uncached to RAM: it translates, a Watch match is
postponed, nothing is gathered in the uncached buffer and no request is held back.  A load is that under Uncached
accelerated too (R916). -/
structure UncachedRef (s : State) (va : DWord) (pa : PAddr) (n : Nat) (kind : AccessKind) (x : Xlate) : Prop where
  translated : translate s va kind = .ok x s
  uncached   : x.ca = 2#3 ∨ kind = .load ∧ x.ca = 7#3
  postponed  : watchMatch s pa kind = true → watchLive s = false
  idle       : s.ext.gather = none
  free       : s.busFree
  ram        : ∀ a, pa.toNat ≤ a → a < pa.toNat + n → s.physAt a = .ram

/-- Such a reference that the external agent acknowledges at once. -/
structure UncachedRam (s : State) (va : DWord) (pa : PAddr) (n : Nat) (kind : AccessKind) (x : Xlate) : Prop
    extends UncachedRef s va pa n kind x where
  answered   : s.ext.replies = []

/-- The response to an uncached read makes it a Bus Error (R1041): ERR, or an ACK with data flagged bad. -/
def readFails (r : Reply) : Prop := r.completion = .err ∨ r.completion = .ack ∧ r.withData = true ∧ r.bad.getLsbD 0 = true

/-- The response to an uncached read brings the doubleword `d`, every cycle of it good (R955, R987). -/
structure BringsData (r : Reply) (d : DWord) : Prop where
  ack   : r.completion = .ack
  came  : r.withData = true
  good  : r.bad.getLsbD 0 = false
  data  : r.data.lookup 0 = some d
  clean : r.corrected = 0 ∧ r.lostCycles = 0

/-- The state with the Watch exception of a reference to `pa`, if it matches, postponed (R1078). -/
def State.watched (s : State) (pa : PAddr) (kind : AccessKind) : State := latchWatch (watchMatch s pa kind) s

/-- A reference at `va`, physical address `pa`, that hits way `w` of the primary data cache, with good tags; a Watch match
is postponed. -/
structure DataHit (s : State) (va : DWord) (pa : PAddr) (kind : AccessKind) (x : Xlate) (w : Bool) : Prop where
  translated : translate s va kind = .ok x s
  cached     : isCached x.ca = true
  postponed  : watchMatch s pa kind = true → watchLive s = false
  goodTags   : (checkDTags x.va s).1 = false
  settled    : dRefilling s x.va pa = false
  hit        : dHit s x.va pa = some w

/-- The number that `n` bytes given in memory order stand for (R236). -/
def orderedValue (be : Bool) (n : Nat) (b : Nat → Byte) : Nat :=
  ((List.range n).map fun i => (b i).toNat * 256 ^ (if be then n - 1 - i else i)).sum

/-- Byte `i` in memory order of the `n`-byte value `v` (R236). -/
def orderedByte (be : Bool) (n : Nat) (v : DWord) (i : Nat) : Byte :=
  v.extractLsb' (8 * (if be then n - 1 - i else i)) 8

/-- What is left as it was by a data reference that completes: all but the general registers, the FPU registers, the
link bit, the caches, memory and the boundary. -/
def sameBesidesMemory (s t : State) : Prop :=
  hiLoSame s t ∧ fallsThrough s t ∧ t.cp0 = s.cp0 ∧ t.tlb = s.tlb ∧ t.hw = s.hw ∧ t.steps = s.steps ∧ t.note = s.note ∧
    t.fpu.fcr31 = s.fpu.fcr31

/-- An uncached load of `n` bytes at `pa` left the storage alone: one read request went out, the link bit is `link`. -/
def afterUncachedRead (pa : PAddr) (n : Nat) (uc cause : BitVec 2) (link : Bool) (s t : State) : Prop :=
  sameBesidesMemory (s.watched pa .load) t ∧ t.llbit = link ∧ t.caches = s.caches ∧ t.mem = s.mem ∧
    (∀ a, Memory.read t.mem a = Memory.read s.mem a) ∧
    t.ext = { s.ext with bus := .dspRead 0#3 pa n uc cause :: s.ext.bus }

/-- A load that hit way `w` left every stored byte alone: only the line's LRU bit and the link bit changed. -/
def afterReadHit (va : DWord) (pa : PAddr) (w link : Bool) (s t : State) : Prop :=
  sameBesidesMemory (s.watched pa .load) t ∧ t.llbit = link ∧ t.mem = s.mem ∧ (∀ a, Memory.read t.mem a = Memory.read s.mem a) ∧
    t.caches = { s.caches with dlru := sparseSet false s.caches.dlru (dSet va) (!w) } ∧ t.ext = s.ext

/-- An uncached store of `n` bytes at `pa`, `accel` under Uncached accelerated: byte `pa + i` of memory is `b i`, every other
byte is as it was, and one write request went out. -/
def afterUncachedWrite (accel : Bool) (pa : PAddr) (n : Nat) (b : Nat → Byte) (uc cause : BitVec 2) (s t : State) : Prop :=
  sameBesidesMemory (s.watched pa .store) t ∧ t.llbit = false ∧ t.llblock = s.llblock ∧ t.caches = s.caches ∧
    (∀ a, Memory.read t.mem a = if pa.toNat ≤ a ∧ a < pa.toNat + n then b (a - pa.toNat) else Memory.read s.mem a) ∧
    t.ext = { s.ext with bus := .dspWrite accel pa ((List.range n).map b) uc cause :: s.ext.bus }

/-- A store of `n` bytes at `pa` that hit way `w`: the bytes of the line are `b i`, every other byte of the data cache,
the other caches and every byte of memory are as they were; the line is DirtyExclusive and Inconsistent. -/
def afterWriteHit (va : DWord) (pa : PAddr) (w : Bool) (n : Nat) (b : Nat → Byte) (s t : State) : Prop :=
  sameBesidesMemory (s.watched pa .store) t ∧ t.llbit = false ∧ t.llblock = s.llblock ∧ t.mem = s.mem ∧
    (∀ a, Memory.read t.mem a = Memory.read s.mem a) ∧ t.ext = s.ext ∧
    (∀ set way off, off < 32 →
      t.dByte set way off = if set = dSet va ∧ way = w ∧ pa.toNat % 32 ≤ off ∧ off < pa.toNat % 32 + n
        then b (off - pa.toNat % 32) else s.dByte set way off) ∧
    (∀ set way, t.dtag set way = if set = dSet va ∧ way = w
      then DTag.of (s.dtag set way).tag 3#2 1#3 (s.dtag set way).way else s.dtag set way) ∧
    (∀ set, t.dlru set = if set = dSet va then !w else s.dlru set) ∧
    t.caches.itag = s.caches.itag ∧ t.caches.idata = s.caches.idata ∧ t.caches.ilru = s.caches.ilru ∧
    t.caches.stag = s.caches.stag ∧ t.caches.sdata = s.caches.sdata ∧ t.caches.mru = s.caches.mru

/-- A secondary tag has its proper check bits. -/
def properTag (t : STag) : Prop := t = STag.of t.tag t.vindex t.st

/-- The block of `pa` is not in the secondary cache and comes from RAM: both ways of its set are empty, no request is held
back, the external agent acknowledges at once and the environment chooses no victim. -/
structure BlockMiss (s : State) (pa : PAddr) : Prop where
  secondary  : ∀ w, properTag (s.stag (sSet s.hw pa) w) ∧ (s.stag (sSet s.hw pa) w).st = 0#2
  free       : s.busFree
  answered   : s.ext.replies = []
  choice     : s.ext.victims = []
  ram        : ∀ a, (s.hw.blockBase pa).toNat ≤ a → a < (s.hw.blockBase pa).toNat + 2 ^ s.hw.blkLog → s.physAt a = .ram

/-- A cached load or store at `va`, physical address `pa`, of a block that is in no cache and comes from RAM; a Watch match is
postponed. -/
structure DataMiss (s : State) (va : DWord) (pa : PAddr) (kind : AccessKind) (x : Xlate) : Prop extends BlockMiss s pa where
  translated : translate s va kind = .ok x s
  cached     : isCached x.ca = true
  postponed  : watchMatch s pa kind = true → watchLive s = false
  goodTags   : (checkDTags x.va s).1 = false
  settled    : dRefilling s x.va pa = false
  primary    : ∀ w, (s.dtag (dSet x.va) w).st = 0#2

/-- A cached instruction fetch of a block that is in no cache and comes from RAM. -/
structure FetchMiss (s : State) (x : Xlate) : Prop extends BlockMiss s x.pa where
  translated : translate s s.pc .fetch = .ok x s
  cached     : isCached x.ca = true
  goodTags   : (checkITags x.va s).1 = false
  primary    : ∀ w, (s.itag (iSet x.va) w).valid = false

/-- The quadword of memory at `a`, as the secondary cache holds it (R236, R918). -/
def memoryQuad (s : State) (a : Nat) : BitVec 128 :=
  BitVec.ofNat 64 (orderedValue s.bigEndianMem 8 fun k => Memory.read s.mem (a + k)) ++
    BitVec.ofNat 64 (orderedValue s.bigEndianMem 8 fun k => Memory.read s.mem (a + 8 + k))

/-- The block of `pa` is in way `v` of its secondary set in the state `st`, under the virtual index of `va`, with memory's
bytes; every other block, and the way prediction table, is as it was. -/
def blockFilled (va : DWord) (pa : PAddr) (v : Bool) (st : BitVec 2) (s t : State) : Prop :=
  (∀ set way, t.stag set way = if set = sSet s.hw pa ∧ way = v
    then STag.of (stagOf pa) (vindexOf va) st else s.stag set way) ∧
  (∀ set way k, k < 8 → t.squad set way k = if set = sSet s.hw pa ∧ way = v ∧ k < sQuads s.hw
    then SQuad.of (memoryQuad s ((s.hw.blockBase pa).toNat + 16 * k)) else s.squad set way k) ∧
  t.caches.mru = s.caches.mru

/-- What is as it was after a data reference that missed, but for the R12000's record of the line (R184). -/
def sameBesidesMiss (pa : PAddr) (kind : AccessKind) (s t : State) : Prop :=
  sameBesidesMemory { s.watched pa kind with
    cp0 := { (s.watched pa kind).cp0 with perf := { s.cp0.perf with missAddr := t.cp0.perf.missAddr } } } t

/-- A load that missed both caches: one block read went out, with request number 0 and for the way that the table
predicts; the line in way 0 of its set holds memory's bytes, the block is in the secondary cache, and every other line, block and
byte of memory is as it was. -/
def afterReadMiss (va : DWord) (pa : PAddr) (ca : BitVec 3) (cause : BitVec 2) (link : Bool) (s t : State) : Prop :=
  sameBesidesMiss pa .load s t ∧ t.llbit = link ∧ t.mem = s.mem ∧ (∀ a, Memory.read t.mem a = Memory.read s.mem a) ∧
    ∀ cmd st v, cmd = (if ca = 3#3 then 2#3 else if ca = 4#3 then 1#3 else 0#3) → v = s.mru (mruIndex s pa) →
      st = (if s.hw.readState = 0#2 ∨ s.hw.readState = 1#2 ∧ cmd = 1#3 then 2#2 else s.hw.readState) →
      t.ext = { s.ext with bus := .blockRead 0#3 pa cmd cause 0#2 v :: s.ext.bus } ∧
      (∀ set way, t.dtag set way = if set = dSet va ∧ way = false then DTag.of (ptag pa) st 0#3 v else s.dtag set way) ∧
      (∀ set way off, off < 32 → t.dByte set way off = if set = dSet va ∧ way = false
        then Memory.read s.mem (pa.toNat / 32 * 32 + off) else s.dByte set way off) ∧
      (∀ set, t.dlru set = if set = dSet va then true else s.dlru set) ∧
      blockFilled va pa v st s t ∧
      t.caches.itag = s.caches.itag ∧ t.caches.idata = s.caches.idata ∧ t.caches.ilru = s.caches.ilru

/-- A store of the `n` bytes `b` at `pa` that missed both caches: one block read for ownership went out (under noncoherent
cachability one for the block), with request number 0 and for the way that the table predicts, and where the block comes Shared an upgrade
after it; the line in way 0 of its set holds memory's bytes with `b` in their places and is DirtyExclusive and
Inconsistent, the block is in the secondary cache, DirtyExclusive, and every other line, block and byte of memory is as it
was, but that another line of the block may become DirtyExclusive too. -/
def afterWriteMiss (va : DWord) (pa : PAddr) (ca : BitVec 3) (upCause : BitVec 2) (n : Nat) (b : Nat → Byte) (s t : State) :
    Prop :=
  sameBesidesMiss pa .store s t ∧ t.llbit = false ∧ t.llblock = s.llblock ∧ t.mem = s.mem ∧
    (∀ a, Memory.read t.mem a = Memory.read s.mem a) ∧
    ∀ cmd v read, cmd = (if ca = 3#3 then 2#3 else 1#3) → v = s.mru (mruIndex s pa) →
      read = BusReq.blockRead 0#3 pa cmd 1#2 0#2 v →
      t.ext = { s.ext with bus := if s.hw.readState = 1#2 ∧ cmd = 2#3 then .upgrade 0#3 pa upCause 1#2 v :: read :: s.ext.bus
                                  else read :: s.ext.bus } ∧
      t.dtag (dSet va) false = DTag.of (ptag pa) 3#2 1#3 v ∧
      (∀ set way, ¬ (set = dSet va ∧ way = false) → t.dtag set way = s.dtag set way ∨ (s.dtag set way).st ≠ 0#2 ∧
        t.dtag set way = DTag.of (s.dtag set way).tag 3#2 (s.dtag set way).mod (s.dtag set way).way) ∧
      (∀ set way off, off < 32 → t.dByte set way off = if set = dSet va ∧ way = false
        then (if pa.toNat % 32 ≤ off ∧ off < pa.toNat % 32 + n then b (off - pa.toNat % 32)
          else Memory.read s.mem (pa.toNat / 32 * 32 + off)) else s.dByte set way off) ∧
      (∀ set, t.dlru set = if set = dSet va then true else s.dlru set) ∧
      blockFilled va pa v 3#2 s t ∧
      t.caches.itag = s.caches.itag ∧ t.caches.idata = s.caches.idata ∧ t.caches.ilru = s.caches.ilru

/-- A fetch that missed both caches: one block read went out, with request number 0 and for the way that the table predicts; way 0
of the set of the instruction cache holds the words of memory, the block is in the secondary cache, and everything
else is as it was. -/
def afterFetchMiss (x : Xlate) (s t : State) : Prop :=
  t = { s with ext := t.ext, caches := t.caches, events := t.events, sctp := t.sctp } ∧
    (∀ a, Memory.read t.mem a = Memory.read s.mem a) ∧
    ∀ cmd st v, cmd = (if x.ca = 3#3 then 2#3 else if x.ca = 4#3 then 1#3 else 0#3) → v = s.mru (mruIndex s x.pa) →
      st = (if s.hw.readState = 0#2 ∨ s.hw.readState = 1#2 ∧ cmd = 1#3 then 2#2 else s.hw.readState) →
      t.ext = { s.ext with bus := .blockRead 0#3 x.pa cmd 0#2 0#2 v :: s.ext.bus } ∧
      (∀ set way, t.itag set way = if set = iSet x.va ∧ way = false then ITag.of (ptag x.pa) true else s.itag set way) ∧
      (∀ set way k, k < 16 → t.iword set way k = if set = iSet x.va ∧ way = false
        then { pre := 0#4, parBad := false,
               word := BitVec.ofNat 32 (orderedValue s.bigEndianMem 4 fun j =>
                 Memory.read s.mem (x.pa.toNat / 64 * 64 + 4 * k + j)) }
        else s.iword set way k) ∧
      (∀ set, t.ilru set = if set = iSet x.va then true else s.ilru set) ∧
      blockFilled x.va x.pa v st s t ∧
      t.caches.dtag = s.caches.dtag ∧ t.caches.ddata = s.caches.ddata ∧ t.caches.dlru = s.caches.dlru

/-- The block of `pa` is in way `v` of its secondary set in the state `st`, under the virtual index of `va`; the other way
holds another block, with proper check bits. -/
structure InSecondary (s : State) (va : DWord) (pa : PAddr) (v : Bool) (st : BitVec 2) : Prop where
  here   : s.stag (sSet s.hw pa) v = STag.of (stagOf pa) (vindexOf va) st
  proper : properTag (s.stag (sSet s.hw pa) (!v))
  alone  : (s.stag (sSet s.hw pa) (!v)).tag = stagOf pa → (s.stag (sSet s.hw pa) (!v)).st = 0#2

/-- A store of `n` bytes at `pa` that hit way `w` and made the block in secondary way `v` DirtyExclusive; `ext` is the
boundary it leaves.  The line's bytes are `b i` and it is Inconsistent; another line of the block may become
DirtyExclusive too. -/
def afterWriteOwned (va : DWord) (pa : PAddr) (w v : Bool) (n : Nat) (b : Nat → Byte) (ext : Ext) (s t : State) : Prop :=
  sameBesidesMemory (s.watched pa .store) t ∧ t.llbit = false ∧ t.llblock = s.llblock ∧ t.mem = s.mem ∧
    (∀ a, Memory.read t.mem a = Memory.read s.mem a) ∧ t.ext = ext ∧
    (∀ set way off, off < 32 →
      t.dByte set way off = if set = dSet va ∧ way = w ∧ pa.toNat % 32 ≤ off ∧ off < pa.toNat % 32 + n
        then b (off - pa.toNat % 32) else s.dByte set way off) ∧
    t.dtag (dSet va) w = DTag.of (s.dtag (dSet va) w).tag 3#2 1#3 (s.dtag (dSet va) w).way ∧
    (∀ set way, ¬ (set = dSet va ∧ way = w) → t.dtag set way = s.dtag set way ∨ (s.dtag set way).st ≠ 0#2 ∧
      t.dtag set way = DTag.of (s.dtag set way).tag 3#2 (s.dtag set way).mod (s.dtag set way).way) ∧
    (∀ set way, t.stag set way = if set = sSet s.hw pa ∧ way = v
      then STag.of (stagOf pa) (vindexOf va) 3#2 else s.stag set way) ∧
    (∀ set, t.dlru set = if set = dSet va then !w else s.dlru set) ∧
    (∀ i, t.mru i = if i = mruIndex s pa then v else s.mru i) ∧
    t.caches.itag = s.caches.itag ∧ t.caches.idata = s.caches.idata ∧ t.caches.ilru = s.caches.ilru ∧
    t.caches.sdata = s.caches.sdata

/-- Where a load of `n` bytes at `pa`, read cause `cause`, finds its bytes `b`, and what it leaves: an uncached address in
memory, a line in the primary data cache, or memory for a block in no cache. -/
def loadSource (s : State) (va : DWord) (pa : PAddr) (n : Nat) (x : Xlate) (cause : BitVec 2) (link : Bool) (b : Nat → Byte)
    (after : State → State → Prop) : Prop :=
  UncachedRam s va pa n .load x ∧ (∀ k, b k = Memory.read s.mem (pa.toNat + k)) ∧ after = afterUncachedRead pa n x.uc cause link ∨
    (∃ w, DataHit s va pa .load x w ∧ dBytesBad s (dSet x.va) w (pa.toNat % 32) n = false ∧
      (∀ k, b k = s.dByte (dSet x.va) w (pa.toNat % 32 + k)) ∧ after = afterReadHit x.va pa w link) ∨
    s.caches.wf = true ∧ DataMiss s va pa .load x ∧ (∀ k, b k = Memory.read s.mem (pa.toNat + k)) ∧
      after = afterReadMiss x.va pa x.ca cause link

/-- Where a store of the `n` bytes `b` at `pa`, upgrade cause `cause`, puts them, and what it leaves: an uncached address in
memory, a line in the primary data cache, in whatever state, or a line that it brings there. -/
def storeTarget (s : State) (va : DWord) (pa : PAddr) (n : Nat) (x : Xlate) (cause : BitVec 2) (b : Nat → Byte)
    (after : State → State → Prop) : Prop :=
  s.mem.wf = true ∧ UncachedRam s va pa n .store x ∧ after = afterUncachedWrite false pa n b x.uc 1#2 ∨
    s.caches.wf = true ∧
      ((∃ w, DataHit s va pa .store x w ∧ (s.dtag (dSet x.va) w).st = 3#2 ∧ after = afterWriteHit x.va pa w n b) ∨
        (∃ w v, DataHit s va pa .store x w ∧ (s.dtag (dSet x.va) w).st ≠ 3#2 ∧ s.busFree ∧
          (InSecondary s x.va pa v 1#2 ∧ s.ext.replies = [] ∧ after = afterWriteOwned x.va pa w v n b
              { s.ext with bus := .upgrade 0#3 pa cause 1#2 v :: s.ext.bus } ∨
            InSecondary s x.va pa v 2#2 ∧ after = afterWriteOwned x.va pa w v n b s.ext)) ∨
        DataMiss s va pa .store x ∧ after = afterWriteMiss x.va pa x.ca cause n b)

/-! ## Uncached accelerated stores (R915, R916) -/

/-- A store at `va`, physical address `pa`, that goes uncached accelerated; a Watch match is postponed and no request is held
back. -/
structure AcceleratedRef (s : State) (va : DWord) (pa : PAddr) (x : Xlate) : Prop where
  translated  : translate s va .store = .ok x s
  accelerated : x.ca = 7#3
  postponed   : watchMatch s pa .store = true → watchLive s = false
  free        : s.busFree

/-- A store that the uncached buffer keeps: the gathering is `g`, and every byte of memory is as it was. -/
def afterGather (pa : PAddr) (g : Gather) (s t : State) : Prop :=
  sameBesidesMemory (s.watched pa .store) t ∧ t.llbit = false ∧ t.llblock = s.llblock ∧ t.caches = s.caches ∧
    t.mem = s.mem ∧ (∀ a, Memory.read t.mem a = Memory.read s.mem a) ∧ t.ext = { s.ext with gather := some g }

/-- A store that completes the gathering `g`: one block write takes the gathered bytes `l` to memory from `g.base` on. -/
def afterBlockGather (pa : PAddr) (g : Gather) (l : List Byte) (cause : BitVec 2) (s t : State) : Prop :=
  sameBesidesMemory (s.watched pa .store) t ∧ t.llbit = false ∧ t.llblock = s.llblock ∧ t.caches = s.caches ∧
    (∀ a, Memory.read t.mem a = if g.base.toNat ≤ a ∧ a < g.base.toNat + l.length then l.getD (a - g.base.toNat) 0#8
      else Memory.read s.mem a) ∧
    t.ext = { s.ext with
      gather := none
      bus := .gatherWrite g.base (dwordsOfBytes s.bigEndianMem l (g.n / 8)) g.uc cause :: s.ext.bus }

/-- All bytes of these stores go to RAM. -/
def storesToRam (s : State) (ws : List (PAddr × List Byte)) : Prop :=
  ∀ w ∈ ws, ∀ a, w.1.toNat ≤ a → a < w.1.toNat + w.2.length → s.physAt a = .ram

/-- A store or load that flushes the gathering `g`: at `va`, physical address `pa`, uncached, a Watch match postponed, no
request held back, the gathered bytes all in RAM. -/
structure FlushRef (s : State) (va : DWord) (pa : PAddr) (kind : AccessKind) (x : Xlate) (g : Gather) : Prop where
  translated : translate s va kind = .ok x s
  uncached   : x.ca = 2#3 ∨ x.ca = 7#3
  postponed  : watchMatch s pa kind = true → watchLive s = false
  gathering  : s.ext.gather = some g
  free       : s.busFree
  ram        : storesToRam s g.stores

/-- The byte at an address after stores in turn, which held `b` before. -/
def lastStored : List (PAddr × List Byte) → Nat → Byte → Byte
  | [], _, b => b
  | w :: ws, a, b =>
    lastStored ws a (if w.1.toNat ≤ a ∧ a < w.1.toNat + w.2.length then w.2.getD (a - w.1.toNat) 0#8 else b)

/-- The writes that the stores of an incomplete gathering leave as, oldest first (R916): cause 3 in identical mode, else 2. -/
def flushedWrites (g : Gather) : List BusReq :=
  g.stores.map fun w => .dspWrite true w.1 w.2 g.uc (if g.mode = .identical then 3#2 else 2#2)

/-- A reference flushed the gathering: memory holds the bytes of the stores `ws`, in turn, and every other byte as it was;
the requests `rs` went out in their order; the gathering is `g` now. -/
def afterFlush (pa : PAddr) (kind : AccessKind) (ws : List (PAddr × List Byte)) (rs : List BusReq) (g : Option Gather)
    (s t : State) : Prop :=
  sameBesidesMemory (s.watched pa kind) t ∧ t.llbit = false ∧ t.llblock = s.llblock ∧ t.caches = s.caches ∧
    (∀ a, Memory.read t.mem a = lastStored ws a (Memory.read s.mem a)) ∧
    t.ext = { s.ext with gather := g, bus := rs.reverse ++ s.ext.bus }

/-! ## Secondary blocks that leave -/

/-- Way `w` of set `d` of the data cache holds a line of the secondary block at `base` with the virtual index `v` (R356,
R357). -/
def insideD (s : State) (v : BitVec 2) (base : PAddr) (d : Nat) (w : Bool) : Prop :=
  (∃ j, j < 2 ^ (s.hw.blkLog - 5) ∧ d = dSetAt v (base + BitVec.ofNat 40 (32 * j))) ∧ (s.dtag d w).tag = ptag base ∧
    (s.dtag d w).st ≠ 0#2

/-- Way `w` of set `i` of the instruction cache holds a part of the secondary block. -/
def insideI (s : State) (v : BitVec 2) (base : PAddr) (i : Nat) (w : Bool) : Prop :=
  (∃ j, j < 2 ^ (s.hw.blkLog - 6) ∧ i = iSetAt v (base + BitVec.ofNat 40 (64 * j))) ∧ (s.itag i w).tag = ptag base ∧
    (s.itag i w).valid = true

/-- Every primary line inside the block is invalid; every other line is as it was, and so are the data and the LRU bits of
the primary caches. -/
def primaryPurged (v : BitVec 2) (base : PAddr) (s t : State) : Prop :=
  (∀ d w, (insideD s v base d w → t.dtag d w = DTag.of (s.dtag d w).tag 0#2 0#3 (s.dtag d w).way) ∧
    (¬ insideD s v base d w → t.dtag d w = s.dtag d w)) ∧
  (∀ i w, (insideI s v base i w → t.itag i w = ITag.of (s.itag i w).tag false) ∧
    (¬ insideI s v base i w → t.itag i w = s.itag i w)) ∧
  t.caches.ddata = s.caches.ddata ∧ t.caches.idata = s.caches.idata ∧ t.caches.dlru = s.caches.dlru ∧
  t.caches.ilru = s.caches.ilru

/-- The Inconsistent lines inside the block have good parity and name way `v'`, where the block is; no line is held twice. -/
def cleanLines (v : BitVec 2) (base : PAddr) (v' : Bool) (s : State) : Prop :=
  (∀ d w, insideD s v base d w → (s.dtag d w).mod = 1#3 → (s.dtag d w).way = v' ∧
    ∀ k, k < 8 → (s.dword d w k).par = wordParity (s.dword d w k).word) ∧
  ∀ d, ¬ (insideD s v base d false ∧ insideD s v base d true)

/-- The block in way `v'` of secondary set `set` holds the Inconsistent primary lines inside it, and else what it held. -/
def flushedInto (v : BitVec 2) (base : PAddr) (set : Nat) (v' : Bool) (s t : State) : Prop :=
  ∀ k, k < sQuads s.hw → ∀ d, d = dSetAt v (base + BitVec.ofNat 40 (16 * k)) →
    (∀ w, insideD s v base d w → (s.dtag d w).mod = 1#3 → t.squad set v' k = SQuad.of (quadOfWords s.bigEndianMem
      (s.dword d w (4 * (k % 2))).word (s.dword d w (4 * (k % 2) + 1)).word (s.dword d w (4 * (k % 2) + 2)).word
      (s.dword d w (4 * (k % 2) + 3)).word)) ∧
    ((∀ w, insideD s v base d w → (s.dtag d w).mod ≠ 1#3) → t.squad set v' k = s.squad set v' k)

/-! ## Addresses -/

/-- The virtual addresses that the current mode maps through the TLB, by their ranges (R297 to R304, R306). -/
def mappedIn (s : State) (va : Nat) : Prop :=
  match s.mode with
  | .user => va < 2 ^ 31 ∨ s.statusBit 5 = true ∧ va < 2 ^ 44
  | .supervisor =>
    va < 2 ^ 31 ∨ 0xFFFFFFFFC0000000 ≤ va ∧ va < 0xFFFFFFFFE0000000 ∨
      s.statusBit 6 = true ∧ (s.statusBit 5 = true ∧ va < 2 ^ 44 ∨ 2 ^ 62 ≤ va ∧ va < 2 ^ 62 + 2 ^ 44)
  | .kernel =>
    s.statusBit 2 = false ∧ va < 2 ^ 31 ∨ 0xFFFFFFFFC0000000 ≤ va ∨
      s.statusBit 7 = true ∧ (s.statusBit 5 = true ∧ s.statusBit 2 = false ∧ va < 2 ^ 44 ∨
        s.statusBit 6 = true ∧ 2 ^ 62 ≤ va ∧ va < 2 ^ 62 + 2 ^ 44 ∨ 0xC000000000000000 ≤ va ∧ va ≤ 0xC0000FFEFFFFFFFF)

/-! ## Floating point -/

/-- One value is less than another, neither a NaN (R781). -/
def FVal.less : FVal → FVal → Prop
  | .num n m e, .num n' m' e' =>
    (if n then -1 else 1) * (m : ℚ) * 2 ^ e < (if n' then -1 else 1) * (m' : ℚ) * 2 ^ e'
  | .inf p, .inf q => p = true ∧ q = false
  | .inf p, .num _ _ _ => p = true
  | .num _ _ _, .inf q => q = false
  | _, _ => False

/-- Two values are equal, neither a NaN (R781). -/
def FVal.same : FVal → FVal → Prop
  | .num n m e, .num n' m' e' =>
    (if n then -1 else 1) * (m : ℚ) * 2 ^ e = (if n' then -1 else 1) * (m' : ℚ) * 2 ^ e'
  | .inf p, .inf q => p = q
  | _, _ => False

/-- FPR `fd` as an arithmetic result of format `d` leaves it, and every other FPR as it was (R761, R762). -/
def fprBecomes (d : Bool) (fd : RegNum) (bits : Nat) (s t : State) : Prop :=
  ∀ q, t.fraw q = if q = s.farith fd
    then (if d then BitVec.ofNat 64 bits
      else if s.fr then zext64 (BitVec.ofNat 32 bits) else (s.fraw q).extractLsb' 32 32 ++ BitVec.ofNat 32 bits)
    else s.fraw q

/-- Every FPR is as it was. -/
def fprSame (s t : State) : Prop := ∀ q, t.fraw q = s.fraw q

/-- All but the FPU and the pc is as it was. -/
def sameBesidesFpu (s t : State) : Prop :=
  gprSame s t ∧ hiLoSame s t ∧ fallsThrough s t ∧ sameSystem s { t with fpu := s.fpu }

/-- The completion sequence of R772 for causes `c`: the Floating-Point exception with only FCR31.Cause written, or the
flags and the effect `done`. -/
def fpOutcome (i : Instr) (c : BitVec 6) (done : State → Prop) (s : State) : Prop :=
  (c.getLsbD 5 = true ∨ c.setWidth 5 &&& s.fpEnables ≠ 0#5 →
    exec i s = .next (takeException .floatingPoint (s.setFcr31 (fcr31WithCause s.fpu.fcr31 c)))) ∧
  (c.getLsbD 5 = false → c.setWidth 5 &&& s.fpEnables = 0#5 →
    ∃ t, exec i s = .next t ∧ sameBesidesFpu s t ∧ done t)

/-- An arithmetic instruction with the result `r` of format `d` in `fd` follows R772. -/
def fpCompletes (i : Instr) (d : Bool) (fd : RegNum) (r : FRes) (s : State) : Prop :=
  fpOutcome i r.cause (fun t => fprBecomes d fd r.bits s t ∧
    t.fpu.fcr31 = fcr31OrFlags (fcr31WithCause s.fpu.fcr31 r.cause) (r.cause.setWidth 5)) s

/-- FPR `ft` as a word load or move leaves it, and every other FPR as it was (R761, R762): with FR = 0 an odd number is
the high half of the even register below it. -/
def fprWordMoved (ft : RegNum) (w : Word) (s t : State) : Prop :=
  ∀ q, t.fraw q =
    if s.fr then (if q = ft then zext64 w else s.fraw q)
    else if q = ft &&& 0b11110#5 then
      (if ft.getLsbD 0 then w ++ (s.fraw q).extractLsb' 0 32 else (s.fraw q).extractLsb' 32 32 ++ w)
    else s.fraw q

/-- FPR `ft` holds `v` and every other FPR is as it was. -/
def fprDoubleMoved (ft : RegNum) (v : DWord) (s t : State) : Prop := ∀ q, t.fraw q = if q = ft then v else s.fraw q

/-- The word an FPR number names in a store or move (R762). -/
def fprWord (s : State) (ft : RegNum) : Word :=
  if s.fr = false ∧ ft.getLsbD 0 = true then (s.fraw (ft &&& 0b11110#5)).extractLsb' 32 32
  else (s.fraw ft).extractLsb' 0 32

/-! ## Loads and stores that complete -/

/-- A load completes with `v` in general register `rt`. -/
def loadCompletes (i : Instr) (rt : RegNum) (v : DWord) (after : State → State → Prop) (s : State) : Prop :=
  ∃ t, exec i s = .next t ∧ gprBecomes rt v s t ∧ fprSame s t ∧ t.llblock = s.llblock ∧ after s t

/-- A load into a floating-point register completes. -/
def fpLoadCompletes (i : Instr) (reg after : State → State → Prop) (s : State) : Prop :=
  ∃ t, exec i s = .next t ∧ reg s t ∧ gprSame s t ∧ t.llblock = s.llblock ∧ after s t

/-- A store completes. -/
def storeCompletes (i : Instr) (after : State → State → Prop) (s : State) : Prop :=
  ∃ t, exec i s = .next t ∧ gprSame s t ∧ fprSame s t ∧ after s t

/-! ## Running an instruction -/

/-- Nothing comes before the next instruction (R1043): no event, hang, test mode, NMI, Cache Error, postponed Watch or
interrupt. -/
structure State.quiet (s : State) : Prop where
  inbox     : s.ext.inbox = []
  running   : s.ext.hung = false
  normal    : s.ext.test.active = false
  noNmi     : s.ext.nmiLatch = false
  noError   : dueCacheError s = none
  noWatch   : (s.cp0.watchPending && watchLive s) = false
  noIrq     : interruptCondition s = false
  noBusErr  : s.ext.busErr = none

/-! ## Correct rounding (R768, R777) -/

/-- The exact number a finite datum stands for. -/
def FVal.toRat : FVal → ℚ
  | .num n m e => (if n then -1 else 1) * (m : ℚ) * 2 ^ e
  | _ => 0

/-- The numbers of a format, with no upper bound on the exponent. -/
def FloatFmt.holds (f : FloatFmt) (v : ℚ) : Prop := ∃ m e : ℤ, |m| < 2 ^ (f.fb + 1) ∧ f.emin ≤ e ∧ v = m * 2 ^ e

/-- The numbers of a format whose last bit is zero. -/
def FloatFmt.holdsEven (f : FloatFmt) (v : ℚ) : Prop :=
  ∃ m e : ℤ, |2 * m| < 2 ^ (f.fb + 1) ∧ f.emin ≤ e ∧ v = (2 * m : ℤ) * 2 ^ e

/-- The smallest normalized magnitude. -/
def FloatFmt.minNormal (f : FloatFmt) : ℚ := 2 ^ (f.emin + f.fb)

/-- The first magnitude beyond the format. -/
def FloatFmt.overflowAt (f : FloatFmt) : ℚ := 2 ^ (f.emin + f.fb + 2 ^ f.eb - 2)

/-- `v` is the rounding, among the numbers `rep`, of the number that lies above those of `le` and below those of `ge`
(both for itself): to nearest, ties to the numbers `even`; toward zero; up; down.  `neg` is the number's sign. -/
def roundsTo (rep even : ℚ → Prop) (rm : BitVec 2) (neg : Bool) (le ge : ℚ → Prop) (v : ℚ) : Prop :=
  rep v ∧
    match (if rm = 1#2 then (if neg then 2#2 else 3#2) else rm) with
    | 0#2 => ∀ w, rep w →
        (v < w → ge ((v + w) / 2) ∧ (le ((v + w) / 2) → even v)) ∧
        (w < v → le ((v + w) / 2) ∧ (ge ((v + w) / 2) → even v))
    | 2#2 => ge v ∧ ∀ w, rep w → ge w → v ≤ w
    | _ => le v ∧ ∀ w, rep w → le w → w ≤ v

/-- The result `r` of rounding a non-zero number of sign `neg` to the format: a result below the normalized range is
unimplemented, or with FS = 1 a zero (R777); beyond the range it overflows (R776); else it is the rounded number, with
I if it is inexact, and U only at the smallest normalized magnitude. -/
def isRounded (f : FloatFmt) (rm : BitVec 2) (fs neg : Bool) (le ge : ℚ → Prop) (r : FRes) : Prop :=
  ∃ v, roundsTo f.holds f.holdsEven rm neg le ge v ∧
    (|v| < f.minNormal → r = if fs then exactRes (withSign f neg 0) else unimplemented) ∧
    (f.overflowAt ≤ |v| → r = { bits := overflowBits f rm neg, cause := causeO ||| causeI }) ∧
    (f.minNormal ≤ |v| → |v| < f.overflowAt →
      (∃ m e, unpack f r.bits = .num neg m e ∧ 2 ^ f.fb ≤ m ∧ (unpack f r.bits).toRat = v) ∧ r.bits < 2 ^ (f.eb + f.fb + 1) ∧
      (le v ∧ ge v → r.cause = 0#6) ∧
      (¬ (le v ∧ ge v) → r.cause = causeI ∨ (r.cause = causeI ||| causeU ∧ |v| = f.minNormal)))

/-- A number is an integer, and an even one. -/
def isInt (v : ℚ) : Prop := ∃ k : ℤ, v = k
def isEvenInt (v : ℚ) : Prop := ∃ k : ℤ, v = (2 * k : ℤ)

end Sys2Proof.Machine
end

