-- ==== Sys2Proof/WellFormed.lean ====
section
/-! DEFINITION. Well-formed instructions: the operand values an encoding can carry (spec/30_encoding.md R401, R414).
Operand widths are in the types; the one relation between operands is that a CP0 move's `sel` bits count only for
register 25. -/

namespace Sys2Proof

/-- A CP0 move with a `sel` other than 0 names register 25 (R401, R414; 12_cp0_diag_perf_cache_regs.md R171, R178). -/
def Instr.selOk (rd : BitVec 5) (sel : BitVec 4) : Bool := rd == 25#5 || sel == 0#4

/-- The instruction is one that some word encodes. -/
def Instr.wellFormed : Instr → Bool
  | .mfc0 _ rd sel => Instr.selOk rd sel
  | .dmfc0 _ rd sel => Instr.selOk rd sel
  | .mtc0 _ rd sel => Instr.selOk rd sel
  | .dmtc0 _ rd sel => Instr.selOk rd sel
  | _ => true

end Sys2Proof
end

