-- ==== Sys2Proof/Certificates/Slice0/Obligations.lean ====
section
/-! DEFINITION. The statements for the provers, in the terms of Safety.lean. -/

section

open Sys2Proof Sys2Proof.Machine

/-! ## Integer arithmetic (spec/40_integer_alu.md) -/

/-- R453 to R458: 32-bit add and subtract.  A signed sum or difference of the low words that does not fit 32 bits
raises Integer Overflow and writes nothing; ADDU, SUBU and ADDIU never raise.  That a register which holds no
sign-extended word counts by its low word is the model's choice (D27, U18; log 43). -/
def Obligations.AddSubWord : Prop :=
  ∀ (s : State) (rs rt rd : BitVec 5) (imm : BitVec 16),
    (encode (.add rs rt rd) = 0b000000#6 ++ rs ++ rt ++ rd ++ 0b00000#5 ++ 0b100000#6 ∧
      (¬ fits 32 ((s.word rs).toInt + (s.word rt).toInt) → traps (.add rs rt rd) .overflow s) ∧
      (fits 32 ((s.word rs).toInt + (s.word rt).toInt) →
        completesGpr (.add rs rt rd) rd (BitVec.ofInt 64 ((s.word rs).toInt + (s.word rt).toInt)) s)) ∧
    (encode (.addu rs rt rd) = 0b000000#6 ++ rs ++ rt ++ rd ++ 0b00000#5 ++ 0b100001#6 ∧
      completesGpr (.addu rs rt rd) rd (sext64 (s.word rs + s.word rt)) s) ∧
    (encode (.sub rs rt rd) = 0b000000#6 ++ rs ++ rt ++ rd ++ 0b00000#5 ++ 0b100010#6 ∧
      (¬ fits 32 ((s.word rs).toInt - (s.word rt).toInt) → traps (.sub rs rt rd) .overflow s) ∧
      (fits 32 ((s.word rs).toInt - (s.word rt).toInt) →
        completesGpr (.sub rs rt rd) rd (BitVec.ofInt 64 ((s.word rs).toInt - (s.word rt).toInt)) s)) ∧
    (encode (.subu rs rt rd) = 0b000000#6 ++ rs ++ rt ++ rd ++ 0b00000#5 ++ 0b100011#6 ∧
      completesGpr (.subu rs rt rd) rd (sext64 (s.word rs - s.word rt)) s) ∧
    (encode (.addi rs rt imm) = 0b001000#6 ++ rs ++ rt ++ imm ∧
      (¬ fits 32 ((s.word rs).toInt + imm.toInt) → traps (.addi rs rt imm) .overflow s) ∧
      (fits 32 ((s.word rs).toInt + imm.toInt) →
        completesGpr (.addi rs rt imm) rt (BitVec.ofInt 64 ((s.word rs).toInt + imm.toInt)) s)) ∧
    (encode (.addiu rs rt imm) = 0b001001#6 ++ rs ++ rt ++ imm ∧
      completesGpr (.addiu rs rt imm) rt (sext64 (s.word rs + imm.signExtend 32)) s)

/-- R459 to R464: 64-bit add and subtract.  Reserved Instruction when MIPS III is not enabled; a signed sum or
difference that does not fit 64 bits raises Integer Overflow in DADD, DADDI and DSUB. -/
def Obligations.AddSubDouble : Prop :=
  ∀ (s : State) (rs rt rd : BitVec 5) (imm : BitVec 16),
    (encode (.dadd rs rt rd) = 0b000000#6 ++ rs ++ rt ++ rd ++ 0b00000#5 ++ 0b101100#6 ∧
      encode (.daddu rs rt rd) = 0b000000#6 ++ rs ++ rt ++ rd ++ 0b00000#5 ++ 0b101101#6 ∧
      encode (.dsub rs rt rd) = 0b000000#6 ++ rs ++ rt ++ rd ++ 0b00000#5 ++ 0b101110#6 ∧
      encode (.dsubu rs rt rd) = 0b000000#6 ++ rs ++ rt ++ rd ++ 0b00000#5 ++ 0b101111#6 ∧
      encode (.daddi rs rt imm) = 0b011000#6 ++ rs ++ rt ++ imm ∧
      encode (.daddiu rs rt imm) = 0b011001#6 ++ rs ++ rt ++ imm) ∧
    (s.mips3 = false → ∀ i ∈ [Instr.dadd rs rt rd, .daddu rs rt rd, .dsub rs rt rd, .dsubu rs rt rd, .daddi rs rt imm,
      .daddiu rs rt imm], traps i .reservedInstr s) ∧
    (s.mips3 = true →
      (¬ fits 64 ((s.rget rs).toInt + (s.rget rt).toInt) → traps (.dadd rs rt rd) .overflow s) ∧
      (fits 64 ((s.rget rs).toInt + (s.rget rt).toInt) →
        completesGpr (.dadd rs rt rd) rd (BitVec.ofInt 64 ((s.rget rs).toInt + (s.rget rt).toInt)) s) ∧
      completesGpr (.daddu rs rt rd) rd (s.rget rs + s.rget rt) s ∧
      (¬ fits 64 ((s.rget rs).toInt - (s.rget rt).toInt) → traps (.dsub rs rt rd) .overflow s) ∧
      (fits 64 ((s.rget rs).toInt - (s.rget rt).toInt) →
        completesGpr (.dsub rs rt rd) rd (BitVec.ofInt 64 ((s.rget rs).toInt - (s.rget rt).toInt)) s) ∧
      completesGpr (.dsubu rs rt rd) rd (s.rget rs - s.rget rt) s ∧
      (¬ fits 64 ((s.rget rs).toInt + imm.toInt) → traps (.daddi rs rt imm) .overflow s) ∧
      (fits 64 ((s.rget rs).toInt + imm.toInt) →
        completesGpr (.daddi rs rt imm) rt (BitVec.ofInt 64 ((s.rget rs).toInt + imm.toInt)) s) ∧
      completesGpr (.daddiu rs rt imm) rt (s.rget rs + sext64 imm) s)

/-- R465 to R472: the logical instructions work on all 64 bits; their immediates are zero-extended; LUI places its
immediate in bits 31:16 and sign-extends. -/
def Obligations.Logical : Prop :=
  ∀ (s : State) (rs rt rd : BitVec 5) (imm : BitVec 16),
    (encode (.and rs rt rd) = 0b000000#6 ++ rs ++ rt ++ rd ++ 0b00000#5 ++ 0b100100#6 ∧
      completesGpr (.and rs rt rd) rd (s.rget rs &&& s.rget rt) s) ∧
    (encode (.or rs rt rd) = 0b000000#6 ++ rs ++ rt ++ rd ++ 0b00000#5 ++ 0b100101#6 ∧
      completesGpr (.or rs rt rd) rd (s.rget rs ||| s.rget rt) s) ∧
    (encode (.xor rs rt rd) = 0b000000#6 ++ rs ++ rt ++ rd ++ 0b00000#5 ++ 0b100110#6 ∧
      completesGpr (.xor rs rt rd) rd (s.rget rs ^^^ s.rget rt) s) ∧
    (encode (.nor rs rt rd) = 0b000000#6 ++ rs ++ rt ++ rd ++ 0b00000#5 ++ 0b100111#6 ∧
      completesGpr (.nor rs rt rd) rd (~~~(s.rget rs ||| s.rget rt)) s) ∧
    (encode (.andi rs rt imm) = 0b001100#6 ++ rs ++ rt ++ imm ∧
      completesGpr (.andi rs rt imm) rt (s.rget rs &&& (0#48 ++ imm)) s) ∧
    (encode (.ori rs rt imm) = 0b001101#6 ++ rs ++ rt ++ imm ∧
      completesGpr (.ori rs rt imm) rt (s.rget rs ||| (0#48 ++ imm)) s) ∧
    (encode (.xori rs rt imm) = 0b001110#6 ++ rs ++ rt ++ imm ∧
      completesGpr (.xori rs rt imm) rt (s.rget rs ^^^ (0#48 ++ imm)) s) ∧
    (encode (.lui rt imm) = 0b001111#6 ++ 0b00000#5 ++ rt ++ imm ∧
      completesGpr (.lui rt imm) rt (BitVec.ofInt 64 (imm.toInt * 2 ^ 16)) s)

/-- R473 to R476: set on less than, signed and unsigned over all 64 bits; the immediate is sign-extended for both. -/
def Obligations.SetLessThan : Prop :=
  ∀ (s : State) (rs rt rd : BitVec 5) (imm : BitVec 16),
    (encode (.slt rs rt rd) = 0b000000#6 ++ rs ++ rt ++ rd ++ 0b00000#5 ++ 0b101010#6 ∧
      completesGpr (.slt rs rt rd) rd (if (s.rget rs).toInt < (s.rget rt).toInt then 1#64 else 0#64) s) ∧
    (encode (.sltu rs rt rd) = 0b000000#6 ++ rs ++ rt ++ rd ++ 0b00000#5 ++ 0b101011#6 ∧
      completesGpr (.sltu rs rt rd) rd (if (s.rget rs).toNat < (s.rget rt).toNat then 1#64 else 0#64) s) ∧
    (encode (.slti rs rt imm) = 0b001010#6 ++ rs ++ rt ++ imm ∧
      completesGpr (.slti rs rt imm) rt (if (s.rget rs).toInt < imm.toInt then 1#64 else 0#64) s) ∧
    (encode (.sltiu rs rt imm) = 0b001011#6 ++ rs ++ rt ++ imm ∧
      completesGpr (.sltiu rs rt imm) rt
        (if (s.rget rs).toNat < (if imm.toNat < 0x8000 then imm.toNat else 0xFFFFFFFFFFFF0000 + imm.toNat)
          then 1#64 else 0#64) s)

/-- R477 to R482: 32-bit shifts of the low word, the result sign-extended; variable amounts are the low five bits of
`rs`.  That SRL, SRA, SRLV and SRAV of a register which holds no sign-extended word shift its low word is the model's
choice (D27, U18; log 43). -/
def Obligations.ShiftWord : Prop :=
  ∀ (s : State) (rs rt rd sa : BitVec 5),
    (encode (.sll rt rd sa) = 0b000000#6 ++ 0b00000#5 ++ rt ++ rd ++ sa ++ 0b000000#6 ∧
      completesGpr (.sll rt rd sa) rd (sext64 (BitVec.ofNat 32 ((s.word rt).toNat * 2 ^ sa.toNat))) s) ∧
    (encode (.srl rt rd sa) = 0b000000#6 ++ 0b00000#5 ++ rt ++ rd ++ sa ++ 0b000010#6 ∧
      completesGpr (.srl rt rd sa) rd (sext64 (BitVec.ofNat 32 ((s.word rt).toNat / 2 ^ sa.toNat))) s) ∧
    (encode (.sra rt rd sa) = 0b000000#6 ++ 0b00000#5 ++ rt ++ rd ++ sa ++ 0b000011#6 ∧
      completesGpr (.sra rt rd sa) rd (BitVec.ofInt 64 ((s.word rt).toInt / 2 ^ sa.toNat)) s) ∧
    (encode (.sllv rs rt rd) = 0b000000#6 ++ rs ++ rt ++ rd ++ 0b00000#5 ++ 0b000100#6 ∧
      completesGpr (.sllv rs rt rd) rd
        (sext64 (BitVec.ofNat 32 ((s.word rt).toNat * 2 ^ ((s.rget rs).toNat % 32)))) s) ∧
    (encode (.srlv rs rt rd) = 0b000000#6 ++ rs ++ rt ++ rd ++ 0b00000#5 ++ 0b000110#6 ∧
      completesGpr (.srlv rs rt rd) rd
        (sext64 (BitVec.ofNat 32 ((s.word rt).toNat / 2 ^ ((s.rget rs).toNat % 32)))) s) ∧
    (encode (.srav rs rt rd) = 0b000000#6 ++ rs ++ rt ++ rd ++ 0b00000#5 ++ 0b000111#6 ∧
      completesGpr (.srav rs rt rd) rd (BitVec.ofInt 64 ((s.word rt).toInt / 2 ^ ((s.rget rs).toNat % 32))) s)

/-- R483 to R491: 64-bit shifts, under MIPS III; the `32` forms shift by `sa` + 32, variable amounts are the low six bits
of `rs`. -/
def Obligations.ShiftDouble : Prop :=
  ∀ (s : State) (rs rt rd sa : BitVec 5),
    (encode (.dsll rt rd sa) = 0b000000#6 ++ 0b00000#5 ++ rt ++ rd ++ sa ++ 0b111000#6 ∧
      encode (.dsrl rt rd sa) = 0b000000#6 ++ 0b00000#5 ++ rt ++ rd ++ sa ++ 0b111010#6 ∧
      encode (.dsra rt rd sa) = 0b000000#6 ++ 0b00000#5 ++ rt ++ rd ++ sa ++ 0b111011#6 ∧
      encode (.dsllv rs rt rd) = 0b000000#6 ++ rs ++ rt ++ rd ++ 0b00000#5 ++ 0b010100#6 ∧
      encode (.dsrlv rs rt rd) = 0b000000#6 ++ rs ++ rt ++ rd ++ 0b00000#5 ++ 0b010110#6 ∧
      encode (.dsrav rs rt rd) = 0b000000#6 ++ rs ++ rt ++ rd ++ 0b00000#5 ++ 0b010111#6 ∧
      encode (.dsll32 rt rd sa) = 0b000000#6 ++ 0b00000#5 ++ rt ++ rd ++ sa ++ 0b111100#6 ∧
      encode (.dsrl32 rt rd sa) = 0b000000#6 ++ 0b00000#5 ++ rt ++ rd ++ sa ++ 0b111110#6 ∧
      encode (.dsra32 rt rd sa) = 0b000000#6 ++ 0b00000#5 ++ rt ++ rd ++ sa ++ 0b111111#6) ∧
    (s.mips3 = false → ∀ i ∈ [Instr.dsll rt rd sa, .dsrl rt rd sa, .dsra rt rd sa, .dsllv rs rt rd, .dsrlv rs rt rd,
      .dsrav rs rt rd, .dsll32 rt rd sa, .dsrl32 rt rd sa, .dsra32 rt rd sa], traps i .reservedInstr s) ∧
    (s.mips3 = true →
      completesGpr (.dsll rt rd sa) rd (BitVec.ofNat 64 ((s.rget rt).toNat * 2 ^ sa.toNat)) s ∧
      completesGpr (.dsrl rt rd sa) rd (BitVec.ofNat 64 ((s.rget rt).toNat / 2 ^ sa.toNat)) s ∧
      completesGpr (.dsra rt rd sa) rd (BitVec.ofInt 64 ((s.rget rt).toInt / 2 ^ sa.toNat)) s ∧
      completesGpr (.dsllv rs rt rd) rd (BitVec.ofNat 64 ((s.rget rt).toNat * 2 ^ ((s.rget rs).toNat % 64))) s ∧
      completesGpr (.dsrlv rs rt rd) rd (BitVec.ofNat 64 ((s.rget rt).toNat / 2 ^ ((s.rget rs).toNat % 64))) s ∧
      completesGpr (.dsrav rs rt rd) rd (BitVec.ofInt 64 ((s.rget rt).toInt / 2 ^ ((s.rget rs).toNat % 64))) s ∧
      completesGpr (.dsll32 rt rd sa) rd (BitVec.ofNat 64 ((s.rget rt).toNat * 2 ^ (sa.toNat + 32))) s ∧
      completesGpr (.dsrl32 rt rd sa) rd (BitVec.ofNat 64 ((s.rget rt).toNat / 2 ^ (sa.toNat + 32))) s ∧
      completesGpr (.dsra32 rt rd sa) rd (BitVec.ofInt 64 ((s.rget rt).toInt / 2 ^ (sa.toNat + 32))) s)

/-- R492 to R495: conditional moves under MIPS IV; MOVF and MOVT also need coprocessor 1, and leave FCR31 alone. -/
def Obligations.ConditionalMoves : Prop :=
  ∀ (s : State) (rs rt rd : BitVec 5) (cc : BitVec 3),
    (encode (.movn rs rt rd) = 0b000000#6 ++ rs ++ rt ++ rd ++ 0b00000#5 ++ 0b001011#6 ∧
      encode (.movz rs rt rd) = 0b000000#6 ++ rs ++ rt ++ rd ++ 0b00000#5 ++ 0b001010#6 ∧
      encode (.movf rs cc rd) = 0b000000#6 ++ rs ++ (cc ++ 0#1 ++ 0#1) ++ rd ++ 0b00000#5 ++ 0b000001#6 ∧
      encode (.movt rs cc rd) = 0b000000#6 ++ rs ++ (cc ++ 0#1 ++ 1#1) ++ rd ++ 0b00000#5 ++ 0b000001#6) ∧
    (s.mips4 = false → ∀ i ∈ [Instr.movn rs rt rd, .movz rs rt rd, .movf rs cc rd, .movt rs cc rd],
      traps i .reservedInstr s) ∧
    (s.mips4 = true → s.cp1Usable = false → ∀ i ∈ [Instr.movf rs cc rd, .movt rs cc rd],
      traps i (.copUnusable 1#2) s) ∧
    (s.mips4 = true →
      (s.rget rt ≠ 0#64 → completesGpr (.movn rs rt rd) rd (s.rget rs) s ∧ completesIdle (.movz rs rt rd) s) ∧
      (s.rget rt = 0#64 → completesGpr (.movz rs rt rd) rd (s.rget rs) s ∧ completesIdle (.movn rs rt rd) s)) ∧
    (s.mips4 = true → s.cp1Usable = true →
      (s.fcc cc = false → completesGpr (.movf rs cc rd) rd (s.rget rs) s ∧ completesIdle (.movt rs cc rd) s) ∧
      (s.fcc cc = true → completesGpr (.movt rs cc rd) rd (s.rget rs) s ∧ completesIdle (.movf rs cc rd) s))

/-! ## Multiply, divide, HI and LO (spec/41_multiply_divide.md) -/

/-- R532, R533, R536, R537: the exact signed and unsigned products, their halves in HI and LO.  That MULT and MULTU of
registers which hold no sign-extended word multiply the low words is the model's choice (D27, U18; log 43). -/
def Obligations.Multiply : Prop :=
  ∀ (s : State) (rs rt : BitVec 5),
    (encode (.mult rs rt) = 0b000000#6 ++ rs ++ rt ++ 0b00000#5 ++ 0b00000#5 ++ 0b011000#6 ∧
      completesHiLo (.mult rs rt) (BitVec.ofInt 64 ((s.word rs).toInt * (s.word rt).toInt / 2 ^ 32))
        (sext64 (BitVec.ofInt 32 ((s.word rs).toInt * (s.word rt).toInt))) s) ∧
    (encode (.multu rs rt) = 0b000000#6 ++ rs ++ rt ++ 0b00000#5 ++ 0b00000#5 ++ 0b011001#6 ∧
      completesHiLo (.multu rs rt) (sext64 (BitVec.ofNat 32 ((s.word rs).toNat * (s.word rt).toNat / 2 ^ 32)))
        (sext64 (BitVec.ofNat 32 ((s.word rs).toNat * (s.word rt).toNat))) s) ∧
    (encode (.dmult rs rt) = 0b000000#6 ++ rs ++ rt ++ 0b00000#5 ++ 0b00000#5 ++ 0b011100#6 ∧
      encode (.dmultu rs rt) = 0b000000#6 ++ rs ++ rt ++ 0b00000#5 ++ 0b00000#5 ++ 0b011101#6) ∧
    (s.mips3 = false → traps (.dmult rs rt) .reservedInstr s ∧ traps (.dmultu rs rt) .reservedInstr s) ∧
    (s.mips3 = true →
      completesHiLo (.dmult rs rt) (BitVec.ofInt 64 ((s.rget rs).toInt * (s.rget rt).toInt / 2 ^ 64))
        (BitVec.ofInt 64 ((s.rget rs).toInt * (s.rget rt).toInt)) s ∧
      completesHiLo (.dmultu rs rt) (BitVec.ofNat 64 ((s.rget rs).toNat * (s.rget rt).toNat / 2 ^ 64))
        (BitVec.ofNat 64 ((s.rget rs).toNat * (s.rget rt).toNat)) s)

/-- R534, R535, R538, R539: the quotient in LO, truncated toward zero, and the remainder in HI, with the sign of the
dividend; a zero divisor raises nothing and leaves some value in each (U19).  That DIV and DIVU of registers which hold no
sign-extended word divide the low words, and judge the divisor by its low word, is the model's choice (D27, U18; log 43). -/
def Obligations.Divide : Prop :=
  ∀ (s : State) (rs rt : BitVec 5),
    (encode (.div rs rt) = 0b000000#6 ++ rs ++ rt ++ 0b00000#5 ++ 0b00000#5 ++ 0b011010#6 ∧
      encode (.divu rs rt) = 0b000000#6 ++ rs ++ rt ++ 0b00000#5 ++ 0b00000#5 ++ 0b011011#6 ∧
      encode (.ddiv rs rt) = 0b000000#6 ++ rs ++ rt ++ 0b00000#5 ++ 0b00000#5 ++ 0b011110#6 ∧
      encode (.ddivu rs rt) = 0b000000#6 ++ rs ++ rt ++ 0b00000#5 ++ 0b00000#5 ++ 0b011111#6) ∧
    (s.word rt ≠ 0#32 →
      (∃ q r : Int, (s.word rs).toInt = q * (s.word rt).toInt + r ∧ r.natAbs < (s.word rt).toInt.natAbs ∧
        (r ≠ 0 → (r < 0 ↔ (s.word rs).toInt < 0)) ∧
        completesHiLo (.div rs rt) (BitVec.ofInt 64 r) (sext64 (BitVec.ofInt 32 q)) s) ∧
      completesHiLo (.divu rs rt) (sext64 (BitVec.ofNat 32 ((s.word rs).toNat % (s.word rt).toNat)))
        (sext64 (BitVec.ofNat 32 ((s.word rs).toNat / (s.word rt).toNat))) s) ∧
    (s.word rt = 0#32 → (∃ hi lo, completesHiLo (.div rs rt) hi lo s) ∧ ∃ hi lo, completesHiLo (.divu rs rt) hi lo s) ∧
    (s.mips3 = false → traps (.ddiv rs rt) .reservedInstr s ∧ traps (.ddivu rs rt) .reservedInstr s) ∧
    (s.mips3 = true → s.rget rt ≠ 0#64 →
      (∃ q r : Int, (s.rget rs).toInt = q * (s.rget rt).toInt + r ∧ r.natAbs < (s.rget rt).toInt.natAbs ∧
        (r ≠ 0 → (r < 0 ↔ (s.rget rs).toInt < 0)) ∧
        completesHiLo (.ddiv rs rt) (BitVec.ofInt 64 r) (BitVec.ofInt 64 q) s) ∧
      completesHiLo (.ddivu rs rt) (BitVec.ofNat 64 ((s.rget rs).toNat % (s.rget rt).toNat))
        (BitVec.ofNat 64 ((s.rget rs).toNat / (s.rget rt).toNat)) s) ∧
    (s.mips3 = true → s.rget rt = 0#64 →
      (∃ hi lo, completesHiLo (.ddiv rs rt) hi lo s) ∧ ∃ hi lo, completesHiLo (.ddivu rs rt) hi lo s)

/-- R540 to R543: moves from and to HI and LO; a move to one keeps the other. -/
def Obligations.HiLoMoves : Prop :=
  ∀ (s : State) (rs rd : BitVec 5),
    (encode (.mfhi rd) = 0b000000#6 ++ 0b00000#5 ++ 0b00000#5 ++ rd ++ 0b00000#5 ++ 0b010000#6 ∧
      completesGpr (.mfhi rd) rd s.hi s) ∧
    (encode (.mflo rd) = 0b000000#6 ++ 0b00000#5 ++ 0b00000#5 ++ rd ++ 0b00000#5 ++ 0b010010#6 ∧
      completesGpr (.mflo rd) rd s.lo s) ∧
    (encode (.mthi rs) = 0b000000#6 ++ rs ++ 0b00000#5 ++ 0b00000#5 ++ 0b00000#5 ++ 0b010001#6 ∧
      completesHiLo (.mthi rs) (s.rget rs) s.lo s) ∧
    (encode (.mtlo rs) = 0b000000#6 ++ rs ++ 0b00000#5 ++ 0b00000#5 ++ 0b00000#5 ++ 0b010011#6 ∧
      completesHiLo (.mtlo rs) s.hi (s.rget rs) s)

/-! ## Traps, system call and breakpoint (spec/44_trap_syscall.md) -/

/-- R681 to R692: the twelve conditional traps raise Trap when their condition holds and change nothing otherwise; the
register forms ignore `code`, and the unsigned immediate forms compare with the sign-extended immediate. -/
def Obligations.ConditionalTraps : Prop :=
  ∀ (s : State) (rs rt : BitVec 5) (code : BitVec 10) (imm : BitVec 16),
    (encode (.tge rs rt code) = 0b000000#6 ++ rs ++ rt ++ code ++ 0b110000#6 ∧
      ((s.rget rs).toInt ≥ (s.rget rt).toInt → traps (.tge rs rt code) .trap s) ∧
      (¬ (s.rget rs).toInt ≥ (s.rget rt).toInt → completesIdle (.tge rs rt code) s)) ∧
    (encode (.tgeu rs rt code) = 0b000000#6 ++ rs ++ rt ++ code ++ 0b110001#6 ∧
      ((s.rget rs).toNat ≥ (s.rget rt).toNat → traps (.tgeu rs rt code) .trap s) ∧
      (¬ (s.rget rs).toNat ≥ (s.rget rt).toNat → completesIdle (.tgeu rs rt code) s)) ∧
    (encode (.tlt rs rt code) = 0b000000#6 ++ rs ++ rt ++ code ++ 0b110010#6 ∧
      ((s.rget rs).toInt < (s.rget rt).toInt → traps (.tlt rs rt code) .trap s) ∧
      (¬ (s.rget rs).toInt < (s.rget rt).toInt → completesIdle (.tlt rs rt code) s)) ∧
    (encode (.tltu rs rt code) = 0b000000#6 ++ rs ++ rt ++ code ++ 0b110011#6 ∧
      ((s.rget rs).toNat < (s.rget rt).toNat → traps (.tltu rs rt code) .trap s) ∧
      (¬ (s.rget rs).toNat < (s.rget rt).toNat → completesIdle (.tltu rs rt code) s)) ∧
    (encode (.teq rs rt code) = 0b000000#6 ++ rs ++ rt ++ code ++ 0b110100#6 ∧
      (s.rget rs = s.rget rt → traps (.teq rs rt code) .trap s) ∧
      (s.rget rs ≠ s.rget rt → completesIdle (.teq rs rt code) s)) ∧
    (encode (.tne rs rt code) = 0b000000#6 ++ rs ++ rt ++ code ++ 0b110110#6 ∧
      (s.rget rs ≠ s.rget rt → traps (.tne rs rt code) .trap s) ∧
      (s.rget rs = s.rget rt → completesIdle (.tne rs rt code) s)) ∧
    (encode (.tgei rs imm) = 0b000001#6 ++ rs ++ 0b01000#5 ++ imm ∧
      ((s.rget rs).toInt ≥ imm.toInt → traps (.tgei rs imm) .trap s) ∧
      (¬ (s.rget rs).toInt ≥ imm.toInt → completesIdle (.tgei rs imm) s)) ∧
    (encode (.tgeiu rs imm) = 0b000001#6 ++ rs ++ 0b01001#5 ++ imm ∧
      ((s.rget rs).toNat ≥ (sext64 imm).toNat → traps (.tgeiu rs imm) .trap s) ∧
      (¬ (s.rget rs).toNat ≥ (sext64 imm).toNat → completesIdle (.tgeiu rs imm) s)) ∧
    (encode (.tlti rs imm) = 0b000001#6 ++ rs ++ 0b01010#5 ++ imm ∧
      ((s.rget rs).toInt < imm.toInt → traps (.tlti rs imm) .trap s) ∧
      (¬ (s.rget rs).toInt < imm.toInt → completesIdle (.tlti rs imm) s)) ∧
    (encode (.tltiu rs imm) = 0b000001#6 ++ rs ++ 0b01011#5 ++ imm ∧
      ((s.rget rs).toNat < (sext64 imm).toNat → traps (.tltiu rs imm) .trap s) ∧
      (¬ (s.rget rs).toNat < (sext64 imm).toNat → completesIdle (.tltiu rs imm) s)) ∧
    (encode (.teqi rs imm) = 0b000001#6 ++ rs ++ 0b01100#5 ++ imm ∧
      (s.rget rs = sext64 imm → traps (.teqi rs imm) .trap s) ∧
      (s.rget rs ≠ sext64 imm → completesIdle (.teqi rs imm) s)) ∧
    (encode (.tnei rs imm) = 0b000001#6 ++ rs ++ 0b01110#5 ++ imm ∧
      (s.rget rs ≠ sext64 imm → traps (.tnei rs imm) .trap s) ∧
      (s.rget rs = sext64 imm → completesIdle (.tnei rs imm) s))

/-- R693, R694, R409, R724: SYSCALL and BREAK always raise their exception, in every mode; a coprocessor 2 instruction
always raises Coprocessor Unusable with CE = 2, or Reserved Instruction when CU2 is set; RFE always raises Coprocessor
Unusable with CE = 0 or Reserved Instruction. -/
def Obligations.AlwaysTrapping : Prop :=
  ∀ (s : State) (code : BitVec 20) (cofun : BitVec 26),
    (encode (.syscall code) = 0b000000#6 ++ code ++ 0b001100#6 ∧ traps (.syscall code) .syscall s) ∧
    (encode (.brk code) = 0b000000#6 ++ code ++ 0b001101#6 ∧ traps (.brk code) .breakpoint s) ∧
    (∀ i ∈ [Instr.cop2 cofun, .lwc2 cofun, .swc2 cofun, .ldc2 cofun, .sdc2 cofun],
      (s.statusBit 30 = false → traps i (.copUnusable 2#2) s) ∧ (s.statusBit 30 = true → traps i .reservedInstr s)) ∧
    (s.cp0Usable = false → traps .rfe (.copUnusable 0#2) s) ∧ (s.cp0Usable = true → traps .rfe .reservedInstr s)

/-! ## Jumps and branches (spec/43_branch_jump.md) -/

/-- R636 to R639: jumps.  The delay slot runs next and the target follows it; the link register gets the address after
the delay slot, and JALR reads its target first. -/
def Obligations.Jumps : Prop :=
  ∀ (s : State) (target : BitVec 26) (rs rd : BitVec 5), s.delaySlot = none →
    (encode (.j target) = 0b000010#6 ++ target ∧
      completesBranch (.j target) (((s.pc + 4#64).extractLsb' 28 36 ++ target ++ 0#2 : BitVec (36 + 26 + 2))) 0#5 s) ∧
    (encode (.jal target) = 0b000011#6 ++ target ∧
      completesBranch (.jal target) (((s.pc + 4#64).extractLsb' 28 36 ++ target ++ 0#2 : BitVec (36 + 26 + 2))) 31#5 s) ∧
    (encode (.jr rs) = 0b000000#6 ++ rs ++ 0b00000#5 ++ 0b00000#5 ++ 0b00000#5 ++ 0b001000#6 ∧
      completesBranch (.jr rs) (s.rget rs) 0#5 s) ∧
    (encode (.jalr rs rd) = 0b000000#6 ++ rs ++ 0b00000#5 ++ rd ++ 0b00000#5 ++ 0b001001#6 ∧
      completesBranch (.jalr rs rd) (s.rget rs) rd s)

/-- R640 to R647: ordinary conditional branches.  When the condition holds the delay slot runs and then the target `T` of
R631; else the next word runs, and it is no delay slot (R630).  BLTZAL and BGEZAL write the link in either case. -/
def Obligations.Branches : Prop :=
  ∀ (s : State) (rs rt : BitVec 5) (offset : BitVec 16), s.delaySlot = none →
    ∀ T : DWord, T = s.pc + 4#64 + BitVec.ofInt 64 (4 * offset.toInt) →
    (encode (.beq rs rt offset) = 0b000100#6 ++ rs ++ rt ++ offset ∧
      completesCond (.beq rs rt offset) (s.rget rs = s.rget rt) T 0#5 s) ∧
    (encode (.bne rs rt offset) = 0b000101#6 ++ rs ++ rt ++ offset ∧
      completesCond (.bne rs rt offset) (s.rget rs ≠ s.rget rt) T 0#5 s) ∧
    (encode (.blez rs offset) = 0b000110#6 ++ rs ++ 0b00000#5 ++ offset ∧
      completesCond (.blez rs offset) ((s.rget rs).toInt ≤ 0) T 0#5 s) ∧
    (encode (.bgtz rs offset) = 0b000111#6 ++ rs ++ 0b00000#5 ++ offset ∧
      completesCond (.bgtz rs offset) (0 < (s.rget rs).toInt) T 0#5 s) ∧
    (encode (.bltz rs offset) = 0b000001#6 ++ rs ++ 0b00000#5 ++ offset ∧
      completesCond (.bltz rs offset) ((s.rget rs).toInt < 0) T 0#5 s) ∧
    (encode (.bgez rs offset) = 0b000001#6 ++ rs ++ 0b00001#5 ++ offset ∧
      completesCond (.bgez rs offset) (0 ≤ (s.rget rs).toInt) T 0#5 s) ∧
    (encode (.bltzal rs offset) = 0b000001#6 ++ rs ++ 0b10000#5 ++ offset ∧
      completesCond (.bltzal rs offset) ((s.rget rs).toInt < 0) T 31#5 s) ∧
    (encode (.bgezal rs offset) = 0b000001#6 ++ rs ++ 0b10001#5 ++ offset ∧
      completesCond (.bgezal rs offset) (0 ≤ (s.rget rs).toInt) T 31#5 s)

/-- R650 to R657: likely branches.  Taken they are ordinary branches; not taken the delay slot is nullified.  BLTZALL
and BGEZALL write the link in either case. -/
def Obligations.LikelyBranches : Prop :=
  ∀ (s : State) (rs rt : BitVec 5) (offset : BitVec 16), s.delaySlot = none →
    ∀ T : DWord, T = s.pc + 4#64 + BitVec.ofInt 64 (4 * offset.toInt) →
    (encode (.beql rs rt offset) = 0b010100#6 ++ rs ++ rt ++ offset ∧
      (s.rget rs = s.rget rt → completesBranch (.beql rs rt offset) T 0#5 s) ∧
      (s.rget rs ≠ s.rget rt → completesNullified (.beql rs rt offset) 0#5 s)) ∧
    (encode (.bnel rs rt offset) = 0b010101#6 ++ rs ++ rt ++ offset ∧
      (s.rget rs ≠ s.rget rt → completesBranch (.bnel rs rt offset) T 0#5 s) ∧
      (s.rget rs = s.rget rt → completesNullified (.bnel rs rt offset) 0#5 s)) ∧
    (encode (.blezl rs offset) = 0b010110#6 ++ rs ++ 0b00000#5 ++ offset ∧
      ((s.rget rs).toInt ≤ 0 → completesBranch (.blezl rs offset) T 0#5 s) ∧
      (¬ (s.rget rs).toInt ≤ 0 → completesNullified (.blezl rs offset) 0#5 s)) ∧
    (encode (.bgtzl rs offset) = 0b010111#6 ++ rs ++ 0b00000#5 ++ offset ∧
      (0 < (s.rget rs).toInt → completesBranch (.bgtzl rs offset) T 0#5 s) ∧
      (¬ 0 < (s.rget rs).toInt → completesNullified (.bgtzl rs offset) 0#5 s)) ∧
    (encode (.bltzl rs offset) = 0b000001#6 ++ rs ++ 0b00010#5 ++ offset ∧
      ((s.rget rs).toInt < 0 → completesBranch (.bltzl rs offset) T 0#5 s) ∧
      (¬ (s.rget rs).toInt < 0 → completesNullified (.bltzl rs offset) 0#5 s)) ∧
    (encode (.bgezl rs offset) = 0b000001#6 ++ rs ++ 0b00011#5 ++ offset ∧
      (0 ≤ (s.rget rs).toInt → completesBranch (.bgezl rs offset) T 0#5 s) ∧
      (¬ 0 ≤ (s.rget rs).toInt → completesNullified (.bgezl rs offset) 0#5 s)) ∧
    (encode (.bltzall rs offset) = 0b000001#6 ++ rs ++ 0b10010#5 ++ offset ∧
      ((s.rget rs).toInt < 0 → completesBranch (.bltzall rs offset) T 31#5 s) ∧
      (¬ (s.rget rs).toInt < 0 → completesNullified (.bltzall rs offset) 31#5 s)) ∧
    (encode (.bgezall rs offset) = 0b000001#6 ++ rs ++ 0b10011#5 ++ offset ∧
      (0 ≤ (s.rget rs).toInt → completesBranch (.bgezall rs offset) T 31#5 s) ∧
      (¬ 0 ≤ (s.rget rs).toInt → completesNullified (.bgezall rs offset) 31#5 s))

/-- R826 to R829: branches on a floating-point condition bit.  Coprocessor 1 unusable comes first; a bit other than 0
needs MIPS IV; BC1FL and BC1TL are likely branches. -/
def Obligations.FpBranches : Prop :=
  ∀ (s : State) (cc : BitVec 3) (offset : BitVec 16),
    (encode (.bc1f cc offset) = 0b010001#6 ++ 0b01000#5 ++ (cc ++ 0#1 ++ 0#1) ++ offset ∧
      encode (.bc1t cc offset) = 0b010001#6 ++ 0b01000#5 ++ (cc ++ 0#1 ++ 1#1) ++ offset ∧
      encode (.bc1fl cc offset) = 0b010001#6 ++ 0b01000#5 ++ (cc ++ 1#1 ++ 0#1) ++ offset ∧
      encode (.bc1tl cc offset) = 0b010001#6 ++ 0b01000#5 ++ (cc ++ 1#1 ++ 1#1) ++ offset) ∧
    (s.cp1Usable = false → ∀ i ∈ [Instr.bc1f cc offset, .bc1t cc offset, .bc1fl cc offset, .bc1tl cc offset],
      traps i (.copUnusable 1#2) s) ∧
    (s.cp1Usable = true → cc ≠ 0#3 → s.mips4 = false →
      ∀ i ∈ [Instr.bc1f cc offset, .bc1t cc offset, .bc1fl cc offset, .bc1tl cc offset], traps i .reservedInstr s) ∧
    (s.cp1Usable = true → cc = 0#3 ∨ s.mips4 = true → s.delaySlot = none →
      ∀ T : DWord, T = s.pc + 4#64 + BitVec.ofInt 64 (4 * offset.toInt) →
      completesCond (.bc1f cc offset) (s.fcc cc = false) T 0#5 s ∧
      completesCond (.bc1t cc offset) (s.fcc cc = true) T 0#5 s ∧
      (s.fcc cc = false →
        completesBranch (.bc1fl cc offset) T 0#5 s ∧ completesNullified (.bc1tl cc offset) 0#5 s) ∧
      (s.fcc cc = true →
        completesBranch (.bc1tl cc offset) T 0#5 s ∧ completesNullified (.bc1fl cc offset) 0#5 s))

/-- The model's treatment of R632 and U22 (log 10): a jump, branch or ERET in a delay slot is refused, once the
instruction is one that may run. -/
def Obligations.BranchInDelaySlot : Prop :=
  ∀ (s : State) (rs rt rd : BitVec 5) (target : BitVec 26) (offset : BitVec 16) (cc : BitVec 3), s.delaySlot ≠ none →
    (∀ i ∈ [Instr.j target, .jal target, .jr rs, .jalr rs rd, .beq rs rt offset, .bne rs rt offset, .blez rs offset,
        .bgtz rs offset, .bltz rs offset, .bgez rs offset, .bltzal rs offset, .bgezal rs offset, .beql rs rt offset,
        .bnel rs rt offset, .blezl rs offset, .bgtzl rs offset, .bltzl rs offset, .bgezl rs offset, .bltzall rs offset,
        .bgezall rs offset], exec i s = .refused .branchInDelaySlot) ∧
    (s.cp1Usable = true → cc = 0#3 ∨ s.mips4 = true →
      ∀ i ∈ [Instr.bc1f cc offset, .bc1t cc offset, .bc1fl cc offset, .bc1tl cc offset],
        exec i s = .refused .branchInDelaySlot) ∧
    (s.cp0Usable = true → exec .eret s = .refused .branchInDelaySlot)

/-! ## Exceptions (spec/60_exceptions.md) -/

/-- R1046: the general exception entry, for every exception of that level, and what it leaves alone.  The refill vectors
are chosen by R314. -/
def Obligations.ExceptionEntry : Prop :=
  ∀ (s t : State) (e : Exc) (base : DWord), t = takeException e s →
    base = (if s.statusBit 22 then 0xFFFFFFFFBFC00200#64 else 0xFFFFFFFF80000000#64) →
    (s.statusBit 1 = false →
      t.cp0.epc = (if s.delaySlot = none then s.pc else s.pc - 4#64) ∧ t.cp0.causeBD = !(s.delaySlot == none)) ∧
    (s.statusBit 1 = true → t.cp0.epc = s.cp0.epc ∧ t.cp0.causeBD = s.cp0.causeBD) ∧
    (∀ va k, e = .tlbRefill va k → s.statusBit 1 = false →
      (va.extractLsb' 62 2 = 3#2 → t.pc = base + (if s.statusBit 7 then 0x080#64 else 0x000#64)) ∧
      (va.extractLsb' 62 2 = 1#2 → t.pc = base + (if s.statusBit 6 then 0x080#64 else 0x000#64)) ∧
      (va.extractLsb' 62 2 = 0#2 → t.pc = base + (if s.statusBit 5 then 0x080#64 else 0x000#64))) ∧
    ((∀ va k, e ≠ .tlbRefill va k) ∨ s.statusBit 1 = true → t.pc = base + 0x180#64) ∧
    t.cp0.excCode = (match e with
      | .interrupt => 0#5
      | .tlbModified _ => 1#5
      | .tlbRefill _ .store | .tlbInvalid _ .store => 3#5
      | .tlbRefill _ _ | .tlbInvalid _ _ => 2#5
      | .addressError _ .store => 5#5
      | .addressError _ _ => 4#5
      | .busError .fetch => 6#5
      | .busError _ => 7#5
      | .syscall => 8#5
      | .breakpoint => 9#5
      | .reservedInstr => 10#5
      | .copUnusable _ => 11#5
      | .overflow => 12#5
      | .trap => 13#5
      | .floatingPoint => 15#5
      | .watch => 23#5) ∧
    t.cp0.status = s.cp0.status ||| 2#32 ∧ t.llbit = false ∧ t.delaySlot = none ∧
    (∀ c, e = .copUnusable c → t.cp0.causeCE = c) ∧
    gprSame s t ∧ hiLoSame s t ∧ t.fpu = s.fpu ∧ t.tlb = s.tlb ∧ t.caches = s.caches ∧ t.mem = s.mem ∧
    (∀ a, Memory.read t.mem a = Memory.read s.mem a) ∧ t.ext = s.ext ∧ t.hw = s.hw ∧ t.llblock = s.llblock ∧
    t.cp0 = { s.cp0 with
      epc := t.cp0.epc, causeBD := t.cp0.causeBD, excCode := t.cp0.excCode, status := t.cp0.status,
      causeCE := t.cp0.causeCE, badVAddr := t.cp0.badVAddr, context := t.cp0.context, xcontext := t.cp0.xcontext,
      entryHi := t.cp0.entryHi, entryLo0 := t.cp0.entryLo0, entryLo1 := t.cp0.entryLo1,
      watchPending := t.cp0.watchPending }

/-- R315, R309, R1050: the address registers that each exception writes.  A TLB exception records the address, its page
number and region; an Address Error records the address; both keep the ASID and the page-table bases; every other exception
leaves the address registers alone, and only Watch clears the delayed-Watch latch. -/
def Obligations.ExceptionRegisters : Prop :=
  ∀ (s t : State) (e : Exc), t = takeException e s →
    (∀ va k, e = .tlbRefill va k ∨ e = .tlbInvalid va k ∨ e = .tlbModified va →
      t.cp0.badVAddr = va ∧ t.cp0.context.extractLsb' 4 19 = va.extractLsb' 13 19 ∧
      t.cp0.xcontext.extractLsb' 35 2 = va.extractLsb' 62 2 ∧ t.cp0.xcontext.extractLsb' 4 31 = va.extractLsb' 13 31 ∧
      t.cp0.entryHi.extractLsb' 62 2 = va.extractLsb' 62 2 ∧ t.cp0.entryHi.extractLsb' 13 31 = va.extractLsb' 13 31) ∧
    (∀ va k, e = .addressError va k → t.cp0.badVAddr = va) ∧
    t.cp0.entryHi.extractLsb' 0 8 = s.cp0.entryHi.extractLsb' 0 8 ∧
    t.cp0.context.extractLsb' 23 41 = s.cp0.context.extractLsb' 23 41 ∧
    t.cp0.xcontext.extractLsb' 37 27 = s.cp0.xcontext.extractLsb' 37 27 ∧
    ((∀ va k, e ≠ .tlbRefill va k ∧ e ≠ .tlbInvalid va k ∧ e ≠ .tlbModified va ∧ e ≠ .addressError va k) →
      t.cp0.badVAddr = s.cp0.badVAddr ∧ t.cp0.context = s.cp0.context ∧ t.cp0.xcontext = s.cp0.xcontext ∧
      t.cp0.entryHi = s.cp0.entryHi ∧ t.cp0.entryLo0 = s.cp0.entryLo0 ∧ t.cp0.entryLo1 = s.cp0.entryLo1) ∧
    t.cp0.watchPending = (if e = .watch then false else s.cp0.watchPending)

/-- R723: ERET returns through ErrorEPC, clearing ERL, when ERL is set, else through EPC, clearing EXL; it clears LLbit,
has no delay slot, and changes nothing else.  R710: Coprocessor Unusable where CP0 is not usable. -/
def Obligations.ReturnFromException : Prop :=
  ∀ s : State,
    encode .eret = 0b010000#6 ++ 0b1#1 ++ 0#19 ++ 0b011000#6 ∧
    (s.cp0Usable = false → traps .eret (.copUnusable 0#2) s) ∧
    (s.cp0Usable = true → s.delaySlot = none → ∃ t, exec .eret s = .next t ∧
      (s.statusBit 2 = true → t.pc = s.cp0.errorEpc ∧ t.cp0 = { s.cp0 with status := s.cp0.status &&& 0xFFFFFFFB#32 }) ∧
      (s.statusBit 2 = false → t.pc = s.cp0.epc ∧ t.cp0 = { s.cp0 with status := s.cp0.status &&& 0xFFFFFFFD#32 }) ∧
      t.llbit = false ∧ t.delaySlot = none ∧ gprSame s t ∧ hiLoSame s t ∧
      sameSystem s { t with llbit := s.llbit, cp0 := s.cp0 })

/-! ## Encoding (spec/30_encoding.md) -/

/-- Decoding an encoded well-formed instruction gives it back, for every instruction and every operand (R402 to R408). -/
def Obligations.DecodeEncode : Prop :=
  ∀ i : Instr, i.wellFormed = true → decode (encode i) = .ok i

/-- R725: the words of the coprocessor 0 instructions that the rule writes out. -/
def Obligations.DecodeWords : Prop :=
  decode 0b01000000000000100110000000000000#32 = .ok (.mfc0 2#5 12#5 0#4) ∧
    decode 0x40826000#32 = .ok (.mtc0 2#5 12#5 0#4) ∧ decode 0x40237000#32 = .ok (.dmfc0 3#5 14#5 0#4) ∧
    decode 0x40A35000#32 = .ok (.dmtc0 3#5 10#5 0#4) ∧ decode 0x4004C801#32 = .ok (.mfc0 4#5 25#5 1#4) ∧
    decode 0x42000001#32 = .ok .tlbr ∧ decode 0x42000002#32 = .ok .tlbwi ∧ decode 0x42000006#32 = .ok .tlbwr ∧
    decode 0x42000008#32 = .ok .tlbp ∧ decode 0x42000018#32 = .ok .eret

/-- R410, R402 to R404, R406 to R408, R413, R782: a word with a reserved major, SPECIAL or REGIMM opcode raises Reserved
Instruction; a reserved COP1 *sub* value does so when coprocessor 1 is usable, and an undefined COP1 format, or an
undefined function of a defined one, raises Floating-Point with only E in FCR31.Cause; Coprocessor Unusable otherwise.  An
undefined COP1X function raises Reserved Instruction, but Coprocessor Unusable with MIPS IV and without coprocessor 1. -/
def Obligations.ReservedEncodings : Prop :=
  ∀ (pre s : State) (w : Word),
    ∀ (raises : Exc → Prop) (unimpl : Prop),
      (∀ e, raises e ↔ runWord pre w s = .next (tick pre none (concluded (takeException e s)))) →
      (unimpl ↔ runWord pre w s = .next (tick pre none (concluded
        (takeException .floatingPoint (s.setFcr31 (fcr31WithCause s.fpu.fcr31 0b100000#6)))))) →
    (w.extractLsb' 26 6 ∈ [0b011100#6, 0b011101#6, 0b011110#6, 0b011111#6, 0b111011#6] ∨
      w.extractLsb' 26 6 = 0#6 ∧ w.extractLsb' 0 6 ∈
        [0b000101#6, 0b001110#6, 0b010101#6, 0b101000#6, 0b101001#6, 0b110101#6, 0b110111#6, 0b111001#6, 0b111101#6] ∨
      w.extractLsb' 26 6 = 1#6 ∧ w.extractLsb' 16 5 ∈
        [4#5, 5#5, 6#5, 7#5, 13#5, 15#5, 20#5, 21#5, 22#5, 23#5, 24#5, 25#5, 26#5, 27#5, 28#5, 29#5, 30#5, 31#5] →
      raises .reservedInstr) ∧
    (w.extractLsb' 26 6 = 0b010001#6 →
      w.extractLsb' 21 5 ∈ [0b00011#5, 0b00111#5, 0b01001#5, 0b01010#5, 0b01011#5, 0b01100#5, 0b01101#5, 0b01110#5,
        0b01111#5] →
      (s.cp1Usable = false → raises (.copUnusable 1#2)) ∧ (s.cp1Usable = true → raises .reservedInstr)) ∧
    (w.extractLsb' 26 6 = 0b010001#6 →
      w.extractLsb' 25 1 = 1#1 ∧ w.extractLsb' 21 5 ∉ [0b10000#5, 0b10001#5, 0b10100#5, 0b10101#5] ∨
        w.extractLsb' 21 5 ∈ [0b10000#5, 0b10001#5] ∧ w.extractLsb' 0 6 ∈
          [16#6, 20#6, 23#6, 24#6, 25#6, 26#6, 27#6, 28#6, 29#6, 30#6, 31#6, 34#6, 35#6, 38#6, 39#6, 40#6, 41#6, 42#6,
            43#6, 44#6, 45#6, 46#6, 47#6] ∨
        w.extractLsb' 21 5 = 0b10000#5 ∧ w.extractLsb' 0 6 = 0b100000#6 ∨
        w.extractLsb' 21 5 = 0b10001#5 ∧ w.extractLsb' 0 6 = 0b100001#6 ∨
        w.extractLsb' 21 5 ∈ [0b10100#5, 0b10101#5] ∧ w.extractLsb' 0 6 ∉ [0b100000#6, 0b100001#6] →
      (s.cp1Usable = false → raises (.copUnusable 1#2)) ∧ (s.cp1Usable = true → unimpl)) ∧
    (w.extractLsb' 26 6 = 0b010011#6 →
      w.extractLsb' 0 6 ∉ [0b000000#6, 0b000001#6, 0b001000#6, 0b001001#6, 0b001111#6, 0b100000#6, 0b100001#6,
        0b101000#6, 0b101001#6, 0b110000#6, 0b110001#6, 0b111000#6, 0b111001#6] →
      (s.mips4 = false ∨ s.cp1Usable = true → raises .reservedInstr) ∧
      (s.mips4 = true → s.cp1Usable = false → raises (.copUnusable 1#2)))

/-! ## The step (spec/43_branch_jump.md R630, spec/60_exceptions.md R1043) -/

/-- A step with nothing pending runs the instruction that the fetched word decodes to and answers what exec answers; of a
next state the requests pending issue then leave and what other agents wait for goes on (R946; when that happens: log 70),
and its counters advance.  The fetch leaves the programmer's registers alone, and so does the end of the step but for Count,
the timer latch, the performance registers, the record of a branch's delay slot and a link that another agent breaks.  R97,
R98: Count advances by the policy's amount, and the timer latch is set when it reaches Compare at one of these ticks (log
25).  R173, R176: event 15 of counter 0 of the R10000 counts the instructions that graduate in an enabled mode; that Status
and the control register are those of the state before the step is the model's choice (log 26). -/
def Obligations.StepRunsDecoded : Prop :=
  ∀ (s p t : State) (w : Word) (i : Instr), s.quiet → p = s.fresh →
    fetchWord { p with ext := { p.ext with intWait := 0 } } = .ok w t → decode w = .ok i →
    (∀ u x, exec i t = .next u → x = concluded u → step s = .next (tick p (some i) x) ∧
      (∀ v d, v = tick p (some i) x → d = Config.countStep s.steps →
        v.gpr = u.gpr ∧ v.hi = u.hi ∧ v.lo = u.lo ∧ v.pc = u.pc ∧
        v.delaySlot = u.delaySlot ∧ v.llbit = x.llbit ∧ v.llblock = u.llblock ∧ v.fpu = u.fpu ∧ v.tlb = u.tlb ∧
        v.caches = x.caches ∧ v.mem = x.mem ∧ v.ext = x.ext ∧
        (u.ext.outgoing = [] → u.ext.fifo = [] → u.ext.gathered = [] → u.ext.probes = [] → u.ext.agentStores = [] →
          x.mem = u.mem ∧ x.caches = u.caches ∧ x.llbit = u.llbit ∧
          (u.note = .waiting → x.ext = u.ext) ∧
          (u.note ≠ .waiting →
            x.ext = { u.ext with
              outstanding := u.ext.outstanding.map fun o => { o with live := false }
              forwarded := []
              busErr := none })) ∧
        v.hw = u.hw ∧ v.steps = s.steps + 1 ∧
        v.cp0 = { u.cp0 with count := v.cp0.count, timerLatch := v.cp0.timerLatch, perf := v.cp0.perf,
                             diag := { u.cp0.diag with inSlot := v.cp0.diag.inSlot } } ∧
        v.cp0.count = u.cp0.count + BitVec.ofNat 32 d ∧
        (v.cp0.timerLatch = true ↔ u.cp0.timerLatch = true ∨
          ∃ k, 0 < k ∧ k ≤ d ∧ u.cp0.count + BitVec.ofNat 32 k = u.cp0.compare) ∧
        (s.hw.variant = .r10000 → ∀ c : Word, c = s.cp0.perf.ctl.get 0 → c.extractLsb' 5 4 = 15#4 → u.note = .done →
          v.cp0.perf.cnt.get 0 = u.cp0.perf.cnt.get 0 +
            if s.statusBit 2 = false ∧ (c.getLsbD 3 = true ∧ s.cp0.status.extractLsb' 3 2 = 2#2 ∧ s.statusBit 1 = false ∨
                c.getLsbD 2 = true ∧ s.cp0.status.extractLsb' 3 2 = 1#2 ∧ s.statusBit 1 = false ∨
                c.getLsbD 1 = true ∧ s.cp0.status.extractLsb' 3 2 = 0#2 ∧ s.statusBit 1 = false ∨
                c.getLsbD 0 = true ∧ s.statusBit 1 = true)
            then (if perfClass i = .mulDiv then 2#32 else 1#32) else 0#32))) ∧
    (∀ f, exec i t = .fault f → step s = .fault f) ∧ (∀ r, exec i t = .refused r → step s = .refused r) ∧
    t.gpr = s.gpr ∧ t.hi = s.hi ∧ t.lo = s.lo ∧ t.pc = s.pc ∧ t.delaySlot = s.delaySlot ∧ t.llbit = s.llbit ∧
    t.llblock = s.llblock ∧ t.fpu = s.fpu ∧ t.tlb = s.tlb ∧ t.hw = s.hw ∧ t.cp0.status = s.cp0.status

/-- The memory and cache representation stays canonical and the reserved fields stay zero at every step, whatever the
step does: an event, an exception or an instruction (R85, R89, R100, R103, R135, R136, R139, R766). -/
def Obligations.StepInvariant : Prop :=
  ∀ s t : State, s.canonical = true → s.reservedClear = true → step s = .next t →
    t.canonical = true ∧ t.reservedClear = true

/-- The machine after reset satisfies the invariant of StepInvariant. -/
def Obligations.ResetInvariant : Prop := State.reset.canonical = true ∧ State.reset.reservedClear = true

/-- R70, R1130: what a Cold Reset event leaves, with the mode bits `m` it loads; of the performance registers the Event
fields are zero.  Every other register is the model's choice (log 1), memory and the caches keep their contents (R360; log
33), and reserved mode bits are refused (U34; log 37). -/
def Obligations.ColdReset : Prop :=
  ∀ (s : State) (m : BitVec 64) (es : List EnvEvent), s.ext.inbox = .coldReset m :: es →
    (reservedMode s.hw.variant m = true → step s = .refused .reservedModeBits) ∧
    (reservedMode s.hw.variant m = false → ∃ t, step s = .next t ∧
      t.pc = 0xFFFFFFFFBFC00000#64 ∧ t.delaySlot = none ∧ t.statusBit 2 = true ∧ t.statusBit 22 = true ∧
      t.statusBit 20 = false ∧ t.statusBit 21 = false ∧ t.mode = .kernel ∧ t.cp0.errorEpc = s.pc ∧
      t.configReg.extractLsb' 3 19 = m.extractLsb' 3 19 ∧ t.configReg.extractLsb' 0 3 = m.extractLsb' 0 3 ∧
      t.configReg.extractLsb' 26 6 = 0b011011#6 ∧ t.cp0.wired = 0#6 ∧ t.random = 63#6 ∧
      t.cp0.cacheErr.getLsbD s.hw.errLayout.ew = false ∧ t.cp0.frameMask = 0#16 ∧ t.cp0.interrupt = 0#5 ∧ t.cp0.watchPending = false ∧
      t.ext.nmiLatch = false ∧ t.ext.posted = .none ∧ t.cp0.diag.bpMode = 0#2 ∧ t.mem = s.mem ∧ t.caches = s.caches ∧
      (∀ k, (t.cp0.perf.ctl.get k).extractLsb' 5 4 = 0#4 ∧
        (s.isR12k = true → (t.cp0.perf.ctl.get k).extractLsb' 5 5 = 0#5)) ∧
      t.hw = { s.hw with modeBits := m })

/-- R70, R1130: the state right after a power-on reset.  General registers, HI, LO, the FPRs, FCR31 and the registers of
R70 whose value is undefined are zero by the model's choice (log 1). -/
def Obligations.ResetState : Prop :=
  ∀ s : State, s = State.reset →
    s.pc = 0xFFFFFFFFBFC00000#64 ∧ s.delaySlot = none ∧ s.cp0.status = 0x00400004#32 ∧ s.mode = .kernel ∧
      (∀ r, s.rget r = 0#64) ∧ s.hi = 0#64 ∧ s.lo = 0#64 ∧ (∀ q, s.fraw q = 0#64) ∧ s.fpu.fcr31 = 0#32 ∧
      s.cp0.wired = 0#6 ∧ s.random = 63#6 ∧ s.cp0.frameMask = 0#16 ∧ s.cp0.cacheErr = 0#32 ∧ s.causeReg = 0#32 ∧
      s.prid.extractLsb' 8 8 = 9#8 ∧ s.configReg.extractLsb' 26 6 = 0b011011#6 ∧ s.mem = [] ∧
      (∀ a, Memory.read s.mem a = 0#8) ∧
      (∀ set way, (s.itag set way).valid = false ∧ (s.dtag set way).st = 0#2 ∧ (s.stag set way).st = 0#2) ∧
      (∀ i, (s.tlbAt i).matchable = false)

/-- The order of R1043: an event the environment has delivered is a step of its own, but for the event that lets the
processor make one (log 20); then a hang, which stops with no event left (log 19), and the cache test mode (log 29),
which wait; then NMI, a Cache Error with ERL = 0, a postponed Watch with
EXL = ERL = 0, an interrupt, with no latency left (log 27), then the instruction, or the Bus Error that an ERR has made for
it (R956; log 81). -/
def Obligations.PendingOrder : Prop :=
  ∀ s : State,
    (∀ e es, s.ext.inbox = e :: es → e ≠ .quiet →
      step s = endStep s.fresh none ((envEvent e { s.fresh with ext := { s.ext with inbox := es } }).finishAt)) ∧
    (s.ext.inbox = [] → s.ext.hung = true → step s = .fault .hung) ∧
    (∀ p, s.ext.inbox = [] ∧ s.ext.hung = false ∧ p = s.fresh ∨
        (∃ es, s.ext.inbox = .quiet :: es ∧ p = { s.fresh with ext := { s.ext with inbox := es } }) →
      (s.ext.hung = true ∨ s.ext.test.active = true → ∃ t, step s = .next t ∧ t.pc = s.pc ∧ t.note = .waiting) ∧
      (s.ext.hung = false → s.ext.test.active = false →
        (s.ext.nmiLatch = true → step s = .next (tick p none (concluded (takeNmi p)))) ∧
        (s.ext.nmiLatch = false →
          (∀ u v, s.statusBit 2 = false → s.ext.posted.first = some (u, v) →
            step s = .next (tick p none (concluded (takeCacheError u v p)))) ∧
          (s.statusBit 2 = true ∨ s.ext.posted.first = none →
            (s.cp0.watchPending = true → s.statusBit 1 = false → s.statusBit 2 = false →
              step s = .next (tick p none (concluded (takeException .watch p)))) ∧
            (s.cp0.watchPending = false ∨ s.statusBit 1 = true ∨ s.statusBit 2 = true →
              (interruptCondition s = true → s.ext.intWait = 0 → s.ext.intDelays = [] →
                step s = .next (tick p none (concluded (takeException .interrupt p)))) ∧
              (∀ k, interruptCondition s = false → s.ext.busErr = some k → ∀ u : State,
                u = { p with ext := { p.ext with intWait := 0 } } →
                step s = .next (tick p none (concluded (takeException (.busError k) u)))))))))

/-- R1080: the interrupt condition is IE = 1, EXL = ERL = 0 and a pending interrupt that Status.IM enables. -/
def Obligations.InterruptCondition : Prop :=
  ∀ s : State, interruptCondition s = true ↔
    s.statusBit 0 = true ∧ s.statusBit 1 = false ∧ s.statusBit 2 = false ∧
      ∃ k, k < 8 ∧ s.causeReg.getLsbD (8 + k) = true ∧ s.cp0.status.getLsbD (8 + k) = true

/-- R1049, R1060, R1134: the error-level entries.  A Cache Error and an NMI save the restart address in ErrorEPC, set ERL,
break the link and leave EPC, Cause, every general register and the rest alone; a Cache Error clears the error of its unit,
an NMI every one.  EW of CacheErr, at its place in the layout, is sticky (the layout: log 9). -/
def Obligations.ErrorLevelEntry : Prop :=
  ∀ (s : State) (u : CacheUnit) (v : BitVec 32),
    (∀ t, t = takeCacheError u v s →
      t.cp0 = { s.cp0 with errorEpc := (if s.delaySlot = none then s.pc else s.pc - 4#64),
                           status := s.cp0.status ||| 0x00000004#32,
                           cacheErr := v ||| (s.cp0.cacheErr &&& (1#32 <<< s.hw.errLayout.ew))
                           diag := { s.cp0.diag with inSlot := false } } ∧
      t.pc = (if s.statusBit 22 then 0xFFFFFFFFBFC00300#64 else 0xFFFFFFFFA0000100#64) ∧
      t.ext = { s.ext with posted := (match u with
        | .icache => { s.ext.posted with icache := none }
        | .dcache => { s.ext.posted with dcache := none }
        | .scache => { s.ext.posted with scache := none }
        | .sysif => { s.ext.posted with sysif := none }) } ∧
      t.llbit = false ∧ t.delaySlot = none ∧ gprSame s t ∧ hiLoSame s t ∧
      sameSystem s { t with llbit := s.llbit, cp0 := s.cp0, ext := s.ext }) ∧
    (∀ t, t = takeNmi s →
      t.cp0 = { s.cp0 with errorEpc := (if s.delaySlot = none then s.pc else s.pc - 4#64),
                           status := (s.cp0.status &&& 0xFFDFFFFF#32) ||| 0x00580004#32
                           diag := { s.cp0.diag with inSlot := false } } ∧
      t.pc = 0xFFFFFFFFBFC00000#64 ∧ t.ext = { s.ext with posted := .none, nmiLatch := false } ∧
      t.llbit = false ∧ t.delaySlot = none ∧ gprSame s t ∧ hiLoSame s t ∧
      sameSystem s { t with llbit := s.llbit, cp0 := s.cp0, ext := s.ext })

/-- R45, R710, R1045: without access to coprocessor 0 no instruction changes the TLB or a CP0 register, but by taking an
exception, which sets EXL and so enters Kernel mode; an access may latch a postponed Watch or the two registers that
record a memory reference (R184, R185). -/
def Obligations.UserPrivilege : Prop :=
  ∀ (i : Instr) (s t : State), s.cp0Usable = false → s.note = .done → exec i s = .next t →
    t.tlb = s.tlb ∧ t.hw = s.hw ∧
    ((t.note = .done ∨ t.note = .waiting) ∧ t.mode = s.mode ∧
        t.cp0 = { s.cp0 with watchPending := t.cp0.watchPending,
                             perf := { s.cp0.perf with missAddr := t.cp0.perf.missAddr,
                                                       syndrome := t.cp0.perf.syndrome } } ∨
      ∃ e, t.note = .raised e ∧ t.mode = .kernel ∧ t.cp0.status = s.cp0.status ||| 2#32)

/-- R235, R262: an instruction fetch.  A pc that is no multiple of 4 raises Address Error; an uncached fetch reads the
four bytes of memory, one in the instruction cache reads the cache, in the byte order of the memory system.  Where the
response brings a doubleword, the fetch takes its word of it (R928, R955); ERR, or data flagged bad, is a Bus Error
(R1041).  A fetch of a block in no cache is answered from memory, and the block is then in the instruction cache and
the secondary cache, never in the data cache (R262, R351, R353, R355).  That an idle processor's request has number 0 is the
model's choice (log 66), the way of an empty primary set that is refilled too (log 22).  A reserved algorithm is refused by the
model's choice (U10; log 12). -/
def Obligations.Fetch : Prop :=
  ∀ (s : State) (x : Xlate),
    (s.pc.toNat % 4 ≠ 0 → fetchWord s = .exc (.addressError s.pc .fetch) s) ∧
    (s.pc.toNat % 4 = 0 → translate s s.pc .fetch = .ok x s →
      (x.ca = 2#3 ∨ x.ca = 7#3 → s.busFree →
        (∀ a, x.pa.toNat ≤ a → a < x.pa.toNat + 4 → s.physAt a = .ram) →
        (s.ext.replies = [] → ∀ b : Nat → Byte, (∀ k, b k = Memory.read s.mem (x.pa.toNat + k)) →
          fetchWord s = .ok (if s.bigEndianMem then b 0 ++ b 1 ++ b 2 ++ b 3 else b 3 ++ b 2 ++ b 1 ++ b 0)
            { s with ext := { s.ext with bus := .dspRead 0#3 x.pa 4 x.uc 0#2 :: s.ext.bus } }) ∧
        (∀ r rs t, s.ext.replies = r :: rs → t = reportCycles r
            { s with ext := { s.ext with bus := .dspRead 0#3 x.pa 4 x.uc 0#2 :: s.ext.bus, replies := rs } } →
          (readFails r → fetchWord s = .exc (.busError .fetch) t) ∧
          (∀ d, r.completion = .ack → r.withData = true → r.bad.getLsbD 0 = false → r.data.lookup 0 = some d →
            fetchWord s = .ok (d.extractLsb' (if s.bigEndianMem = x.pa.getLsbD 2 then 0 else 32) 32) t))) ∧
      (∀ w, isCached x.ca = true → (checkITags x.va s).1 = false → iHit s x.va x.pa = some w →
        (s.iword (iSet x.va) w (x.va.extractLsb' 2 4).toNat).parBad = false →
        fetchWord s = .ok (s.iword (iSet x.va) w (x.va.extractLsb' 2 4).toNat).word (s.setIlru (iSet x.va) (!w))) ∧
      (s.caches.wf = true → FetchMiss s x → ∃ t, afterFetchMiss x s t ∧ fetchWord s =
        .ok (BitVec.ofNat 32 (orderedValue s.bigEndianMem 4 fun k => Memory.read s.mem (x.pa.toNat + k))) t) ∧
      (x.ca ∈ [0#3, 1#3, 6#3] → fetchWord s = .refuse .reservedCacheAlgorithm))

/-! ## Loads and stores (spec/42_load_store.md, spec/20_memory.md) -/

/-- R564 to R570: the loads of an uncached address in memory.  The bytes from the physical address on, in the byte order of
the processor, are sign- or zero-extended into `rt`; LWU and LD need MIPS III.  Where the response brings a doubleword, the
bytes are those of its lanes (R928, R955).  ERR, or data flagged bad, is a Bus Error (R1041); a watched address is the Watch
exception, or with EXL or ERL set leaves it pending (R1077, R1078).  Algorithm 7 loads as algorithm 2 does (R916).  That an
idle processor's request has number 0 is the model's choice (log 66). -/
def Obligations.LoadUncached : Prop :=
  ∀ (s : State) (base rt : BitVec 5) (offset : BitVec 16) (x : Xlate) (va : DWord) (b : Nat → Byte),
    va = s.rget base + sext64 offset → (∀ k, b k = Memory.read s.mem (x.pa.toNat + k)) →
    (UncachedRam s va x.pa 1 .load x →
      loadCompletes (.lb base rt offset) rt (sext64 (b 0)) (afterUncachedRead x.pa 1 x.uc 1#2 false) s ∧
      loadCompletes (.lbu base rt offset) rt (zext64 (b 0)) (afterUncachedRead x.pa 1 x.uc 1#2 false) s) ∧
    (UncachedRam s va x.pa 2 .load x → va.toNat % 2 = 0 →
      loadCompletes (.lh base rt offset) rt (sext64 (BitVec.ofNat 16 (orderedValue s.bigEndianCpu 2 b)))
        (afterUncachedRead x.pa 2 x.uc 1#2 false) s ∧
      loadCompletes (.lhu base rt offset) rt (BitVec.ofNat 64 (orderedValue s.bigEndianCpu 2 b))
        (afterUncachedRead x.pa 2 x.uc 1#2 false) s) ∧
    (UncachedRam s va x.pa 4 .load x → va.toNat % 4 = 0 →
      loadCompletes (.lw base rt offset) rt (sext64 (BitVec.ofNat 32 (orderedValue s.bigEndianCpu 4 b)))
        (afterUncachedRead x.pa 4 x.uc 1#2 false) s ∧
      (s.mips3 = true → loadCompletes (.lwu base rt offset) rt (BitVec.ofNat 64 (orderedValue s.bigEndianCpu 4 b))
        (afterUncachedRead x.pa 4 x.uc 1#2 false) s)) ∧
    (UncachedRam s va x.pa 8 .load x → va.toNat % 8 = 0 → s.mips3 = true →
      loadCompletes (.ld base rt offset) rt (BitVec.ofNat 64 (orderedValue s.bigEndianCpu 8 b))
        (afterUncachedRead x.pa 8 x.uc 1#2 false) s) ∧
    (s.mips3 = false → traps (.lwu base rt offset) .reservedInstr s ∧ traps (.ld base rt offset) .reservedInstr s) ∧
    (∀ n i, (n, i) ∈ [(1, Instr.lb base rt offset), (1, .lbu base rt offset), (2, .lh base rt offset),
        (2, .lhu base rt offset), (4, .lw base rt offset)] ∨
        s.mips3 = true ∧ (n, i) ∈ [(4, Instr.lwu base rt offset), (8, .ld base rt offset)] → va.toNat % n = 0 →
      (∀ r rs, UncachedRef s va x.pa n .load x → s.ext.replies = r :: rs → readFails r →
        exec i s = .next (takeException (.busError .load) (reportCycles r
          { s with ext := { s.ext with bus := .dspRead 0#3 x.pa n x.uc 1#2 :: s.ext.bus, replies := rs } }))) ∧
      (translate s va .load = .ok x s → x.ca = 2#3 ∨ x.ca = 7#3 → watchMatch s x.pa .load = true →
        watchLive s = true → traps i .watch s)) ∧
    (∀ r rs d (c : Nat → Byte), s.ext.replies = r :: rs → BringsData r d →
      (∀ k, c k = d.extractLsb' (8 * (if s.bigEndianMem then 7 - (x.pa.toNat + k) % 8 else (x.pa.toNat + k) % 8)) 8) →
      ∀ n i v, (n, i, v) ∈ [(1, Instr.lb base rt offset, sext64 (c 0)), (1, .lbu base rt offset, zext64 (c 0)),
          (2, .lh base rt offset, sext64 (BitVec.ofNat 16 (orderedValue s.bigEndianCpu 2 c))),
          (2, .lhu base rt offset, BitVec.ofNat 64 (orderedValue s.bigEndianCpu 2 c)),
          (4, .lw base rt offset, sext64 (BitVec.ofNat 32 (orderedValue s.bigEndianCpu 4 c)))] ∨
        s.mips3 = true ∧ (n, i, v) ∈ [(4, Instr.lwu base rt offset, BitVec.ofNat 64 (orderedValue s.bigEndianCpu 4 c)),
          (8, .ld base rt offset, BitVec.ofNat 64 (orderedValue s.bigEndianCpu 8 c))] → va.toNat % n = 0 →
      UncachedRef s va x.pa n .load x → loadCompletes i rt v (fun s t =>
        afterUncachedRead x.pa n x.uc 1#2 false { s with ext := { s.ext with replies := rs } } t) s)

/-- R564 to R570 on cached memory (R352, R356, R358).  A line in the primary data cache gives the same values from its
bytes; a block in no cache is read from memory, gives memory's bytes and is then in both caches.  A watched address
that hits is the Watch exception (R1077).  That an idle processor's request has number 0 is the model's choice (log 66),
and so is way 0 of an empty primary set where the environment names none (U13; log 22). -/
def Obligations.LoadHit : Prop :=
  ∀ (s : State) (base rt : BitVec 5) (offset : BitVec 16) (x : Xlate) (va : DWord) (w : Bool) (b m : Nat → Byte),
    va = s.rget base + sext64 offset →
    (∀ k, m k = Memory.read s.mem (x.pa.toNat + k)) →
    (s.caches.wf = true → DataMiss s va x.pa .load x →
      loadCompletes (.lb base rt offset) rt (sext64 (m 0)) (afterReadMiss x.va x.pa x.ca 1#2 false) s ∧
      loadCompletes (.lbu base rt offset) rt (zext64 (m 0)) (afterReadMiss x.va x.pa x.ca 1#2 false) s ∧
      (va.toNat % 2 = 0 →
        loadCompletes (.lh base rt offset) rt (sext64 (BitVec.ofNat 16 (orderedValue s.bigEndianCpu 2 m)))
          (afterReadMiss x.va x.pa x.ca 1#2 false) s ∧
        loadCompletes (.lhu base rt offset) rt (BitVec.ofNat 64 (orderedValue s.bigEndianCpu 2 m))
          (afterReadMiss x.va x.pa x.ca 1#2 false) s) ∧
      (va.toNat % 4 = 0 →
        loadCompletes (.lw base rt offset) rt (sext64 (BitVec.ofNat 32 (orderedValue s.bigEndianCpu 4 m)))
          (afterReadMiss x.va x.pa x.ca 1#2 false) s ∧
        (s.mips3 = true → loadCompletes (.lwu base rt offset) rt (BitVec.ofNat 64 (orderedValue s.bigEndianCpu 4 m))
          (afterReadMiss x.va x.pa x.ca 1#2 false) s)) ∧
      (va.toNat % 8 = 0 → s.mips3 = true →
        loadCompletes (.ld base rt offset) rt (BitVec.ofNat 64 (orderedValue s.bigEndianCpu 8 m))
          (afterReadMiss x.va x.pa x.ca 1#2 false) s)) ∧
    (∀ n i, (n, i) ∈ [(1, Instr.lb base rt offset), (1, .lbu base rt offset), (2, .lh base rt offset),
        (2, .lhu base rt offset), (4, .lw base rt offset)] ∨
        s.mips3 = true ∧ (n, i) ∈ [(4, Instr.lwu base rt offset), (8, .ld base rt offset)] → va.toNat % n = 0 →
      translate s va .load = .ok x s → isCached x.ca = true → dHit s x.va x.pa = some w →
      watchMatch s x.pa .load = true → watchLive s = true → traps i .watch s) ∧
    (DataHit s va x.pa .load x w → (∀ k, b k = s.dByte (dSet x.va) w (x.pa.toNat % 32 + k)) →
    (dBytesBad s (dSet x.va) w (x.pa.toNat % 32) 1 = false →
      loadCompletes (.lb base rt offset) rt (sext64 (b 0)) (afterReadHit x.va x.pa w false) s ∧
      loadCompletes (.lbu base rt offset) rt (zext64 (b 0)) (afterReadHit x.va x.pa w false) s) ∧
    (dBytesBad s (dSet x.va) w (x.pa.toNat % 32) 2 = false → va.toNat % 2 = 0 →
      loadCompletes (.lh base rt offset) rt (sext64 (BitVec.ofNat 16 (orderedValue s.bigEndianCpu 2 b)))
        (afterReadHit x.va x.pa w false) s ∧
      loadCompletes (.lhu base rt offset) rt (BitVec.ofNat 64 (orderedValue s.bigEndianCpu 2 b))
        (afterReadHit x.va x.pa w false) s) ∧
    (dBytesBad s (dSet x.va) w (x.pa.toNat % 32) 4 = false → va.toNat % 4 = 0 →
      loadCompletes (.lw base rt offset) rt (sext64 (BitVec.ofNat 32 (orderedValue s.bigEndianCpu 4 b)))
        (afterReadHit x.va x.pa w false) s ∧
      (s.mips3 = true → loadCompletes (.lwu base rt offset) rt (BitVec.ofNat 64 (orderedValue s.bigEndianCpu 4 b))
        (afterReadHit x.va x.pa w false) s)) ∧
    (dBytesBad s (dSet x.va) w (x.pa.toNat % 32) 8 = false → va.toNat % 8 = 0 → s.mips3 = true →
      loadCompletes (.ld base rt offset) rt (BitVec.ofNat 64 (orderedValue s.bigEndianCpu 8 b))
        (afterReadHit x.va x.pa w false) s))

/-- R571 to R574: the stores to an uncached address in memory write exactly the `n` bytes from the physical address on,
in the byte order of the processor; SD needs MIPS III.  A watched address is the Watch exception (R1077).  R915, R916: SW
and SD under Uncached accelerated are gathered from a block-aligned address on, in ascending order or all at one
address, and a gathered block is written at once; an SD that follows an unpaired SW is refused (U36; log 18).  A change of
mode, address or uncached attribute, or an ordinary uncached load or store, flushes an incomplete gathering: its stores
leave as single writes, oldest first, before it.  The write cause of a single accelerated store is the model's choice
(log 18), and so is request number 0 of the load (log 66). -/
def Obligations.StoreUncached : Prop :=
  ∀ (s : State) (base rt : BitVec 5) (offset : BitVec 16) (x : Xlate) (va : DWord), s.mem.wf = true →
    va = s.rget base + sext64 offset →
    (∀ n i, (n, i) ∈ [(1, Instr.sb base rt offset), (2, .sh base rt offset), (4, .sw base rt offset)] →
      UncachedRam s va x.pa n .store x → va.toNat % n = 0 →
      storeCompletes i (afterUncachedWrite false x.pa n (orderedByte s.bigEndianCpu n (s.rget rt)) x.uc 1#2) s) ∧
    (s.mips3 = true → UncachedRam s va x.pa 8 .store x → va.toNat % 8 = 0 →
      storeCompletes (.sd base rt offset) (afterUncachedWrite false x.pa 8 (orderedByte s.bigEndianCpu 8 (s.rget rt)) x.uc 1#2) s) ∧
    (s.mips3 = false → traps (.sd base rt offset) .reservedInstr s) ∧
    (∀ n i, (n, i) ∈ [(1, Instr.sb base rt offset), (2, .sh base rt offset), (4, .sw base rt offset)] ∨
        s.mips3 = true ∧ (n, i) = (8, Instr.sd base rt offset) → va.toNat % n = 0 →
      translate s va .store = .ok x s → x.ca = 2#3 ∨ x.ca = 7#3 → watchMatch s x.pa .store = true →
      watchLive s = true → traps i .watch s) ∧
    (∀ n i l, (n, i) = (4, Instr.sw base rt offset) ∨ s.mips3 = true ∧ (n, i) = (8, Instr.sd base rt offset) →
      va.toNat % n = 0 → AcceleratedRef s va x.pa x → l = (List.range n).map (orderedByte s.bigEndianCpu n (s.rget rt)) →
      (s.ext.gather = none →
        (x.pa.toNat % 2 ^ s.hw.blkLog ≠ 0 → (∀ a, x.pa.toNat ≤ a → a < x.pa.toNat + n → s.physAt a = .ram) →
          storeCompletes i
            (afterUncachedWrite true x.pa n (orderedByte s.bigEndianCpu n (s.rget rt)) x.uc 2#2) s) ∧
        (x.pa.toNat % 2 ^ s.hw.blkLog = 0 →
          storeCompletes i (afterGather x.pa
            { base := x.pa, uc := x.uc, mode := .undetermined, n := n, stores := [(x.pa, l)] }) s)) ∧
      (∀ g m g', s.ext.gather = some g → g.uc = x.uc →
        (g.mode = .sequential → n = 8 → g.n % 8 = 4 → exec i s = .refused .unpairedGather) ∧
        (¬ (g.mode = .sequential ∧ n = 8 ∧ g.n % 8 = 4) →
          m = .sequential ∧ g.mode ≠ .identical ∧ x.pa.toNat = g.base.toNat + g.n ∨
            m = .identical ∧ g.mode ≠ .sequential ∧ x.pa = g.base ∧ g.n ≠ 0 →
          g' = { g with mode := m, n := g.n + n, stores := g.stores ++ [(x.pa, l)] } →
          (g'.n ≠ 2 ^ s.hw.blkLog → storeCompletes i (afterGather x.pa g') s) ∧
          (∀ bytes, g'.n = 2 ^ s.hw.blkLog → bytes = storesBytes g'.stores → bytes.length = g'.n →
            (∀ a, g.base.toNat ≤ a → a < g.base.toNat + g'.n → s.physAt a = .ram) →
            storeCompletes i (afterBlockGather x.pa g' bytes (if m = .identical then 3#2 else 2#2)) s))) ∧
      (∀ g, s.ext.gather = some g → storesToRam s g.stores →
        x.uc ≠ g.uc ∨ ¬ (g.mode = .sequential ∧ n = 8 ∧ g.n % 8 = 4) ∧
          (g.mode = .identical ∨ x.pa.toNat ≠ g.base.toNat + g.n) ∧ (g.mode = .sequential ∨ x.pa ≠ g.base) →
        (x.pa.toNat % 2 ^ s.hw.blkLog = 0 →
          storeCompletes i (afterFlush x.pa .store g.stores (flushedWrites g) (some
            { base := x.pa, uc := x.uc, mode := .undetermined, n := n, stores := [(x.pa, l)] })) s) ∧
        (x.pa.toNat % 2 ^ s.hw.blkLog ≠ 0 → storesToRam s [(x.pa, l)] →
          storeCompletes i (afterFlush x.pa .store (g.stores ++ [(x.pa, l)])
            (flushedWrites g ++ [.dspWrite true x.pa l x.uc 2#2]) none) s))) ∧
    (∀ n i, (n, i) ∈ [(1, Instr.sb base rt offset), (2, .sh base rt offset), (4, .sw base rt offset)] ∨
        s.mips3 = true ∧ (n, i) = (8, Instr.sd base rt offset) → va.toNat % n = 0 →
      ∀ g l, FlushRef s va x.pa .store x g → l = (List.range n).map (orderedByte s.bigEndianCpu n (s.rget rt)) →
        x.ca = 2#3 ∨ n < 4 → storesToRam s [(x.pa, l)] →
        storeCompletes i (afterFlush x.pa .store (g.stores ++ [(x.pa, l)])
          (flushedWrites g ++ [.dspWrite (x.ca == 7#3) x.pa l x.uc 1#2]) none) s) ∧
    (∀ (g : Gather) (b : Nat → Byte) n i v, (∀ k, b k = lastStored g.stores (x.pa.toNat + k)
        (Memory.read s.mem (x.pa.toNat + k))) →
      (n, i, v) ∈ [(1, Instr.lb base rt offset, sext64 (b 0)), (1, .lbu base rt offset, zext64 (b 0)),
          (2, .lh base rt offset, sext64 (BitVec.ofNat 16 (orderedValue s.bigEndianCpu 2 b))),
          (2, .lhu base rt offset, BitVec.ofNat 64 (orderedValue s.bigEndianCpu 2 b)),
          (4, .lw base rt offset, sext64 (BitVec.ofNat 32 (orderedValue s.bigEndianCpu 4 b)))] ∨
        s.mips3 = true ∧ (n, i, v) ∈ [(4, Instr.lwu base rt offset, BitVec.ofNat 64 (orderedValue s.bigEndianCpu 4 b)),
          (8, .ld base rt offset, BitVec.ofNat 64 (orderedValue s.bigEndianCpu 8 b))] → va.toNat % n = 0 →
      FlushRef s va x.pa .load x g → s.ext.replies = [] →
      (∀ a, x.pa.toNat ≤ a → a < x.pa.toNat + n → s.physAt a = .ram) →
      loadCompletes i rt v (afterFlush x.pa .load g.stores
        (flushedWrites g ++ [.dspRead 0#3 x.pa n x.uc 1#2]) none) s)

/-- R571 to R574, R358: the stores to cached memory write exactly the `n` bytes of their line.  A DirtyExclusive line that
hits is written at once; a Shared block is upgraded first by a request on the System interface, a CleanExclusive one
silently; a block in no cache is read from memory first, for ownership.  A watched address that hits is the Watch
exception (R1077).  That an idle processor's request has number 0 is the model's choice (log 66), and so is way 0 of an
empty primary set where the environment names none (U13; log 22). -/
def Obligations.StoreHit : Prop :=
  ∀ (s : State) (base rt : BitVec 5) (offset : BitVec 16) (x : Xlate) (va : DWord) (w : Bool) (n : Nat) (i : Instr)
    (b : Nat → Byte), va = s.rget base + sext64 offset →
    (n, i) ∈ [(1, Instr.sb base rt offset), (2, .sh base rt offset), (4, .sw base rt offset)] ∨
      s.mips3 = true ∧ (n, i) = (8, Instr.sd base rt offset) →
    va.toNat % n = 0 → b = orderedByte s.bigEndianCpu n (s.rget rt) →
    (s.caches.wf = true → DataHit s va x.pa .store x w →
      ((s.dtag (dSet x.va) w).st = 3#2 → storeCompletes i (afterWriteHit x.va x.pa w n b) s) ∧
      (∀ v, (s.dtag (dSet x.va) w).st ≠ 3#2 → s.busFree →
        (InSecondary s x.va x.pa v 1#2 → s.ext.replies = [] →
          storeCompletes i (afterWriteOwned x.va x.pa w v n b
            { s.ext with bus := .upgrade 0#3 x.pa 1#2 1#2 v :: s.ext.bus }) s) ∧
        (InSecondary s x.va x.pa v 2#2 → storeCompletes i (afterWriteOwned x.va x.pa w v n b s.ext) s))) ∧
    (s.caches.wf = true → DataMiss s va x.pa .store x → storeCompletes i (afterWriteMiss x.va x.pa x.ca 1#2 n b) s) ∧
    (translate s va .store = .ok x s → isCached x.ca = true → dHit s x.va x.pa = some w →
      watchMatch s x.pa .store = true → watchLive s = true → traps i .watch s)

/-- R575, R576, R577, R580, R581: the unaligned loads, of an uncached address, of a line in the primary data cache and of a
block in no cache.  `k` is the position in the aligned unit of the byte at the address; the left form merges the bytes
0 to `k` on top of the old low bytes, the right form the bytes from `k` up below the old high bytes.  LDL and LDR need
MIPS III.  That an idle processor's request has number 0 is the model's choice (log 66), and so is way 0 of an empty
primary set where the environment names none (U13; log 22). -/
def Obligations.UnalignedLoads : Prop :=
  ∀ (s : State) (base rt : BitVec 5) (offset : BitVec 16) (x : Xlate) (va : DWord) (n k : Nat) (pa : PAddr) (b : Nat → Byte)
    (after : State → State → Prop),
    va = s.rget base + sext64 offset → pa = BitVec.ofNat 40 (x.pa.toNat / n * n) →
    k = (if s.bigEndianCpu then n - 1 - x.va.toNat % n else x.va.toNat % n) →
    (loadSource s va (pa + BitVec.ofNat 40 (if s.bigEndianCpu then n - 1 - k else 0)) (k + 1) x 1#2 false b after →
      (n = 4 → loadCompletes (.lwl base rt offset) rt (sext64 (BitVec.ofNat 32
        (orderedValue s.bigEndianCpu (k + 1) b * 256 ^ (3 - k) + (s.rget rt).toNat % 256 ^ (3 - k)))) after s) ∧
      (n = 8 → s.mips3 = true → loadCompletes (.ldl base rt offset) rt (BitVec.ofNat 64
        (orderedValue s.bigEndianCpu (k + 1) b * 256 ^ (7 - k) + (s.rget rt).toNat % 256 ^ (7 - k))) after s)) ∧
    (loadSource s va (pa + BitVec.ofNat 40 (if s.bigEndianCpu then 0 else k)) (n - k) x 1#2 false b after →
      (n = 4 → loadCompletes (.lwr base rt offset) rt (sext64 (BitVec.ofNat 32
        ((s.rget rt).toNat / 256 ^ (4 - k) * 256 ^ (4 - k) + orderedValue s.bigEndianCpu (4 - k) b))) after s) ∧
      (n = 8 → s.mips3 = true → loadCompletes (.ldr base rt offset) rt (BitVec.ofNat 64
        ((s.rget rt).toNat / 256 ^ (8 - k) * 256 ^ (8 - k) + orderedValue s.bigEndianCpu (8 - k) b)) after s)) ∧
    (s.mips3 = false → traps (.ldl base rt offset) .reservedInstr s ∧ traps (.ldr base rt offset) .reservedInstr s)

/-- R575, R578, R579, R582, R583: the unaligned stores, to an uncached address, to a line in the primary data cache and to a
block in no cache, write exactly the bytes at the positions 0 to `k` (left) or `k` and up (right) of the aligned unit.
SDL and SDR need MIPS III.  That an idle processor's request has number 0 is the model's choice (log 66), and so is way
0 of an empty primary set where the environment names none (U13; log 22). -/
def Obligations.UnalignedStores : Prop :=
  ∀ (s : State) (base rt : BitVec 5) (offset : BitVec 16) (x : Xlate) (va : DWord) (n k : Nat) (pa : PAddr)
    (after : State → State → Prop),
    va = s.rget base + sext64 offset → pa = BitVec.ofNat 40 (x.pa.toNat / n * n) →
    k = (if s.bigEndianCpu then n - 1 - x.va.toNat % n else x.va.toNat % n) →
    (storeTarget s va (pa + BitVec.ofNat 40 (if s.bigEndianCpu then n - 1 - k else 0)) (k + 1) x 1#2
        (fun i => (s.rget rt).extractLsb' (8 * ((if s.bigEndianCpu then k - i else i) + (n - 1 - k))) 8) after →
      (n = 4 → storeCompletes (.swl base rt offset) after s) ∧
      (n = 8 → s.mips3 = true → storeCompletes (.sdl base rt offset) after s)) ∧
    (storeTarget s va (pa + BitVec.ofNat 40 (if s.bigEndianCpu then 0 else k)) (n - k) x 1#2
        (fun i => (s.rget rt).extractLsb' (8 * (if s.bigEndianCpu then n - 1 - k - i else i)) 8) after →
      (n = 4 → storeCompletes (.swr base rt offset) after s) ∧
      (n = 8 → s.mips3 = true → storeCompletes (.sdr base rt offset) after s)) ∧
    (s.mips3 = false → traps (.sdl base rt offset) .reservedInstr s ∧ traps (.sdr base rt offset) .reservedInstr s)

/-- R585, R586, R259: LL and LLD load as LW and LD do, set LLbit and remember the block: from a line in the primary data
cache, from memory for a block in no cache, and from an uncached address in memory (U21; log 40).  LLD needs MIPS III.
That an idle processor's request has number 0 is the model's choice (log 66), and so is way 0 of an empty primary set
where the environment names none (U13; log 22). -/
def Obligations.LinkedLoad : Prop :=
  ∀ (s : State) (base rt : BitVec 5) (offset : BitVec 16) (x : Xlate) (va : DWord) (b : Nat → Byte)
    (after : State → State → Prop), va = s.rget base + sext64 offset →
    ∀ links : Instr → DWord → Prop,
      (∀ i v, links i v ↔ ∃ t, exec i s = .next t ∧ gprBecomes rt v s t ∧ fprSame s t ∧
        t.llblock = s.hw.blockBase x.pa ∧ after s t) →
    (loadSource s va x.pa 4 x 2#2 true b after → va.toNat % 4 = 0 →
      links (.ll base rt offset) (sext64 (BitVec.ofNat 32 (orderedValue s.bigEndianCpu 4 b)))) ∧
    (loadSource s va x.pa 8 x 2#2 true b after → va.toNat % 8 = 0 → s.mips3 = true →
      links (.lld base rt offset) (BitVec.ofNat 64 (orderedValue s.bigEndianCpu 8 b))) ∧
    (s.mips3 = false → traps (.lld base rt offset) .reservedInstr s)

/-- R587, R588, R259: SC and SCD.  With LLbit set they store as SW and SD do and give 1: to a line of the primary data
cache, of which a Shared one is upgraded, to a line read into it for ownership, and to an uncached address (U21; log 40).
Without it they store nothing, leave every byte of memory, the caches and the boundary alone and give 0.  LLbit ends clear.
A watched address is the Watch exception, whatever LLbit (R1077); SCD needs MIPS III.  Request number 0 of an idle processor
and way 0 of an empty primary set are the model's choices (log 66; U13, log 22). -/
def Obligations.ConditionalStore : Prop :=
  ∀ (s : State) (base rt : BitVec 5) (offset : BitVec 16) (x : Xlate) (va : DWord) (n : Nat) (i : Instr),
    va = s.rget base + sext64 offset →
    (n, i) ∈ [(4, Instr.sc base rt offset), (8, .scd base rt offset)] →
    (n = 8 → s.mips3 = false → traps i .reservedInstr s) ∧
    ((n = 8 → s.mips3 = true) → va.toNat % n = 0 →
      (s.llbit = true → ∀ after, storeTarget s va x.pa n x 2#2 (orderedByte s.bigEndianCpu n (s.rget rt)) after →
        ∃ t, exec i s = .next t ∧ gprBecomes rt 1#64 s t ∧ fprSame s t ∧ after s t) ∧
      (translate s va .store = .ok x s →
        (s.llbit = false → (watchMatch s x.pa .store = true → watchLive s = false) →
          ∃ t, exec i s = .next t ∧ gprBecomes rt 0#64 s t ∧ hiLoSame s t ∧ fallsThrough s t ∧
            sameSystem (s.watched x.pa .store) t) ∧
        (x.ca = 2#3 ∨ isCached x.ca = true ∧ (∃ w, dHit s x.va x.pa = some w) → watchMatch s x.pa .store = true →
          watchLive s = true → traps i .watch s)))

/-- R237, R250, R561: an address that is no multiple of the size raises Address Error before anything else is done, load or
store, general or floating-point; the recorded address has its upper half cleared in 32-bit User mode (R296).  The
doubleword floating-point forms are said of the registers they may name (R762). -/
def Obligations.AlignmentErrors : Prop :=
  ∀ (s : State) (base index rt : BitVec 5) (offset : BitVec 16) (va vx : DWord),
    va = s.rget base + sext64 offset → vx = s.rget base + s.rget index →
    (∀ n i, (n, i) ∈ [(2, Instr.lh base rt offset), (2, .lhu base rt offset), (4, .lw base rt offset),
        (4, .ll base rt offset)] → va.toNat % n ≠ 0 → traps i (.addressError (checkedVa s va .load) .load) s) ∧
    (∀ n i, (n, i) ∈ [(2, Instr.sh base rt offset), (4, .sw base rt offset), (4, .sc base rt offset)] →
      va.toNat % n ≠ 0 → traps i (.addressError (checkedVa s va .store) .store) s) ∧
    (s.mips3 = true →
      (∀ n i, (n, i) ∈ [(4, Instr.lwu base rt offset), (8, .ld base rt offset), (8, .lld base rt offset)] →
        va.toNat % n ≠ 0 → traps i (.addressError (checkedVa s va .load) .load) s) ∧
      (∀ n i, (n, i) ∈ [(8, Instr.sd base rt offset), (8, .scd base rt offset)] →
        va.toNat % n ≠ 0 → traps i (.addressError (checkedVa s va .store) .store) s)) ∧
    (s.cp1Usable = true →
      (va.toNat % 4 ≠ 0 → traps (.lwc1 base rt offset) (.addressError (checkedVa s va .load) .load) s ∧
        traps (.swc1 base rt offset) (.addressError (checkedVa s va .store) .store) s) ∧
      (s.fr = true ∨ rt.getLsbD 0 = false → va.toNat % 8 ≠ 0 →
        traps (.ldc1 base rt offset) (.addressError (checkedVa s va .load) .load) s ∧
        traps (.sdc1 base rt offset) (.addressError (checkedVa s va .store) .store) s) ∧
      (s.mips4 = true →
        (vx.toNat % 4 ≠ 0 → traps (.lwxc1 base index rt) (.addressError (checkedVa s vx .load) .load) s ∧
          traps (.swxc1 base index rt) (.addressError (checkedVa s vx .store) .store) s) ∧
        (s.fr = true ∨ rt.getLsbD 0 = false → vx.toNat % 8 ≠ 0 →
          traps (.ldxc1 base index rt) (.addressError (checkedVa s vx .load) .load) s ∧
          traps (.sdxc1 base index rt) (.addressError (checkedVa s vx .store) .store) s)))

/-- R590 to R592, R256, R259: SYNC graduates once the global-performed signal is asserted and no uncached store but the
accelerated ones is pending, and changes LLbit only.  PREF and PREFX raise no address exception: a prefetch that does not
translate or is uncached changes LLbit only, and one that hits the data cache and needs no ownership the LRU bit too; PREF
needs MIPS IV.  That a hint which R591 calls reserved does nothing is the model's choice (log 46), and so is it that a
prefetch with a store hint translates as a load (log 61) and that one under a reserved cache algorithm is dropped (log 12).
-/
def Obligations.SyncPrefetch : Prop :=
  ∀ (s : State) (base index hint stype : BitVec 5) (offset : BitVec 16),
    ∀ idle : Instr → Prop, idle = (fun i => ∃ t, exec i s = .next t ∧ gprSame s t ∧ hiLoSame s t ∧ fallsThrough s t ∧
      t.llbit = false ∧ sameSystem s { t with llbit := s.llbit }) →
    (∀ held : Prop, (held ↔ (∃ u ∈ s.ext.fifo, u.accel = false) ∨
        ∃ e ∈ s.ext.gathered, ∃ pa bytes uc cause, .dspWrite false pa bytes uc cause ∈ e) →
      (s.ext.gblPerf = true → ¬ held → idle (.sync stype)) ∧
      (s.ext.gblPerf = false ∨ held → exec (.sync stype) s = .next { s with note := .waiting })) ∧
    (s.mips4 = false → traps (.pref base hint offset) .reservedInstr s) ∧
    (∀ i va, (i = .pref base hint offset ∧ s.mips4 = true ∧ va = s.rget base + sext64 offset ∨
        i = .prefx base index hint ∧ s.mips4 = true ∧ s.cp1Usable = true ∧ va = s.rget base + s.rget index) →
      (hint ∉ [0#5, 1#5, 4#5, 5#5, 6#5, 7#5] → idle i) ∧
      ((∀ x, translate s va .load ≠ .ok x s) → idle i) ∧
      (∀ x, translate s va .load = .ok x s →
        (isCached x.ca = false → idle i) ∧
        (∀ w, isCached x.ca = true → dRefilling s x.va x.pa = false → (checkDTags x.va s).1 = false →
          dHit s x.va x.pa = some w → hint ∈ [0#5, 4#5, 6#5] ∨ hint ∈ [1#5, 5#5, 7#5] ∧ (s.dtag (dSet x.va) w).st = 3#2 →
          ∃ t, exec i s = .next t ∧ gprSame s t ∧ hiLoSame s t ∧ fallsThrough s t ∧ t.llbit = false ∧
            t.caches = { s.caches with dlru := sparseSet false s.caches.dlru (dSet x.va) (!w) } ∧
            sameSystem s { t with llbit := s.llbit, caches := s.caches, events := s.events })))

/-! ## Address translation (spec/21_address_translation.md) -/

/-- R297, R300, R302, R305, R306: the unmapped and the illegal addresses.  In Kernel mode kseg0 and kseg1 map to the low 29
bits, with algorithm K0 and uncached; with ERL = 1 the low 2 Gbytes are uncached and unmapped; xkphys takes the algorithm
and the physical address from the virtual one.  A User-mode data reference uses the low word with UX = 0, and an address
with bit 31 of it set, or with UX = 1 one above 2^44, is an Address Error; in Supervisor mode so is every address that R298
and R299 do not map, and in Kernel mode every one that is neither mapped nor in xkphys, kseg0, kseg1 or the low 2 Gbytes. -/
def Obligations.UnmappedSegments : Prop :=
  ∀ (s : State) (va : DWord) (k : AccessKind),
    (s.mode = .kernel → ∀ off : BitVec 29,
      (va = 0xFFFFFFFF8#36 ++ 0#28 + zext64 off →
        translate s va k = .ok { va := va, pa := off.setWidth 40, ca := s.cp0.k0, uc := 3#2 } s) ∧
      (va = 0xFFFFFFFFA#36 ++ 0#28 + zext64 off →
        translate s va k = .ok { va := va, pa := off.setWidth 40, ca := 2#3, uc := 3#2 } s)) ∧
    (s.statusBit 2 = true → va.toNat < 2 ^ 31 →
      translate s va k = .ok { va := va, pa := va.setWidth 40, ca := 2#3, uc := 0#2 } s) ∧
    (s.mode = .kernel → s.statusBit 7 = true → ∀ (ca : BitVec 3) (uc : BitVec 2) (mid : BitVec 17) (pa : PAddr),
      va = (2#2 ++ ca ++ uc ++ mid ++ pa : BitVec (2 + 3 + 2 + 17 + 40)) →
      ((ca = 2#3 ∨ ca = 7#3 ∨ uc = 0#2) → mid = 0#17 →
        translate s va k = .ok { va := va, pa := pa, ca := ca, uc := uc } s) ∧
      (mid ≠ 0#17 ∨ ca ≠ 2#3 ∧ ca ≠ 7#3 ∧ uc ≠ 0#2 → translate s va k = .exc (.addressError va k) s)) ∧
    (s.mode = .user → s.statusBit 5 = false →
      (k = .fetch → 2 ^ 31 ≤ va.toNat → translate s va k = .exc (.addressError va k) s) ∧
      (k ≠ .fetch → va.getLsbD 31 = true → translate s va k = .exc (.addressError (zext64 (va.setWidth 32)) k) s)) ∧
    (s.mode = .user → s.statusBit 5 = true → 2 ^ 44 ≤ va.toNat → translate s va k = .exc (.addressError va k) s) ∧
    (s.mode = .supervisor → ¬ mappedIn s va.toNat → translate s va k = .exc (.addressError va k) s) ∧
    (s.mode = .kernel → ¬ mappedIn s va.toNat → 2 ^ 31 ≤ va.toNat → va.toNat < 0xFFFFFFFF80000000 →
      (s.statusBit 7 = true → va.toNat < 2 ^ 63 ∨ 0xC000000000000000 ≤ va.toNat) →
      translate s va k = .exc (.addressError va k) s)

/-- R310 to R313: translation through the TLB of an address that the mode maps, User, Supervisor or Kernel (R297 to R303).
No matching entry is a TLB Refill; the page that address bit `b` selects gives TLB Invalid when it is not valid, TLB
Modified for a store when it is not dirty, else the frame and the low `b` address bits.  A double match is refused by the
model's choice (U12; log 13). -/
def Obligations.TlbLookup : Prop :=
  ∀ (s : State) (va : DWord) (k : AccessKind), mappedIn s va.toNat →
    ∀ m : Nat → Prop,
      (∀ i, m i ↔ (s.tlbAt i).matchable = true ∧ (s.tlbAt i).r = va.extractLsb' 62 2 ∧
        (s.tlbAt i).vpn2 &&& ~~~((s.tlbAt i).mask.setWidth 31) =
          va.extractLsb' 13 31 &&& ~~~((s.tlbAt i).mask.setWidth 31) ∧
        ((s.tlbAt i).g = true ∨ (s.tlbAt i).asid = s.cp0.entryHi.extractLsb' 0 8)) →
    ((∀ i, i < 64 → ¬ m i) → translate s va k = .exc (.tlbRefill va k) s) ∧
    (∀ i b p, i < 64 → (∀ j, j < 64 → (m j ↔ j = i)) →
      ((s.tlbAt i).mask, b) ∈ [(0x000#12, 12), (0x003#12, 14), (0x00F#12, 16), (0x03F#12, 18), (0x0FF#12, 20),
        (0x3FF#12, 22), (0xFFF#12, 24)] →
      p = (if va.getLsbD b then (s.tlbAt i).odd else (s.tlbAt i).even) →
      (p.v = false → translate s va k = .exc (.tlbInvalid va k) s) ∧
      (p.v = true → k = .store → p.d = false → translate s va k = .exc (.tlbModified va) s) ∧
      (p.v = true → k ≠ .store ∨ p.d = true → ∃ x, translate s va k = .ok x s ∧ x.va = va ∧ x.ca = p.c ∧ x.uc = p.uc ∧
        x.pa.toNat = p.pfn.toNat * 2 ^ 12 / 2 ^ b * 2 ^ b + va.toNat % 2 ^ b)) ∧
    (∀ i j, i < 64 → j < 64 → i ≠ j → m i → m j → translate s va k = .refuse .tlbMultipleMatch)

/-! ## Coprocessor 0 (spec/45_cp0_instructions.md) -/

/-- R710, R714, R716: without access to coprocessor 0 every one of its instructions raises Coprocessor Unusable with CE = 0,
before anything else; DMFC0 and DMTC0 raise Reserved Instruction without MIPS III. -/
def Obligations.Cp0Gate : Prop :=
  ∀ (s : State) (rt rd base op : BitVec 5) (sel : BitVec 4) (offset : BitVec 16),
    (s.cp0Usable = false → ∀ i ∈ [Instr.mfc0 rt rd sel, .dmfc0 rt rd sel, .mtc0 rt rd sel, .dmtc0 rt rd sel, .tlbr,
      .tlbwi, .tlbwr, .tlbp, .eret, .rfe, .cache base op offset], traps i (.copUnusable 0#2) s) ∧
    (s.cp0Usable = true → s.mips3 = false → ∀ i ∈ [Instr.dmfc0 rt rd sel, .dmtc0 rt rd sel],
      traps i .reservedInstr s) ∧
    (s.cp0Usable = true ↔ s.mode = .kernel ∨ s.statusBit 28 = true)

/-- R713, R714: a move from coprocessor 0 completes with the register's value, 32-bit registers sign-extended; and what the
registers read as (R81, R83, R91, R117, R128, R130, R141, R200).  The performance register that the low instruction bits
select (R171, R178), with the syndrome of the R12000A (R185) and the miss address of an armed counter 3 (R184); the
Diagnostic fields that are as written (R165), at the places of the default layout (log 8). -/
def Obligations.MoveFromCp0 : Prop :=
  ∀ (s : State) (rt rd : BitVec 5) (sel : BitVec 4), s.cp0Usable = true →
    completesGpr (.mfc0 rt rd sel) rt (sext64 ((cp0Read s rd sel).extractLsb' 0 32)) s ∧
    (s.mips3 = true → completesGpr (.dmfc0 rt rd sel) rt (cp0Read s rd sel) s) ∧
    cp0Read s 0#5 sel = sext64 (BitVec.ofBool s.cp0.probeFail ++ 0#25 ++ s.cp0.index : BitVec (1 + 25 + 6)) ∧
    (s.cp0.wired.toNat ≤ (cp0Read s 1#5 sel).toNat ∧ (cp0Read s 1#5 sel).toNat ≤ 63) ∧
    cp0Read s 2#5 sel = s.cp0.entryLo0 ∧ cp0Read s 3#5 sel = s.cp0.entryLo1 ∧ cp0Read s 4#5 sel = s.cp0.context ∧
    (cp0Read s 5#5 sel).toNat = s.cp0.pageMask.toNat * 2 ^ 13 ∧ (cp0Read s 6#5 sel).toNat = s.cp0.wired.toNat ∧
    cp0Read s 8#5 sel = s.cp0.badVAddr ∧ cp0Read s 9#5 sel = sext64 s.cp0.count ∧
    cp0Read s 10#5 sel = s.cp0.entryHi ∧ cp0Read s 11#5 sel = sext64 s.cp0.compare ∧
    cp0Read s 12#5 sel = sext64 s.cp0.status ∧
    cp0Read s 13#5 sel = sext64 (BitVec.ofBool s.cp0.causeBD ++ 0#1 ++ s.cp0.causeCE ++ 0#12 ++
      (BitVec.ofBool (s.cp0.timerLatch || s.perfIrq) ++ s.cp0.interrupt ++ s.cp0.softIp) ++ 0#1 ++ s.cp0.excCode ++
      0#2 : BitVec (1 + 1 + 2 + 12 + (1 + 5 + 2) + 1 + 5 + 2)) ∧
    cp0Read s 14#5 sel = s.cp0.epc ∧
    cp0Read s 15#5 sel = sext64 (0#16 ++ s.hw.pridImp ++ s.hw.pridRev : BitVec (16 + 8 + 8)) ∧
    (cp0Read s 16#5 sel).extractLsb' 26 6 = 0b011011#6 ∧
    (cp0Read s 16#5 sel).extractLsb' 3 19 = s.hw.modeBits.extractLsb' 3 19 ∧
    (cp0Read s 16#5 sel).extractLsb' 0 3 = s.cp0.k0 ∧
    cp0Read s 17#5 sel = sext64 s.cp0.llAddr ∧ cp0Read s 18#5 sel = sext64 s.cp0.watchLo ∧
    cp0Read s 19#5 sel = sext64 s.cp0.watchHi ∧ cp0Read s 20#5 sel = s.cp0.xcontext ∧
    (cp0Read s 21#5 sel).toNat = s.cp0.frameMask.toNat ∧ (cp0Read s 26#5 sel).toNat = s.cp0.ecc.toNat ∧
    cp0Read s 27#5 sel = sext64 s.cp0.cacheErr ∧ cp0Read s 28#5 sel = sext64 s.cp0.tagLo ∧
    cp0Read s 29#5 sel = sext64 s.cp0.tagHi ∧ cp0Read s 30#5 sel = s.cp0.errorEpc ∧
    (∀ n : Fin 4, n.val = sel.toNat / 2 → (s.hw.variant = .r10000 → n.val < 2) →
      (sel.getLsbD 0 = false → cp0Read s 25#5 sel = sext64 (s.cp0.perf.ctl.get n |||
        (if s.hw.variant = .r12000A ∧ n = 0 then s.cp0.perf.syndrome.setWidth 32 <<< 23 else 0#32))) ∧
      (sel.getLsbD 0 = true → cp0Read s 25#5 sel =
        if n = 3 ∧ s.cp0.perf.cnt3Miss = true then s.cp0.perf.cnt3High ++ s.cp0.perf.cnt.get 3
        else sext64 (s.cp0.perf.cnt.get n))) ∧
    (s.hw.diagLayout = defaultDiagLayout → ∀ d, d = cp0Read s 22#5 sel →
      d.extractLsb' 23 4 = s.cp0.diag.ghistory ∧ d.getLsbD 27 = s.cp0.diag.btacDisable ∧
      d.extractLsb' defaultDiagLayout.bpMode 2 = s.cp0.diag.bpMode ∧ d.getLsbD defaultDiagLayout.dbrc = s.cp0.diag.dbrc ∧
      d.extractLsb' defaultDiagLayout.bpIdx 11 = s.cp0.diag.bpIdx ∧ d.extractLsb' defaultDiagLayout.bpOp 2 = s.cp0.diag.bpOp ∧
      (s.cp0.diag.bpOp ≠ 0#2 → s.cp0.diag.inSlot = false →
        d.extractLsb' defaultDiagLayout.bpState 2 = s.cp0.diag.bpState))

/-- R717: a move to coprocessor 0, MTC0 or DMTC0, completes with the effect the table gives for each register and changes
nothing else; the read-only and unused registers ignore it.  The Diagnostic register takes its writable fields, at their
places in the layout (R161, R162); a performance control register its implemented bits (R172, R179), a counter the
whole word (R171, R178), and the arming move the miss address (R184).  That Count written with the value of Compare
sets the timer latch, and Compare written with the value of Count leaves it clear, is the model's choice (log 25). -/
def Obligations.MoveToCp0 : Prop :=
  ∀ (s : State) (rt rd : BitVec 5) (sel : BitVec 4) (v : DWord) (w : Word), s.cp0Usable = true → v = s.rget rt →
    w = v.extractLsb' 0 32 → ∀ i, (i = .mtc0 rt rd sel ∨ i = .dmtc0 rt rd sel ∧ s.mips3 = true) →
    (rd = 0#5 → completesCp0 i { s.cp0 with index := v.extractLsb' 0 6 } s) ∧
    (rd ∈ [1#5, 7#5, 8#5, 15#5, 23#5, 24#5, 27#5, 31#5] → completesCp0 i s.cp0 s) ∧
    (rd = 2#5 → completesCp0 i { s.cp0 with entryLo0 := v &&& 0xC0000003FFFFFFFF#64 } s) ∧
    (rd = 3#5 → completesCp0 i { s.cp0 with entryLo1 := v &&& 0xC0000003FFFFFFFF#64 } s) ∧
    (rd = 4#5 → completesCp0 i
      { s.cp0 with context := (v.extractLsb' 23 41 ++ s.cp0.context.extractLsb' 0 23 : BitVec (41 + 23)) } s) ∧
    (rd = 5#5 → completesCp0 i { s.cp0 with pageMask := v.extractLsb' 13 12 } s) ∧
    (rd = 6#5 → completesCp0 i { s.cp0 with wired := v.extractLsb' 0 6, randomBoundStep := s.steps + 1 } s) ∧
    (rd = 9#5 → completesCp0 i
      { s.cp0 with count := w, timerLatch := s.cp0.timerLatch || w == s.cp0.compare } s) ∧
    (rd = 10#5 → completesCp0 i { s.cp0 with entryHi := v &&& 0xC0000FFFFFFFE0FF#64 } s) ∧
    (rd = 11#5 → completesCp0 i { s.cp0 with compare := w, timerLatch := false } s) ∧
    (rd = 12#5 → completesCp0 i
      { s.cp0 with status := w &&& (if s.hw.variant = .r10000 then 0xFE7DFFFF#32 else 0xFF7DFFFF#32) } s) ∧
    (rd = 13#5 → completesCp0 i { s.cp0 with softIp := v.extractLsb' 8 2 } s) ∧
    (rd = 14#5 → completesCp0 i { s.cp0 with epc := v } s) ∧
    (rd = 16#5 → completesCp0 i { s.cp0 with k0 := v.extractLsb' 0 3 } s) ∧
    (rd = 17#5 → completesCp0 i { s.cp0 with llAddr := w } s) ∧
    (rd = 18#5 → completesCp0 i { s.cp0 with watchLo := w &&& 0xFFFFFFFB#32, watchPending := false } s) ∧
    (rd = 19#5 → completesCp0 i { s.cp0 with watchHi := w &&& 0x000000FF#32 } s) ∧
    (rd = 20#5 → completesCp0 i
      { s.cp0 with xcontext := (v.extractLsb' 37 27 ++ s.cp0.xcontext.extractLsb' 0 37 : BitVec (27 + 37)) } s) ∧
    (rd = 21#5 → completesCp0 i { s.cp0 with frameMask := v.extractLsb' 0 16 } s) ∧
    (rd = 22#5 → ∀ l, l = s.hw.diagLayout → completesCp0 i { s.cp0 with diag := {
        dbrc := v.getLsbD l.dbrc, bpMode := v.extractLsb' l.bpMode 2, bpState := v.extractLsb' l.bpState 2,
        bpIdx := v.extractLsb' l.bpIdx 11 &&& (if s.hw.variant = .r10000 then 0x1FF#11 else 0x7FF#11),
        bpOp := v.extractLsb' l.bpOp 2, btacDisable := decide (s.hw.variant ≠ .r10000) && v.getLsbD 27,
        ghistory := if s.hw.variant = .r10000 then 0#4 else v.extractLsb' 23 4, inSlot := false } } s) ∧
    (rd = 25#5 → (∃ p, completesCp0 i { s.cp0 with perf := p } s) ∧
      (∀ (n : Fin 4) (p : Perf), p = s.cp0.perf → n.val = sel.toNat / 2 → (s.hw.variant = .r10000 → n.val < 2) →
        (sel.getLsbD 0 = false → completesCp0 i { s.cp0 with perf := { p with ctl := p.ctl.set n (w &&&
          (if s.hw.variant = .r10000 then 0x1FF#32 else if n = 0 then 0x1FFFF#32 else if n = 3 then 0xFFFF#32
            else 0x7FFF#32)) } } s) ∧
        (sel.getLsbD 0 = true → completesCp0 i { s.cp0 with perf := { p with
          cnt := p.cnt.set n w, reload := if n = 1 then v.extractLsb' 0 16 else p.reload,
          cnt3Miss := if n = 3 then false else p.cnt3Miss } } s)) ∧
      (s.hw.variant ≠ .r10000 → 8 ≤ sel.toNat → ∀ p, p = s.cp0.perf → completesCp0 i { s.cp0 with perf := { p with
        cnt := p.cnt.set 3 (p.missAddr.extractLsb' 5 31 ++ 0#1), cnt3Miss := true,
        cnt3High := 0#12 ++ p.missAddr.extractLsb' 36 4 ++ 0#16 } } s)) ∧
    (rd = 26#5 → completesCp0 i { s.cp0 with ecc := v.extractLsb' 0 10 } s) ∧
    (rd = 28#5 → completesCp0 i { s.cp0 with tagLo := w } s) ∧
    (rd = 29#5 → completesCp0 i { s.cp0 with tagHi := w } s) ∧
    (rd = 30#5 → completesCp0 i { s.cp0 with errorEpc := v } s)

/-- R718, R721, R722: TLBR reads the entry that Index names into PageMask, EntryHi and the EntryLo registers; TLBP finds the
one entry that matches EntryHi, or sets Index.P and leaves any index.  The refusal of a double match is the model's
choice (U12; log 13). -/
def Obligations.TlbReadProbe : Prop :=
  ∀ (s : State) (e : TlbEntry), s.cp0Usable = true → e = s.tlbAt s.cp0.index.toNat →
    completesCp0 .tlbr { s.cp0 with
      pageMask := e.mask
      entryHi := (e.r ++ 0#18 ++ e.vpn2 ++ 0#5 ++ e.asid : BitVec (2 + 18 + 31 + 5 + 8))
      entryLo0 := (e.even.uc ++ 0#28 ++ e.even.pfn ++ e.even.c ++ BitVec.ofBool e.even.d ++ BitVec.ofBool e.even.v ++
        BitVec.ofBool e.g : BitVec (2 + 28 + 28 + 3 + 1 + 1 + 1))
      entryLo1 := (e.odd.uc ++ 0#28 ++ e.odd.pfn ++ e.odd.c ++ BitVec.ofBool e.odd.d ++ BitVec.ofBool e.odd.v ++
        BitVec.ofBool e.g : BitVec (2 + 28 + 28 + 3 + 1 + 1 + 1)) } s ∧
    ∀ m : Nat → Prop,
      (∀ i, m i ↔ (s.tlbAt i).matchable = true ∧ (s.tlbAt i).r = s.cp0.entryHi.extractLsb' 62 2 ∧
        (s.tlbAt i).vpn2 &&& ~~~((s.tlbAt i).mask.setWidth 31) =
          s.cp0.entryHi.extractLsb' 13 31 &&& ~~~((s.tlbAt i).mask.setWidth 31) ∧
        ((s.tlbAt i).g = true ∨ (s.tlbAt i).asid = s.cp0.entryHi.extractLsb' 0 8)) →
      ((∀ i, i < 64 → ¬ m i) → ∃ k, completesCp0 .tlbp { s.cp0 with probeFail := true, index := k } s) ∧
      (∀ i, i < 64 → (∀ j, j < 64 → (m j ↔ j = i)) →
        completesCp0 .tlbp { s.cp0 with probeFail := false, index := BitVec.ofNat 6 i } s) ∧
      (∀ i j, i < 64 → j < 64 → i ≠ j → m i → m j → exec .tlbp s = .refused .tlbMultipleMatch)

/-- R316, R719, R720, R141: TLBWI and TLBWR write the entry that PageMask, EntryHi and the EntryLo registers describe at
Index or at Random; every other entry that would allow a multiple match becomes unmatchable, and Status.TS says whether
there was one.  An illegal mask is refused by the model's choice (U3; log 14). -/
def Obligations.TlbWrite : Prop :=
  ∀ (s : State) (i : Instr) (k : BitVec 6) (n : TlbEntry), s.cp0Usable = true →
    (i = .tlbwi ∧ k = s.cp0.index ∨ i = .tlbwr ∧ k = s.random) →
    n.mask = s.cp0.pageMask → n.r = s.cp0.entryHi.extractLsb' 62 2 → n.vpn2 = s.cp0.entryHi.extractLsb' 13 31 →
    n.asid = s.cp0.entryHi.extractLsb' 0 8 → n.g = (s.cp0.entryLo0.getLsbD 0 && s.cp0.entryLo1.getLsbD 0) →
    n.matchable = true →
    (∀ p lo, (p, lo) ∈ [(n.even, s.cp0.entryLo0), (n.odd, s.cp0.entryLo1)] →
      p.pfn = ((lo.extractLsb' 18 16 &&& ~~~s.cp0.frameMask) ++ lo.extractLsb' 6 12 : BitVec (16 + 12)) ∧
        p.c = lo.extractLsb' 3 3 ∧ p.d = lo.getLsbD 2 ∧ p.v = lo.getLsbD 1 ∧ p.uc = lo.extractLsb' 62 2) →
    ∀ conflict : Nat → Prop,
      (∀ j, conflict j ↔ j ≠ k.toNat ∧ (s.tlbAt j).matchable = true ∧ (s.tlbAt j).r = n.r ∧
        (s.tlbAt j).vpn2 &&& ~~~(((s.tlbAt j).mask ||| n.mask).setWidth 31) =
          n.vpn2 &&& ~~~(((s.tlbAt j).mask ||| n.mask).setWidth 31) ∧
        ((s.tlbAt j).g = true ∨ n.g = true ∨ (s.tlbAt j).asid = n.asid)) →
    (n.mask ∈ [0x000#12, 0x003#12, 0x00F#12, 0x03F#12, 0x0FF#12, 0x3FF#12, 0xFFF#12] →
      ∃ t, exec i s = .next t ∧ t.tlbAt k.toNat = n ∧
        (∀ j, j < 64 → j ≠ k.toNat → (conflict j → t.tlbAt j = { s.tlbAt j with matchable := false }) ∧
          (¬ conflict j → t.tlbAt j = s.tlbAt j)) ∧
        (t.statusBit 21 = true ↔ ∃ j, j < 64 ∧ conflict j) ∧
        t.cp0 = { s.cp0 with status := t.cp0.status } ∧ t.cp0.status &&& 0xFFDFFFFF#32 = s.cp0.status &&& 0xFFDFFFFF#32 ∧
        gprSame s t ∧ hiLoSame s t ∧ fallsThrough s t ∧ sameSystem s { t with cp0 := s.cp0, tlb := s.tlb }) ∧
    (n.mask ∉ [0x000#12, 0x003#12, 0x00F#12, 0x03F#12, 0x0FF#12, 0x3FF#12, 0xFFF#12] →
      exec i s = .refused .illegalPageMask)

/-! ## CACHE (spec/22_caches.md) -/

/-- R365 to R377: the CACHE operations on the primary and the secondary caches, and Cache Barrier.  They break the link
(R259) and change only what is said.  An Index Load moves a tag or data to TagLo, TagHi and ECC, an Index Store moves it
back; Index Invalidate (I) clears the valid bit; a Hit operation that misses does nothing; a write-back moves an
Inconsistent line, its parity good, to its secondary block, and the line is invalid, on the R12000 with Index
WriteBack Invalidate (D) its tag zero too.  A secondary operation empties the way it names or hits, its state zero:
with write-back a DirtyExclusive block waits in the outgoing buffer for its block write; Status.CH tells a hit.  An
operation that translates takes the exception of its translation as a load would; one the spec does not define is
refused by the model's choice (U14; log 16).  TagLo and TagHi have the layout of the hardware (log 9).  The model's choices too
are the parity that an invalidation writes (log 60), the half of a quadword that an Index Load or Store Data (S) takes (log
32), and that the tags of the primary lines a secondary operation purges are not checked (log 72). -/
def Obligations.CacheOps : Prop :=
  ∀ (s : State) (base : BitVec 5) (offset : BitVec 16) (va : DWord) (way : Bool) (l : TagLayout), s.cp0Usable = true →
    va = s.rget base + sext64 offset → way = va.getLsbD 0 → l = s.hw.tagLayout →
    ∀ completes leaves : BitVec 5 → (State → Prop) → Prop,
      (∀ op P, completes op P ↔ ∃ t, exec (.cache base op offset) s = .next t ∧ t.llbit = false ∧ gprSame s t ∧
        hiLoSame s t ∧ fallsThrough s t ∧ sameSystem s { t with llbit := s.llbit, cp0 := s.cp0, caches := s.caches } ∧
        P t) →
      (∀ op P, leaves op P ↔ ∃ t, exec (.cache base op offset) s = .next t ∧ t.llbit = false ∧ gprSame s t ∧
        hiLoSame s t ∧ fallsThrough s t ∧ sameSystem s { t with
          llbit := s.llbit, cp0 := s.cp0, caches := s.caches, ext := s.ext, events := s.events } ∧ P t) →
    completes 0b10100#5 (fun t => t.cp0 = s.cp0 ∧ t.caches = s.caches) ∧
    ((checkITags va s).1 = false → completes 0b00000#5 (fun t => t.cp0 = s.cp0 ∧
      t.caches = (s.setItag (iSet va) way (ITag.of (s.itag (iSet va) way).tag false)).caches)) ∧
    completes 0b00100#5 (fun t => t.caches = s.caches ∧ t.cp0 = { s.cp0 with
      tagLo := itagLo l (s.itag (iSet va) way) (s.ilru (iSet va)), tagHi := itagHi l (s.itag (iSet va) way) }) ∧
    completes 0b00101#5 (fun t => t.caches = s.caches ∧ t.cp0 = { s.cp0 with
      tagLo := dtagLo l (s.dtag (dSet va) way) (s.dlru (dSet va)), tagHi := dtagHi l (s.dtag (dSet va) way) }) ∧
    completes 0b01000#5 (fun t => t.cp0 = s.cp0 ∧ t.caches =
      ((s.setItag (iSet va) way (itagOf l s.cp0.tagLo s.cp0.tagHi)).setIlru (iSet va)
        (s.cp0.tagLo.getLsbD l.iLRU)).caches) ∧
    completes 0b01001#5 (fun t => t.cp0 = s.cp0 ∧ t.caches =
      ((s.setDtag (dSet va) way (dtagOf l s.cp0.tagLo s.cp0.tagHi)).setDlru (dSet va)
        (s.cp0.tagLo.getLsbD l.dLRU)).caches) ∧
    completes 0b11000#5 (fun t => t.caches = s.caches ∧
      ∀ c : IWord, c = s.iword (iSet va) way (va.toNat / 4 % 16) → t.cp0 = { s.cp0 with
        tagLo := c.word, tagHi := (Config.predecode c.word ^^^ c.pre).setWidth 32,
        ecc := (BitVec.ofBool (evenParity ((Config.predecode c.word ^^^ c.pre) ++ c.word) ^^ c.parBad)).setWidth 10 }) ∧
    completes 0b11100#5 (fun t => t.cp0 = s.cp0 ∧ t.caches = (s.setIword (iSet va) way (va.toNat / 4 % 16)
      { pre := Config.predecode s.cp0.tagLo ^^^ s.cp0.tagHi.extractLsb' 0 4, word := s.cp0.tagLo,
        parBad := evenParity (s.cp0.tagHi.extractLsb' 0 4 ++ s.cp0.tagLo) != s.cp0.ecc.getLsbD 0 }).caches) ∧
    completes 0b11001#5 (fun t => t.caches = s.caches ∧ t.cp0 = { s.cp0 with
      tagLo := (s.dword (dSet va) way (va.toNat / 4 % 8)).word,
      ecc := (s.dword (dSet va) way (va.toNat / 4 % 8)).par.setWidth 10 }) ∧
    completes 0b11101#5 (fun t => t.cp0 = s.cp0 ∧ t.caches =
      (s.setDword (dSet va) way (va.toNat / 4 % 8) { word := s.cp0.tagLo, par := s.cp0.ecc.extractLsb' 0 4 }).caches) ∧
    (∀ op w d, op = 0b00001#5 ∧ w = way ∧ d = dSet va ∧ (checkDTags va s).1 = false ∨
        op = 0b10101#5 ∧ (∃ x, translate s va .load = .ok x s ∧ (checkDTags x.va s).1 = false ∧ d = dSet x.va ∧
          dHit s x.va x.pa = some w) →
      ∀ c : DTag, c = s.dtag d w → s.caches.wf = true →
      (c.mod ≠ 1#3 ∨ c.st = 0#2 → completes op (fun t => t.cp0 = s.cp0 ∧
        t.caches.sdata = s.caches.sdata)) ∧
      (c.mod = 1#3 → c.st ≠ 0#2 → (∀ k, k < 8 → (s.dword d w k).par = wordParity (s.dword d w k).word) →
        leaves op (fun t => t.cp0 = s.cp0 ∧ t.ext = s.ext ∧
          ∀ pa q, pa = dLinePa d c.tag → q = quadOf s.hw pa →
            (∀ k, k < 2 → t.squad (sSet s.hw pa) c.way (q + k) = SQuad.of (quadOfWords s.bigEndianMem
              (s.dword d w (4 * k)).word (s.dword d w (4 * k + 1)).word (s.dword d w (4 * k + 2)).word
              (s.dword d w (4 * k + 3)).word)) ∧
            (∀ set v k, k < 8 → ¬ (set = sSet s.hw pa ∧ v = c.way ∧ q ≤ k ∧ k < q + 2) →
              t.squad set v k = s.squad set v k))) ∧
      (c.mod ≠ 1#3 ∨ c.st = 0#2 ∨ (∀ k, k < 8 → (s.dword d w k).par = wordParity (s.dword d w k).word) →
        leaves op (fun t => (∀ set v, t.dtag set v = if set = d ∧ v = w
            then DTag.of (if op = 0b00001#5 ∧ s.hw.variant ≠ .r10000 then 0#28 else c.tag) 0#2 0#3 c.way
            else s.dtag set v) ∧
          t.caches.stag = s.caches.stag ∧ t.caches.ddata = s.caches.ddata ∧ t.caches.itag = s.caches.itag))) ∧
    (∀ x, translate s va .load = .ok x s →
      ((checkITags x.va s).1 = false →
        (iHit s x.va x.pa = none → completes 0b10000#5 (fun t => t.cp0 = s.cp0 ∧ t.caches = s.caches)) ∧
        (∀ w, iHit s x.va x.pa = some w → completes 0b10000#5 (fun t => t.cp0 = s.cp0 ∧
          t.caches = (s.setItag (iSet x.va) w (ITag.of (s.itag (iSet x.va) w).tag false)).caches))) ∧
      ((checkDTags x.va s).1 = false →
        (dHit s x.va x.pa = none → completes 0b10001#5 (fun t => t.cp0 = s.cp0 ∧ t.caches = s.caches) ∧
          completes 0b10101#5 (fun t => t.cp0 = s.cp0 ∧ t.caches = s.caches)) ∧
        (∀ w, dHit s x.va x.pa = some w → completes 0b10001#5 (fun t => t.cp0 = s.cp0 ∧ t.caches =
          (s.setDtag (dSet x.va) w
            (DTag.of (s.dtag (dSet x.va) w).tag 0#2 0#3 (s.dtag (dSet x.va) w).way)).caches))) ∧
      (∀ set q, set = sSet s.hw x.pa → q = s.squad set way (quadOf s.hw x.pa) →
        completes 0b00111#5 (fun t => t.caches = s.caches ∧ t.cp0 = { s.cp0 with
          tagLo := stagLo l (s.stag set way), tagHi := stagHi l (s.stag set way) (s.mru (mruIndex s x.pa)) }) ∧
        completes 0b01011#5 (fun t => t.cp0 = s.cp0 ∧ t.caches =
          ((s.setStag set way (stagOfRegs l s.cp0.tagLo s.cp0.tagHi)).setMru (mruIndex s x.pa)
            (s.cp0.tagHi.getLsbD l.sMRU)).caches) ∧
        completes 0b11011#5 (fun t => t.caches = s.caches ∧ t.cp0 = { s.cp0 with
          tagLo := q.data.extractLsb' (if va.getLsbD 3 then 0 else 64) 32,
          tagHi := q.data.extractLsb' (if va.getLsbD 3 then 32 else 96) 32,
          ecc := BitVec.ofBool q.sp ++ q.ecc }) ∧
        completes 0b11111#5 (fun t => t.cp0 = s.cp0 ∧ t.caches =
          (s.setSquad set way (quadOf s.hw x.pa)
            { data := if va.getLsbD 3 then 0#64 ++ (s.cp0.tagHi ++ s.cp0.tagLo) else (s.cp0.tagHi ++ s.cp0.tagLo) ++ 0#64,
              ecc := s.cp0.ecc.extractLsb' 0 9, sp := s.cp0.ecc.getLsbD 9 }).caches)) ∧
      (∀ set, set = sSet s.hw x.pa → s.caches.wf = true → (∀ v, properTag (s.stag set v)) → s.ext.outgoing = [] →
        ((∀ v, (s.stag set v).tag = stagOf x.pa → (s.stag set v).st = 0#2) → ∀ op ∈ [0b10011#5, 0b10111#5],
          completes op (fun t => t.caches = s.caches ∧
            t.cp0 = { s.cp0 with status := s.cp0.status &&& 0xFFFBFFFF#32 })) ∧
        (∀ op v c, c = s.stag set v → c.st ≠ 0#2 →
          op = 0b00011#5 ∧ v = way ∨ op ∈ [0b10011#5, 0b10111#5] ∧ c.tag = stagOf x.pa ∧
            ((s.stag set (!v)).tag = stagOf x.pa → (s.stag set (!v)).st = 0#2) →
          leaves op (fun t =>
            t.cp0.status = (if op = 0b00011#5 then s.cp0.status else s.cp0.status ||| 0x00040000#32) ∧
            (∀ set' w, t.stag set' w = if set' = set ∧ w = v then STag.of c.tag c.vindex 0#2 else s.stag set' w) ∧
            (∀ pa, pa = sBlockPa s.hw set c.tag → primaryPurged c.vindex pa s t ∧
              (op = 0b10011#5 → t.caches.sdata = s.caches.sdata) ∧
              (op ≠ 0b10011#5 → sSet s.hw pa = set → cleanLines c.vindex pa v s → flushedInto c.vindex pa set v s t ∧
                (c.st = 3#2 → (∀ k, k < sQuads s.hw → s.squad set v k = SQuad.of (s.squad set v k).data) →
                  t.ext.outgoing = [.blockWrite pa
                    (flaggedDwords ((List.range (sQuads s.hw)).map fun k => ((t.squad set v k).data, false))) v]))) ∧
            (op ≠ 0b10011#5 → c.st = 3#2 →
              ∃ data, t.ext.outgoing = [.blockWrite (sBlockPa s.hw set c.tag) data v]) ∧
            (op = 0b10011#5 ∨ c.st ≠ 3#2 → t.ext.outgoing =
              if s.hw.modeBits.getLsbD 6 then [.eliminate (sBlockPa s.hw set c.tag) c.st v] else []))) ∧
        ((s.stag set way).st = 0#2 → completes 0b00011#5 (fun t => t.cp0 = s.cp0 ∧ t.caches = s.caches)))) ∧
    (∀ e, translate s va .load = .exc e s →
      ∀ op ∈ [0b00011#5, 0b00111#5, 0b01011#5, 0b10000#5, 0b10001#5, 0b10011#5, 0b10101#5, 0b10111#5, 0b11011#5,
        0b11111#5], traps (.cache base op offset) e s) ∧
    (∀ op ∈ [0b00010#5, 0b00110#5, 0b01010#5, 0b01100#5, 0b01101#5, 0b01110#5, 0b01111#5, 0b10010#5, 0b10110#5,
      0b11010#5, 0b11110#5], exec (.cache base op offset) s = .refused .undefinedCacheOp) ∧
    (l = defaultTagLayout →
      (∀ (set : Nat) (t : ITag), itagOf l (itagLo l t (s.ilru set)) (itagHi l t) = t) ∧
      (∀ (set : Nat) (t : DTag), dtagOf l (dtagLo l t (s.dlru set)) (dtagHi l t) = t) ∧
      (∀ (i : Nat) (t : STag), stagOfRegs l (stagLo l t) (stagHi l t (s.mru i)) = t))

/-! ## Floating point (spec/46_fpu.md, spec/47_fpu_instructions.md) -/

/-- R413, R782, R810, R850: the gates of the floating-point instructions.  COP1: Coprocessor Unusable with CE = 1 first;
then Reserved Instruction for the doubleword moves without MIPS III, Unimplemented Operation for the L format without MIPS
III and for the MIPS IV operations and condition bits without MIPS IV.  COP1X: Reserved Instruction without MIPS IV first,
then Coprocessor Unusable. -/
def Obligations.FpGates : Prop :=
  ∀ (s : State) (rt base index hint fr ft fs fd : BitVec 5) (cc : BitVec 3) (offset : BitVec 16),
    ∀ compares, compares = [
      Instr.cFS ft fs cc, .cUnS ft fs cc, .cEqS ft fs cc, .cUeqS ft fs cc, .cOltS ft fs cc, .cUltS ft fs cc,
      .cOleS ft fs cc, .cUleS ft fs cc, .cSfS ft fs cc, .cNgleS ft fs cc, .cSeqS ft fs cc, .cNglS ft fs cc,
      .cLtS ft fs cc, .cNgeS ft fs cc, .cLeS ft fs cc, .cNgtS ft fs cc, .cFD ft fs cc, .cUnD ft fs cc,
      .cEqD ft fs cc, .cUeqD ft fs cc, .cOltD ft fs cc, .cUltD ft fs cc, .cOleD ft fs cc, .cUleD ft fs cc,
      .cSfD ft fs cc, .cNgleD ft fs cc, .cSeqD ft fs cc, .cNglD ft fs cc, .cLtD ft fs cc, .cNgeD ft fs cc,
      .cLeD ft fs cc, .cNgtD ft fs cc] →
    ∀ unimpl : Instr → Prop, unimpl = (fun i => exec i s =
      .next (takeException .floatingPoint (s.setFcr31 (fcr31WithCause s.fpu.fcr31 0b100000#6)))) →
    (s.cp1Usable = false →
      (∀ i ∈ [
      Instr.addS ft fs fd, .addD ft fs fd, .subS ft fs fd, .subD ft fs fd, .mulS ft fs fd, .mulD ft fs fd,
      .divS ft fs fd, .divD ft fs fd, .sqrtS fs fd, .sqrtD fs fd, .absS fs fd, .absD fs fd, .negS fs fd, .negD fs fd,
      .movS fs fd, .movD fs fd, .roundWS fs fd, .roundWD fs fd, .truncWS fs fd, .truncWD fs fd, .ceilWS fs fd,
      .ceilWD fs fd, .floorWS fs fd, .floorWD fs fd, .cvtWS fs fd, .cvtWD fs fd, .cvtSD fs fd, .cvtSW fs fd,
      .cvtDS fs fd, .cvtDW fs fd],
        traps i (.copUnusable 1#2) s) ∧
      (∀ i ∈ [
      Instr.roundLS fs fd, .roundLD fs fd, .truncLS fs fd, .truncLD fs fd, .ceilLS fs fd, .ceilLD fs fd,
      .floorLS fs fd, .floorLD fs fd, .cvtLS fs fd, .cvtLD fs fd, .cvtSL fs fd, .cvtDL fs fd],
        traps i (.copUnusable 1#2) s) ∧
      (∀ i ∈ [
      Instr.recipS fs fd, .recipD fs fd, .rsqrtS fs fd, .rsqrtD fs fd, .movfS cc fs fd, .movfD cc fs fd,
      .movtS cc fs fd, .movtD cc fs fd, .movzS rt fs fd, .movzD rt fs fd, .movnS rt fs fd, .movnD rt fs fd],
        traps i (.copUnusable 1#2) s) ∧
      (∀ i ∈ compares, traps i (.copUnusable 1#2) s) ∧
      (∀ i ∈ [
      Instr.mfc1 rt fs, .dmfc1 rt fs, .mtc1 rt fs, .dmtc1 rt fs, .cfc1 rt fs, .ctc1 rt fs, .lwc1 base ft offset,
      .ldc1 base ft offset, .swc1 base ft offset, .sdc1 base ft offset],
        traps i (.copUnusable 1#2) s)) ∧
    (s.cp1Usable = true → s.mips3 = false →
      (∀ i ∈ [Instr.dmfc1 rt fs, .dmtc1 rt fs], traps i .reservedInstr s) ∧
      (∀ i ∈ [
      Instr.roundLS fs fd, .roundLD fs fd, .truncLS fs fd, .truncLD fs fd, .ceilLS fs fd, .ceilLD fs fd,
      .floorLS fs fd, .floorLD fs fd, .cvtLS fs fd, .cvtLD fs fd, .cvtSL fs fd, .cvtDL fs fd],
        unimpl i)) ∧
    (s.cp1Usable = true → s.mips4 = false →
      (∀ i ∈ [
      Instr.recipS fs fd, .recipD fs fd, .rsqrtS fs fd, .rsqrtD fs fd, .movfS cc fs fd, .movfD cc fs fd,
      .movtS cc fs fd, .movtD cc fs fd, .movzS rt fs fd, .movzD rt fs fd, .movnS rt fs fd, .movnD rt fs fd],
        unimpl i) ∧
      (cc ≠ 0#3 → ∀ i ∈ compares, unimpl i)) ∧
    (∀ i ∈ [
      Instr.lwxc1 base index fd, .ldxc1 base index fd, .swxc1 base index fs, .sdxc1 base index fs,
      .prefx base index hint, .maddS fr ft fs fd, .maddD fr ft fs fd, .msubS fr ft fs fd, .msubD fr ft fs fd,
      .nmaddS fr ft fs fd, .nmaddD fr ft fs fd, .nmsubS fr ft fs fd, .nmsubD fr ft fs fd],
      (s.mips4 = false → traps i .reservedInstr s) ∧
      (s.mips4 = true → s.cp1Usable = false → traps i (.copUnusable 1#2) s))

/-- R812 to R817, R761 to R764, R774, R775, R836: the moves between the general and the floating-point registers, of the
control registers and between floating-point registers.  With FR = 0 a word move of an odd number uses the high half of
the even register, and a doubleword move of one is refused (U27; log 17).  That CTC1 to a control register other than 0
and 31 does nothing and raises nothing, and CFC1 of one gives some value, is the model's choice (R775, U28; log 51). -/
def Obligations.FpMoves : Prop :=
  ∀ (s : State) (rt fs fd : BitVec 5) (v : Word), s.cp1Usable = true → v = (s.rget rt).extractLsb' 0 32 &&& 0xFF83FFFF#32 →
    completesGpr (.mfc1 rt fs) rt (sext64 (fprWord s fs)) s ∧
    (∃ t, exec (.mtc1 rt fs) s = .next t ∧ sameBesidesFpu s t ∧ t.fpu.fcr31 = s.fpu.fcr31 ∧
      fprWordMoved fs ((s.rget rt).extractLsb' 0 32) s t) ∧
    (s.mips3 = true → s.fr = true ∨ fs.getLsbD 0 = false →
      completesGpr (.dmfc1 rt fs) rt (s.fraw fs) s ∧
      ∃ t, exec (.dmtc1 rt fs) s = .next t ∧ sameBesidesFpu s t ∧ t.fpu.fcr31 = s.fpu.fcr31 ∧
        fprDoubleMoved fs (s.rget rt) s t) ∧
    (s.mips3 = true → s.fr = false → fs.getLsbD 0 = true →
      exec (.dmfc1 rt fs) s = .refused .oddDoubleFpr ∧ exec (.dmtc1 rt fs) s = .refused .oddDoubleFpr) ∧
    completesGpr (.cfc1 rt 31#5) rt (sext64 s.fpu.fcr31) s ∧
    completesGpr (.cfc1 rt 0#5) rt (zext64 (s.hw.fcr0Imp ++ s.hw.fcr0Rev)) s ∧ (∃ x, completesGpr (.cfc1 rt fs) rt x s) ∧
    (fs ≠ 31#5 → completesIdle (.ctc1 rt fs) s) ∧
    (v.getLsbD 17 = true ∨ v.extractLsb' 12 5 &&& v.extractLsb' 7 5 ≠ 0#5 →
      exec (.ctc1 rt 31#5) s = .next (takeException .floatingPoint (s.setFcr31 v))) ∧
    (v.getLsbD 17 = false → v.extractLsb' 12 5 &&& v.extractLsb' 7 5 = 0#5 →
      ∃ t, exec (.ctc1 rt 31#5) s = .next t ∧ sameBesidesFpu s t ∧ t.fpu.fcr31 = v ∧ fprSame s t) ∧
    fpCompletes (.movS fs fd) false fd (exactRes (s.readS fs).toNat) s ∧
    fpCompletes (.movD fs fd) true fd (exactRes (s.readD fs).toNat) s

/-- R818 to R825: the floating-point loads and stores, with the address of each form: of an uncached address in memory, of a
line in the primary data cache and of a block in no cache.  A doubleword load or store of an odd register with FR = 0 is
refused (U27; log 17).  That an idle processor's request has number 0 is the model's choice (log 66), and so is way 0 of
an empty primary set where the environment names none (U13; log 22). -/
def Obligations.FpMemory : Prop :=
  ∀ (s : State) (base index ft : BitVec 5) (offset : BitVec 16) (x : Xlate) (va : DWord) (b : Nat → Byte)
    (after : State → State → Prop), s.cp1Usable = true →
    (∀ lw ld, (lw = .lwc1 base ft offset ∧ ld = .ldc1 base ft offset ∧ va = s.rget base + sext64 offset ∨
        s.mips4 = true ∧ lw = .lwxc1 base index ft ∧ ld = .ldxc1 base index ft ∧ va = s.rget base + s.rget index) →
      (loadSource s va x.pa 4 x 1#2 false b after → va.toNat % 4 = 0 →
        fpLoadCompletes lw (fprWordMoved ft (BitVec.ofNat 32 (orderedValue s.bigEndianCpu 4 b))) after s) ∧
      (s.fr = true ∨ ft.getLsbD 0 = false → loadSource s va x.pa 8 x 1#2 false b after → va.toNat % 8 = 0 →
        fpLoadCompletes ld (fprDoubleMoved ft (BitVec.ofNat 64 (orderedValue s.bigEndianCpu 8 b))) after s) ∧
      (s.fr = false → ft.getLsbD 0 = true → exec ld s = .refused .oddDoubleFpr)) ∧
    (∀ sw sd, (sw = .swc1 base ft offset ∧ sd = .sdc1 base ft offset ∧ va = s.rget base + sext64 offset ∨
        s.mips4 = true ∧ sw = .swxc1 base index ft ∧ sd = .sdxc1 base index ft ∧ va = s.rget base + s.rget index) →
      (storeTarget s va x.pa 4 x 1#2 (orderedByte s.bigEndianCpu 4 (zext64 (fprWord s ft))) after → va.toNat % 4 = 0 →
        storeCompletes sw after s) ∧
      (s.fr = true ∨ ft.getLsbD 0 = false → storeTarget s va x.pa 8 x 1#2 (orderedByte s.bigEndianCpu 8 (s.fraw ft)) after →
        va.toNat % 8 = 0 → storeCompletes sd after s) ∧
      (s.fr = false → ft.getLsbD 0 = true → exec sd s = .refused .oddDoubleFpr))

/-- R830 to R835, R837, R854 to R859, R772: every arithmetic instruction completes as R772 says with the result of its
operation on its operand registers, in its format: the Floating-Point exception with only FCR31.Cause written, or the
result, the causes and the flags.  The results of addition to reciprocal square root are those of FpScreening and
FpRounding.  ABS and NEG change the sign bit: a signaling NaN is invalid, a quiet one unimplemented, or in flush mode the
standard NaN, and there a denormalized operand is a zero with I (R779).  MADD, MSUB, NMADD and NMSUB round the product `p`
and the sum: an unimplemented product ends the operation, the causes of the two steps are ORed, a product that is no
number stays the standard NaN, and NMADD and NMSUB invert the sign of a number after rounding; in flush mode a
denormalized operand is a zero, with I unless the others decide the result (R779).  Which operands decide it (log 41), and
that E stands alone beside an operand's V (log 35), are the model's choices. -/
def Obligations.FpArith : Prop :=
  ∀ (s : State) (fr ft fs fd : BitVec 5), s.cp1Usable = true →
    (fpCompletes (.addS ft fs fd) false fd (fpAdd false false fs ft s) s ∧
      fpCompletes (.addD ft fs fd) true fd (fpAdd true false fs ft s) s ∧
      fpCompletes (.subS ft fs fd) false fd (fpAdd false true fs ft s) s ∧
      fpCompletes (.subD ft fs fd) true fd (fpAdd true true fs ft s) s ∧
      fpCompletes (.mulS ft fs fd) false fd (fpMul false fs ft s) s ∧
      fpCompletes (.mulD ft fs fd) true fd (fpMul true fs ft s) s ∧
      fpCompletes (.divS ft fs fd) false fd (fpDiv false fs ft s) s ∧
      fpCompletes (.divD ft fs fd) true fd (fpDiv true fs ft s) s ∧
      fpCompletes (.sqrtS fs fd) false fd (fpSqrt false fs s) s ∧
      fpCompletes (.sqrtD fs fd) true fd (fpSqrt true fs s) s ∧
      fpCompletes (.absS fs fd) false fd (fpSign false (fun _ => false) fs s) s ∧
      fpCompletes (.absD fs fd) true fd (fpSign true (fun _ => false) fs s) s ∧
      fpCompletes (.negS fs fd) false fd (fpSign false not fs s) s ∧
      fpCompletes (.negD fs fd) true fd (fpSign true not fs s) s) ∧
    (s.mips4 = true →
      fpCompletes (.recipS fs fd) false fd (fpRecip false fs s) s ∧
      fpCompletes (.recipD fs fd) true fd (fpRecip true fs s) s ∧
      fpCompletes (.rsqrtS fs fd) false fd (fpRsqrt false fs s) s ∧
      fpCompletes (.rsqrtD fs fd) true fd (fpRsqrt true fs s) s ∧
      fpCompletes (.maddS fr ft fs fd) false fd (fpMadd false false false fr fs ft s) s ∧
      fpCompletes (.maddD fr ft fs fd) true fd (fpMadd true false false fr fs ft s) s ∧
      fpCompletes (.msubS fr ft fs fd) false fd (fpMadd false true false fr fs ft s) s ∧
      fpCompletes (.msubD fr ft fs fd) true fd (fpMadd true true false fr fs ft s) s ∧
      fpCompletes (.nmaddS fr ft fs fd) false fd (fpMadd false false true fr fs ft s) s ∧
      fpCompletes (.nmaddD fr ft fs fd) true fd (fpMadd true false true fr fs ft s) s ∧
      fpCompletes (.nmsubS fr ft fs fd) false fd (fpMadd false true true fr fs ft s) s ∧
      fpCompletes (.nmsubD fr ft fs fd) true fd (fpMadd true true true fr fs ft s) s) ∧
    (∀ d newSign f a r sign, f = fmtOf d → a = s.fval d fs → r = fpSign d newSign fs s → sign = newSign (signOf f a) →
      (unpack f a = .nan true → r = invalid f) ∧
      (unpack f a = .nan false → if s.flushMode then r = exactRes (stdNan f) else r.cause = 0b100000#6) ∧
      (isDenorm f a = true → s.flushMode = true → r.bits = (if sign then 2 ^ (f.eb + f.fb) else 0) ∧ r.cause = causeI) ∧
      ((∀ q, unpack f a ≠ .nan q) → isDenorm f a = false ∨ s.flushMode = false →
        r.cause = 0#6 ∧ r.bits = (if sign then 2 ^ (f.eb + f.fb) else 0) + a % 2 ^ (f.eb + f.fb))) ∧
    (∀ d sub neg f a b c rm fl r (u : Nat → FVal), f = fmtOf d → a = s.fval d fs → b = s.fval d ft → c = s.fval d fr →
      rm = s.roundMode → fl = s.flushDenorm → r = fpMadd d sub neg fr fs ft s →
      (∀ y, u y = if s.flushMode ∧ isDenorm f y = true then .num (signOf f y) 0 f.emin else unpack f y) →
      ∀ (ordinary : Nat → Prop) (z : FVal), (∀ y, ordinary y ↔ (∀ q, unpack f y ≠ .nan q) ∧
        (isDenorm f y = true → s.flushMode = true)) → z = (if sub then negVal (u c) else u c) →
      ∀ (undecided : Prop) (i : BitVec 6),
        (undecided ↔ (isDenorm f a = true ∨ isDenorm f b = true ∨ isDenorm f c = true) ∧
          s.flushMode = true ∧ ordinary a ∧ ordinary b ∧ ordinary c ∧
          ((∃ q, (isDenorm f a = true ∧ unpack f b = .inf q) ∨ (isDenorm f b = true ∧ unpack f a = .inf q)) ∨
            (∀ q, unpack f a ≠ .inf q ∧ unpack f b ≠ .inf q ∧ unpack f c ≠ .inf q) ∧
            ¬ (isDenorm f c = false ∧ ∃ q e, isDenorm f b = true ∧ unpack f a = .num q 0 e ∨
              isDenorm f a = true ∧ unpack f b = .num q 0 e))) →
        (undecided → i = causeI) → (¬ undecided → i = 0#6) →
      (s.flushMode = false → isDenorm f a = true ∨ isDenorm f b = true ∨ unpack f a = .nan false ∨ unpack f b = .nan false →
        r.cause = 0b100000#6) ∧
      ((unpack f a = .nan true ∨ unpack f b = .nan true) → ordinary c →
        (s.flushMode = true ∨ isDenorm f a = false ∧ isDenorm f b = false ∧ unpack f a ≠ .nan false ∧
          unpack f b ≠ .nan false) → r = invalid f) ∧
      (s.flushMode = true → unpack f a ≠ .nan true → unpack f b ≠ .nan true →
        (unpack f a = .nan false ∨ unpack f b = .nan false) → ordinary c → r = exactRes (stdNan f)) ∧
      (ordinary a → ordinary b → ∀ p, p = mulVal f rm fl (u a) (u b) →
        (p.cause.getLsbD 5 = true → r.cause = p.cause ||| i) ∧
        (p.cause.getLsbD 5 = false →
          (unpack f c = .nan true → r = { bits := stdNan f, cause := causeV ||| p.cause }) ∧
          (unpack f c = .nan false → if s.flushMode then r = { bits := stdNan f, cause := p.cause }
            else r.cause = causeE ||| p.cause) ∧
          (isDenorm f c = true → s.flushMode = false → r.cause = causeE ||| p.cause) ∧
          (ordinary c →
            (∀ q, unpack f p.bits = .nan q → r = { bits := stdNan f, cause := p.cause ||| i }) ∧
            ((∀ q, unpack f p.bits ≠ .nan q) → ∀ y, y = addVal f rm fl (unpack f p.bits) z →
              r.cause = y.cause ||| p.cause ||| i ∧
              r.bits = (if neg = true ∧ (∀ q, unpack f y.bits ≠ .nan q)
                then withSign f (!signOf f y.bits) (y.bits % 2 ^ (f.eb + f.fb)) else y.bits))))))

/-- R838 to R849, R780: every conversion completes as R772 says.  To the W and L formats the mode is the instruction's own or
FCR31.RM; the L format needs MIPS III.  What the results are: to an integer a denormalized operand is unimplemented, or in
flush mode 0 with I, a NaN or an infinity is unimplemented, and another number is rounded (FpRounding), above the limit
of the hardware unimplemented (U30); to the other format a signaling NaN is invalid, a quiet one or a denormalized
number unimplemented, or in flush mode the standard NaN and a zero with I, an infinity or a zero keeps its sign and
another number is rounded; an integer is rounded. -/
def Obligations.FpConvert : Prop :=
  ∀ (s : State) (fs fd : BitVec 5), s.cp1Usable = true →
    (∀ i d rm, (i, d, rm) ∈ [
      (Instr.roundWS fs fd, false, 0#2), (.roundWD fs fd, true, 0#2), (.truncWS fs fd, false, 1#2),
      (.truncWD fs fd, true, 1#2), (.ceilWS fs fd, false, 2#2), (.ceilWD fs fd, true, 2#2),
      (.floorWS fs fd, false, 3#2), (.floorWD fs fd, true, 3#2), (.cvtWS fs fd, false, s.roundMode),
      (.cvtWD fs fd, true, s.roundMode)] →
      fpCompletes i false fd (fpToFixed d 32 none rm fs s) s) ∧
    (s.mips3 = true → ∀ i d rm, (i, d, rm) ∈ [
      (Instr.roundLS fs fd, false, 0#2), (.roundLD fs fd, true, 0#2), (.truncLS fs fd, false, 1#2),
      (.truncLD fs fd, true, 1#2), (.ceilLS fs fd, false, 2#2), (.ceilLD fs fd, true, 2#2),
      (.floorLS fs fd, false, 3#2), (.floorLD fs fd, true, 3#2), (.cvtLS fs fd, false, s.roundMode),
      (.cvtLD fs fd, true, s.roundMode)] →
      fpCompletes i true fd (fpToFixed d 64 s.hw.longConvLimit rm fs s) s) ∧
    fpCompletes (.cvtSD fs fd) false fd (fpToFormat true fs s) s ∧
    fpCompletes (.cvtDS fs fd) true fd (fpToFormat false fs s) s ∧
    fpCompletes (.cvtSW fs fd) false fd (fpOfWord false fs s) s ∧
    fpCompletes (.cvtDW fs fd) true fd (fpOfWord true fs s) s ∧
    (s.mips3 = true →
      fpCompletes (.cvtSL fs fd) false fd (fpOfLong false fs s) s ∧
      fpCompletes (.cvtDL fs fd) true fd (fpOfLong true fs s) s) ∧
    (∀ d n limit rm f a r, f = fmtOf d → a = s.fval d fs → r = fpToFixed d n limit rm fs s →
      (isDenorm f a = true → if s.flushMode then r = { bits := 0, cause := causeI } else r.cause = 0b100000#6) ∧
      (isDenorm f a = false →
        (∀ q, unpack f a = .nan q ∨ unpack f a = .inf q → r.cause = 0b100000#6) ∧
        (limit = none → r = toFixed n none rm (unpack f a)) ∧
        (∀ k v, limit = some k → v = toFixed n none rm (unpack f a) → (n = 32 ∨ n = 64) →
          r = if v.cause.getLsbD 5 = false ∧ (BitVec.ofNat n v.bits).toInt.natAbs < 2 ^ k then v else unimplemented))) ∧
    (∀ d f g a r, f = fmtOf d → g = fmtOf (!d) → a = s.fval d fs → r = fpToFormat d fs s →
      (unpack f a = .nan true → r = invalid g) ∧
      (unpack f a = .nan false → if s.flushMode then r = exactRes (stdNan g) else r.cause = 0b100000#6) ∧
      (isDenorm f a = true → if s.flushMode then r = { bits := withSign g (signOf f a) 0, cause := causeI }
        else r.cause = 0b100000#6) ∧
      (∀ q, unpack f a = .inf q → r = exactRes (infBits g q)) ∧
      (∀ q e, unpack f a = .num q 0 e → r = exactRes (withSign g q 0)) ∧
      (∀ q m e, unpack f a = .num q m e → isDenorm f a = false →
        r = toFormat g s.roundMode s.flushDenorm (unpack f a))) ∧
    (∀ d f, f = fmtOf d →
      ((s.readS fs).toInt ≠ 0 → fpOfWord d fs s = ofIntRounded f s.roundMode (s.readS fs).toInt) ∧
      ((s.readS fs).toInt = 0 → fpOfWord d fs s = exactRes 0) ∧
      ((s.readD fs).toInt = 0 → fpOfLong d fs s = exactRes 0) ∧
      (∀ v, v = (s.readD fs).toInt → v ≠ 0 →
        (s.hw.longConvLimit = none → fpOfLong d fs s = ofIntRounded f s.roundMode v) ∧
        (∀ k, s.hw.longConvLimit = some k →
          fpOfLong d fs s = if v.natAbs < 2 ^ k then ofIntRounded f s.roundMode v else unimplemented)))

/-- R860, R781: the 32 comparisons write one condition bit and nothing else of FCR31 but its causes and flags.  The bit is
cond[2] for less, cond[1] for equal, cond[0] for unordered; a signaling NaN, and with cond[3] any NaN, raises V.  Infinities
are ordered as such.  In flush mode (R779) denormalized numbers compare as zeros, with I when that changes the bit. -/
def Obligations.FpCompare : Prop :=
  ∀ (s : State) (ft fs : BitVec 5) (cc : BitVec 3), s.cp1Usable = true → cc = 0#3 ∨ s.mips4 = true →
    (∀ i d cond, (i, d, cond) ∈ [
      (Instr.cFS ft fs cc, false, 0#4), (.cUnS ft fs cc, false, 1#4), (.cEqS ft fs cc, false, 2#4),
      (.cUeqS ft fs cc, false, 3#4), (.cOltS ft fs cc, false, 4#4), (.cUltS ft fs cc, false, 5#4),
      (.cOleS ft fs cc, false, 6#4), (.cUleS ft fs cc, false, 7#4), (.cSfS ft fs cc, false, 8#4),
      (.cNgleS ft fs cc, false, 9#4), (.cSeqS ft fs cc, false, 10#4), (.cNglS ft fs cc, false, 11#4),
      (.cLtS ft fs cc, false, 12#4), (.cNgeS ft fs cc, false, 13#4), (.cLeS ft fs cc, false, 14#4),
      (.cNgtS ft fs cc, false, 15#4), (.cFD ft fs cc, true, 0#4), (.cUnD ft fs cc, true, 1#4),
      (.cEqD ft fs cc, true, 2#4), (.cUeqD ft fs cc, true, 3#4), (.cOltD ft fs cc, true, 4#4),
      (.cUltD ft fs cc, true, 5#4), (.cOleD ft fs cc, true, 6#4), (.cUleD ft fs cc, true, 7#4),
      (.cSfD ft fs cc, true, 8#4), (.cNgleD ft fs cc, true, 9#4), (.cSeqD ft fs cc, true, 10#4),
      (.cNglD ft fs cc, true, 11#4), (.cLtD ft fs cc, true, 12#4), (.cNgeD ft fs cc, true, 13#4),
      (.cLeD ft fs cc, true, 14#4), (.cNgtD ft fs cc, true, 15#4)] →
      fpOutcome i (fpCompare d cond fs ft s).2 (fun t => fprSame s t ∧ t.fcc cc = (fpCompare d cond fs ft s).1 ∧
        ∀ k, k ≠ fccBit cc → t.fpu.fcr31.getLsbD k = (fcr31OrFlags (fcr31WithCause s.fpu.fcr31
          (fpCompare d cond fs ft s).2) ((fpCompare d cond fs ft s).2.setWidth 5)).getLsbD k) s) ∧
    (∀ d cond f a b, f = fmtOf d → a = s.fval d fs → b = s.fval d ft →
      ((∃ q, unpack f a = .nan q ∨ unpack f b = .nan q) →
        (fpCompare d cond fs ft s).1 = cond.getLsbD 0 ∧
        (fpCompare d cond fs ft s).2 = if unpack f a = .nan true ∨ unpack f b = .nan true ∨ cond.getLsbD 3 = true
          then causeV else 0#6) ∧
      ((∀ q, unpack f a ≠ .nan q ∧ unpack f b ≠ .nan q) →
        ∀ (u : Nat → FVal) (holds : FVal → FVal → Prop),
          (∀ y, u y = if s.flushMode ∧ isDenorm f y = true then .num (signOf f y) 0 f.emin else unpack f y) →
          (∀ p q, holds p q ↔ cond.getLsbD 2 = true ∧ p.less q ∨ cond.getLsbD 1 = true ∧ p.same q) →
          ((fpCompare d cond fs ft s).1 = true ↔ holds (u a) (u b)) ∧
          ((holds (u a) (u b) ↔ holds (unpack f a) (unpack f b)) → (fpCompare d cond fs ft s).2 = 0#6) ∧
          (¬ (holds (u a) (u b) ↔ holds (unpack f a) (unpack f b)) → (fpCompare d cond fs ft s).2 = causeI)))

/-- R850 to R853, R761: the conditional moves on a condition bit or on a general register, under MIPS IV.  They clear
FCR31.Cause and raise nothing; with FR = 1 the high half after a single-precision one is undefined (U25), the low half as
said. -/
def Obligations.FpCondMoves : Prop :=
  ∀ (s : State) (rt fs fd : BitVec 5) (cc : BitVec 3), s.cp1Usable = true → s.mips4 = true →
    ∀ moves : Instr → (State → Prop) → Prop,
      (∀ i P, moves i P ↔ ∃ t, exec i s = .next t ∧ sameBesidesFpu s t ∧
        t.fpu.fcr31 = fcr31WithCause s.fpu.fcr31 0#6 ∧ P t) →
    (∀ i (c : Prop), (i, c) ∈ [(Instr.movfD cc fs fd, s.fcc cc = false), (.movtD cc fs fd, s.fcc cc = true),
        (.movzD rt fs fd, s.rget rt = 0#64), (.movnD rt fs fd, s.rget rt ≠ 0#64)] →
      (c → moves i (fun t => fprBecomes true fd (s.readD fs).toNat s t)) ∧ (¬ c → moves i (fun t => fprSame s t))) ∧
    (∀ i (c : Prop), (i, c) ∈ [(Instr.movfS cc fs fd, s.fcc cc = false), (.movtS cc fs fd, s.fcc cc = true),
        (.movzS rt fs fd, s.rget rt = 0#64), (.movnS rt fs fd, s.rget rt ≠ 0#64)] →
      (s.fr = false → (c → moves i (fun t => fprBecomes false fd (s.readS fs).toNat s t)) ∧
        (¬ c → moves i (fun t => fprSame s t))) ∧
      (s.fr = true →
        (c → moves i (fun t => (t.fraw fd).extractLsb' 0 32 = s.readS fs ∧ ∀ q, q ≠ fd → t.fraw q = s.fraw q)) ∧
        (¬ c → moves i (fun t => (t.fraw fd).extractLsb' 0 32 = (s.fraw fd).extractLsb' 0 32 ∧
          ∀ q, q ≠ fd → t.fraw q = s.fraw q))))

/-- R776, R778, R779, R782: what operands that are no ordinary numbers do, for the operations of two operands, the square
root and the reciprocals.  Outside flush mode a denormalized number or a quiet NaN is unimplemented; a signaling NaN is
invalid with the standard NaN; infinities and zeros, whatever the exponents they are held with, give the results of R776,
R833 and R854; every other case is the exact operation, rounded (FpRounding).  In flush mode a
denormalized operand is a zero of its sign, with I unless the other operand decides the result (R779).  Which operands
decide it (log 41), that E stands alone beside another operand's V (log 35), and that the reciprocals are the correctly
rounded quotients (R783, U31; log 39), are the model's choices. -/
def Obligations.FpScreening : Prop :=
  ∀ (s : State) (d neg : Bool) (fs ft : RegNum) (f : FloatFmt) (a b : Nat) (rm : BitVec 2) (fl : Bool),
    f = fmtOf d → a = s.fval d fs → b = s.fval d ft → rm = s.roundMode → fl = s.flushDenorm →
    ∀ ops, ops = [fpAdd d neg fs ft s, fpMul d fs ft s, fpDiv d fs ft s] →
    (s.flushMode = false →
      (isDenorm f a = true ∨ isDenorm f b = true ∨ unpack f a = .nan false ∨ unpack f b = .nan false →
        (∀ r ∈ ops, r.cause = 0b100000#6) ∧
        (isDenorm f a = true ∨ unpack f a = .nan false →
          (fpSqrt d fs s).cause = 0b100000#6 ∧ (fpRecip d fs s).cause = 0b100000#6 ∧ (fpRsqrt d fs s).cause = 0b100000#6)) ∧
      (isDenorm f a = false → isDenorm f b = false → unpack f a ≠ .nan false → unpack f b ≠ .nan false →
        (unpack f a = .nan true ∨ unpack f b = .nan true → ∀ r ∈ ops, r = invalid f) ∧
        (unpack f a ≠ .nan true → unpack f b ≠ .nan true →
          fpAdd d neg fs ft s = addVal f rm fl (unpack f a) (if neg then negVal (unpack f b) else unpack f b) ∧
          fpMul d fs ft s = mulVal f rm fl (unpack f a) (unpack f b) ∧
          fpDiv d fs ft s = divVal f rm fl (unpack f a) (unpack f b) ∧
          fpSqrt d fs s = sqrtVal f rm fl (unpack f a) ∧
          fpRecip d fs s = divVal f rm fl (.num false 1 0) (unpack f a) ∧
          fpRsqrt d fs s = rsqrtVal f rm fl (unpack f a)))) ∧
    (s.flushMode = true →
      (unpack f a = .nan true ∨ unpack f b = .nan true → ∀ r ∈ ops, r = invalid f) ∧
      (unpack f a ≠ .nan true → unpack f b ≠ .nan true → unpack f a = .nan false ∨ unpack f b = .nan false →
        ∀ r ∈ ops, r = exactRes (stdNan f)) ∧
      (∀ u : Nat → FVal, (∀ y, u y = if isDenorm f y = true then .num (signOf f y) 0 f.emin else unpack f y) →
        ∀ (den : Prop) (flushed : Prop → FRes → FRes → Prop), (den ↔ isDenorm f a = true ∨ isDenorm f b = true) →
        (∀ p r y, flushed p r y ↔ (p → r = { y with cause := y.cause ||| causeI }) ∧ (¬ p → r = y)) →
        ((∀ q, unpack f a ≠ .nan q ∧ unpack f b ≠ .nan q) →
          flushed (den ∧ ∀ q, unpack f a ≠ .inf q ∧ unpack f b ≠ .inf q) (fpAdd d neg fs ft s)
            (addVal f rm fl (u a) (if neg then negVal (u b) else u b)) ∧
          flushed (den ∧ ∀ q e, unpack f a ≠ .num q 0 e ∧ unpack f b ≠ .num q 0 e) (fpMul d fs ft s)
            (mulVal f rm fl (u a) (u b)) ∧
          flushed (den ∧ ∀ q, unpack f a ≠ .inf q ∧ unpack f b ≠ .inf q) (fpDiv d fs ft s)
            (divVal f rm fl (u a) (u b))) ∧
        ((∀ q, unpack f a ≠ .nan q) →
          flushed (isDenorm f a = true) (fpSqrt d fs s) (sqrtVal f rm fl (u a)) ∧
          flushed (isDenorm f a = true) (fpRecip d fs s) (divVal f rm fl (.num false 1 0) (u a)) ∧
          flushed (isDenorm f a = true) (fpRsqrt d fs s) (rsqrtVal f rm fl (u a))) ∧
        (unpack f a = .nan true → fpSqrt d fs s = invalid f ∧ fpRecip d fs s = invalid f ∧ fpRsqrt d fs s = invalid f) ∧
        (unpack f a = .nan false → fpSqrt d fs s = exactRes (stdNan f) ∧ fpRecip d fs s = exactRes (stdNan f) ∧
          fpRsqrt d fs s = exactRes (stdNan f)))) ∧
    (invalid f = { bits := if d then 0x7FF7FFFFFFFFFFFF else 0x7FBFFFFF, cause := 0b010000#6 } ∧
      stdNan f = (invalid f).bits ∧ infBits f false = if d then 0x7FF0000000000000 else 0x7F800000) ∧
    (∀ p q, addVal f rm fl (.inf p) (.inf q) = (if p = q then exactRes (infBits f p) else invalid f) ∧
      divVal f rm fl (.inf p) (.inf q) = invalid f ∧ mulVal f rm fl (.inf p) (.inf q) = exactRes (infBits f (p ^^ q))) ∧
    (∀ p q m e, addVal f rm fl (.inf p) (.num q m e) = exactRes (infBits f p) ∧
      addVal f rm fl (.num q m e) (.inf p) = exactRes (infBits f p) ∧
      divVal f rm fl (.inf p) (.num q m e) = exactRes (infBits f (p ^^ q)) ∧
      mulVal f rm fl (.num q 0 e) (.inf p) = invalid f ∧
      (0 < m → mulVal f rm fl (.num q m e) (.inf p) = exactRes (infBits f (q ^^ p))) ∧
      rsqrtVal f rm fl (.inf p) = (if p then invalid f else exactRes 0) ∧
      rsqrtVal f rm fl (.num p 0 e) = { bits := infBits f p, cause := 0b001000#6 } ∧
      (0 < m → rsqrtVal f rm fl (.num true m e) = invalid f) ∧
      sqrtVal f rm fl (.inf false) = exactRes (infBits f false)) ∧
    (∀ p q m e, mulVal f rm fl (.inf p) (.num q 0 e) = invalid f ∧
      (0 < m → mulVal f rm fl (.inf p) (.num q m e) = exactRes (infBits f (p ^^ q))) ∧
      divVal f rm fl (.num p m e) (.inf q) = exactRes (withSign f (p ^^ q) 0) ∧
      (0 < m → sqrtVal f rm fl (.num true m e) = invalid f) ∧
      sqrtVal f rm fl (.num p 0 e) = exactRes (withSign f p 0) ∧ sqrtVal f rm fl (.inf true) = invalid f) ∧
    (∀ p q m e e', divVal f rm fl (.num p 0 e) (.num q 0 e') = invalid f ∧
      (0 < m → divVal f rm fl (.num p m e) (.num q 0 e') = { bits := infBits f (p ^^ q), cause := 0b001000#6 } ∧
        divVal f rm fl (.num p 0 e) (.num q m e') = exactRes (withSign f (p ^^ q) 0)) ∧
      mulVal f rm fl (.num p 0 e) (.num q m e') = exactRes (withSign f (p ^^ q) 0) ∧
      mulVal f rm fl (.num p m e) (.num q 0 e') = exactRes (withSign f (p ^^ q) 0) ∧
      addVal f rm fl (.num p 0 e) (.num q 0 e') = exactRes (withSign f (if p = q then p else rm == 3#2) 0)) ∧
    (∀ p m e, addVal f rm fl (.num p m e) (.num (!p) m e) = exactRes (withSign f (rm == 3#2) 0)) ∧
    (∀ p, withSign f p 0 = (if p then (if d then 2 ^ 63 else 2 ^ 31) else 0) ∧
      infBits f p = withSign f p 0 + if d then 0x7FF0000000000000 else 0x7F800000) ∧
    (∀ x p m e, x < 2 ^ (f.eb + f.fb + 1) → unpack f x = .num p m e → (m = 0 ↔ x = withSign f p 0))

/-- R768, R776, R777, R780: correct rounding.  For numbers of a format the sum, the product, the quotient, the square root
and the reciprocals, when not zero, are the exact results rounded once in the rounding mode, with Inexact, Overflow and the
underflow rule; overflow gives the infinity of the sign, or the largest finite number where the mode rounds toward it; so
are the conversions between formats and from integers, and a conversion to an integer gives the rounded integer or, out of
range, Unimplemented Operation.  Tininess after rounding (log 36), the correct rounding of the reciprocals (R783, U31; log
39) and the flush to zero with no cause (D31; log 41) are the model's choices. -/
def Obligations.FpRounding : Prop :=
  ∀ (f g : FloatFmt) (rm : BitVec 2) (fl : Bool) (x y : Nat) (n n' : Bool) (m m' : Nat) (e e' : Int) (a b : ℚ),
    f ∈ [fmtS, fmtD] → g ∈ [fmtS, fmtD] → unpack f x = .num n m e → unpack f y = .num n' m' e' →
    a = (unpack f x).toRat → b = (unpack f y).toRat →
    (a + b ≠ 0 → isRounded f rm fl (decide (a + b < 0)) (· ≤ a + b) (a + b ≤ ·)
      (addVal f rm fl (unpack f x) (unpack f y))) ∧
    (a * b ≠ 0 → isRounded f rm fl (decide (a * b < 0)) (· ≤ a * b) (a * b ≤ ·)
      (mulVal f rm fl (unpack f x) (unpack f y))) ∧
    (a ≠ 0 → b ≠ 0 → isRounded f rm fl (decide (a / b < 0)) (· ≤ a / b) (a / b ≤ ·)
      (divVal f rm fl (unpack f x) (unpack f y))) ∧
    (a ≠ 0 → isRounded f rm fl (decide (a < 0)) (· ≤ 1 / a) (1 / a ≤ ·)
      (divVal f rm fl (.num false 1 0) (unpack f x))) ∧
    (∀ q, overflowBits f rm q < 2 ^ (f.eb + f.fb + 1) ∧ unpack f (overflowBits f rm q) =
      if rm = 0#2 ∨ rm = 2#2 ∧ q = false ∨ rm = 3#2 ∧ q = true then .inf q
      else .num q (2 ^ (f.fb + 1) - 1) (f.emin + 2 ^ f.eb - 3)) ∧
    (0 < a → isRounded f rm fl false (fun q => q < 0 ∨ q * q ≤ a) (fun q => 0 ≤ q ∧ a ≤ q * q)
      (sqrtVal f rm fl (unpack f x))) ∧
    (0 < a → isRounded f rm fl false (fun q => q < 0 ∨ q * q * a ≤ 1) (fun q => 0 ≤ q ∧ 1 ≤ q * q * a)
      (rsqrtVal f rm fl (unpack f x))) ∧
    (a ≠ 0 → isRounded g rm fl (decide (a < 0)) (· ≤ a) (a ≤ ·) (toFormat g rm fl (unpack f x))) ∧
    (∀ k : Int, k ≠ 0 → k.natAbs ≤ 2 ^ 63 →
      isRounded g rm true (decide (k < 0)) (· ≤ (k : ℚ)) ((k : ℚ) ≤ ·) (ofIntRounded g rm k)) ∧
    (∀ w, w = 32 ∨ w = 64 → ∃ k : ℤ, roundsTo isInt isEvenInt rm n (· ≤ a) (a ≤ ·) k ∧
      (-(2 ^ (w - 1) : ℤ) ≤ k ∧ k < 2 ^ (w - 1) →
        toFixed w none rm (unpack f x) =
          { bits := (BitVec.ofInt w k).toNat, cause := if (k : ℚ) = a then 0#6 else causeI }) ∧
      (¬ (-(2 ^ (w - 1) : ℤ) ≤ k ∧ k < 2 ^ (w - 1)) → toFixed w none rm (unpack f x) = unimplemented))

end
end

