-- ==== Sys2Proof/Laws/State.lean ====
section
/-! SUPPORT. One lemma for each field of the state under each named update: what the update leaves alone and what it
sets.  No later proof unfolds a record update. -/

namespace Sys2Proof.Machine

variable (s : State)

/-! ### State.rset -/

@[simp] theorem State.rset_hi (r : RegNum) (v : DWord) : (s.rset r v).hi = s.hi := by unfold State.rset; split <;> rfl
@[simp] theorem State.rset_lo (r : RegNum) (v : DWord) : (s.rset r v).lo = s.lo := by unfold State.rset; split <;> rfl
@[simp] theorem State.rset_pc (r : RegNum) (v : DWord) : (s.rset r v).pc = s.pc := by unfold State.rset; split <;> rfl
@[simp] theorem State.rset_delaySlot (r : RegNum) (v : DWord) : (s.rset r v).delaySlot = s.delaySlot := by unfold State.rset; split <;> rfl
@[simp] theorem State.rset_llbit (r : RegNum) (v : DWord) : (s.rset r v).llbit = s.llbit := by unfold State.rset; split <;> rfl
@[simp] theorem State.rset_llblock (r : RegNum) (v : DWord) : (s.rset r v).llblock = s.llblock := by unfold State.rset; split <;> rfl
@[simp] theorem State.rset_cp0 (r : RegNum) (v : DWord) : (s.rset r v).cp0 = s.cp0 := by unfold State.rset; split <;> rfl
@[simp] theorem State.rset_fpu (r : RegNum) (v : DWord) : (s.rset r v).fpu = s.fpu := by unfold State.rset; split <;> rfl
@[simp] theorem State.rset_tlb (r : RegNum) (v : DWord) : (s.rset r v).tlb = s.tlb := by unfold State.rset; split <;> rfl
@[simp] theorem State.rset_caches (r : RegNum) (v : DWord) : (s.rset r v).caches = s.caches := by unfold State.rset; split <;> rfl
@[simp] theorem State.rset_mem (r : RegNum) (v : DWord) : (s.rset r v).mem = s.mem := by unfold State.rset; split <;> rfl
@[simp] theorem State.rset_ext (r : RegNum) (v : DWord) : (s.rset r v).ext = s.ext := by unfold State.rset; split <;> rfl
@[simp] theorem State.rset_hw (r : RegNum) (v : DWord) : (s.rset r v).hw = s.hw := by unfold State.rset; split <;> rfl
@[simp] theorem State.rset_steps (r : RegNum) (v : DWord) : (s.rset r v).steps = s.steps := by unfold State.rset; split <;> rfl
@[simp] theorem State.rset_note (r : RegNum) (v : DWord) : (s.rset r v).note = s.note := by unfold State.rset; split <;> rfl
@[simp] theorem State.rset_events (r : RegNum) (v : DWord) : (s.rset r v).events = s.events := by unfold State.rset; split <;> rfl
@[simp] theorem State.rset_sctp (r : RegNum) (v : DWord) : (s.rset r v).sctp = s.sctp := by unfold State.rset; split <;> rfl

/-! ### State.setHiLo -/

@[simp] theorem State.setHiLo_gpr (hi lo : DWord) : (s.setHiLo hi lo).gpr = s.gpr := rfl
@[simp] theorem State.setHiLo_hi (hi lo : DWord) : (s.setHiLo hi lo).hi = hi := rfl
@[simp] theorem State.setHiLo_lo (hi lo : DWord) : (s.setHiLo hi lo).lo = lo := rfl
@[simp] theorem State.setHiLo_pc (hi lo : DWord) : (s.setHiLo hi lo).pc = s.pc := rfl
@[simp] theorem State.setHiLo_delaySlot (hi lo : DWord) : (s.setHiLo hi lo).delaySlot = s.delaySlot := rfl
@[simp] theorem State.setHiLo_llbit (hi lo : DWord) : (s.setHiLo hi lo).llbit = s.llbit := rfl
@[simp] theorem State.setHiLo_llblock (hi lo : DWord) : (s.setHiLo hi lo).llblock = s.llblock := rfl
@[simp] theorem State.setHiLo_cp0 (hi lo : DWord) : (s.setHiLo hi lo).cp0 = s.cp0 := rfl
@[simp] theorem State.setHiLo_fpu (hi lo : DWord) : (s.setHiLo hi lo).fpu = s.fpu := rfl
@[simp] theorem State.setHiLo_tlb (hi lo : DWord) : (s.setHiLo hi lo).tlb = s.tlb := rfl
@[simp] theorem State.setHiLo_caches (hi lo : DWord) : (s.setHiLo hi lo).caches = s.caches := rfl
@[simp] theorem State.setHiLo_mem (hi lo : DWord) : (s.setHiLo hi lo).mem = s.mem := rfl
@[simp] theorem State.setHiLo_ext (hi lo : DWord) : (s.setHiLo hi lo).ext = s.ext := rfl
@[simp] theorem State.setHiLo_hw (hi lo : DWord) : (s.setHiLo hi lo).hw = s.hw := rfl
@[simp] theorem State.setHiLo_steps (hi lo : DWord) : (s.setHiLo hi lo).steps = s.steps := rfl
@[simp] theorem State.setHiLo_note (hi lo : DWord) : (s.setHiLo hi lo).note = s.note := rfl
@[simp] theorem State.setHiLo_events (hi lo : DWord) : (s.setHiLo hi lo).events = s.events := rfl
@[simp] theorem State.setHiLo_sctp (hi lo : DWord) : (s.setHiLo hi lo).sctp = s.sctp := rfl

/-! ### State.setStatus -/

@[simp] theorem State.setStatus_gpr (v : Word) : (s.setStatus v).gpr = s.gpr := rfl
@[simp] theorem State.setStatus_hi (v : Word) : (s.setStatus v).hi = s.hi := rfl
@[simp] theorem State.setStatus_lo (v : Word) : (s.setStatus v).lo = s.lo := rfl
@[simp] theorem State.setStatus_pc (v : Word) : (s.setStatus v).pc = s.pc := rfl
@[simp] theorem State.setStatus_delaySlot (v : Word) : (s.setStatus v).delaySlot = s.delaySlot := rfl
@[simp] theorem State.setStatus_llbit (v : Word) : (s.setStatus v).llbit = s.llbit := rfl
@[simp] theorem State.setStatus_llblock (v : Word) : (s.setStatus v).llblock = s.llblock := rfl
@[simp] theorem State.setStatus_cp0 (v : Word) : (s.setStatus v).cp0 = { s.cp0 with status := v } := rfl
@[simp] theorem State.setStatus_fpu (v : Word) : (s.setStatus v).fpu = s.fpu := rfl
@[simp] theorem State.setStatus_tlb (v : Word) : (s.setStatus v).tlb = s.tlb := rfl
@[simp] theorem State.setStatus_caches (v : Word) : (s.setStatus v).caches = s.caches := rfl
@[simp] theorem State.setStatus_mem (v : Word) : (s.setStatus v).mem = s.mem := rfl
@[simp] theorem State.setStatus_ext (v : Word) : (s.setStatus v).ext = s.ext := rfl
@[simp] theorem State.setStatus_hw (v : Word) : (s.setStatus v).hw = s.hw := rfl
@[simp] theorem State.setStatus_steps (v : Word) : (s.setStatus v).steps = s.steps := rfl
@[simp] theorem State.setStatus_note (v : Word) : (s.setStatus v).note = s.note := rfl
@[simp] theorem State.setStatus_events (v : Word) : (s.setStatus v).events = s.events := rfl
@[simp] theorem State.setStatus_sctp (v : Word) : (s.setStatus v).sctp = s.sctp := rfl

/-! ### State.setCp0 -/

@[simp] theorem State.setCp0_gpr (c : Cp0) : (s.setCp0 c).gpr = s.gpr := rfl
@[simp] theorem State.setCp0_hi (c : Cp0) : (s.setCp0 c).hi = s.hi := rfl
@[simp] theorem State.setCp0_lo (c : Cp0) : (s.setCp0 c).lo = s.lo := rfl
@[simp] theorem State.setCp0_pc (c : Cp0) : (s.setCp0 c).pc = s.pc := rfl
@[simp] theorem State.setCp0_delaySlot (c : Cp0) : (s.setCp0 c).delaySlot = s.delaySlot := rfl
@[simp] theorem State.setCp0_llbit (c : Cp0) : (s.setCp0 c).llbit = s.llbit := rfl
@[simp] theorem State.setCp0_llblock (c : Cp0) : (s.setCp0 c).llblock = s.llblock := rfl
@[simp] theorem State.setCp0_cp0 (c : Cp0) : (s.setCp0 c).cp0 = c := rfl
@[simp] theorem State.setCp0_fpu (c : Cp0) : (s.setCp0 c).fpu = s.fpu := rfl
@[simp] theorem State.setCp0_tlb (c : Cp0) : (s.setCp0 c).tlb = s.tlb := rfl
@[simp] theorem State.setCp0_caches (c : Cp0) : (s.setCp0 c).caches = s.caches := rfl
@[simp] theorem State.setCp0_mem (c : Cp0) : (s.setCp0 c).mem = s.mem := rfl
@[simp] theorem State.setCp0_ext (c : Cp0) : (s.setCp0 c).ext = s.ext := rfl
@[simp] theorem State.setCp0_hw (c : Cp0) : (s.setCp0 c).hw = s.hw := rfl
@[simp] theorem State.setCp0_steps (c : Cp0) : (s.setCp0 c).steps = s.steps := rfl
@[simp] theorem State.setCp0_note (c : Cp0) : (s.setCp0 c).note = s.note := rfl
@[simp] theorem State.setCp0_events (c : Cp0) : (s.setCp0 c).events = s.events := rfl
@[simp] theorem State.setCp0_sctp (c : Cp0) : (s.setCp0 c).sctp = s.sctp := rfl

/-! ### State.setFcr31 -/

@[simp] theorem State.setFcr31_gpr (v : Word) : (s.setFcr31 v).gpr = s.gpr := rfl
@[simp] theorem State.setFcr31_hi (v : Word) : (s.setFcr31 v).hi = s.hi := rfl
@[simp] theorem State.setFcr31_lo (v : Word) : (s.setFcr31 v).lo = s.lo := rfl
@[simp] theorem State.setFcr31_pc (v : Word) : (s.setFcr31 v).pc = s.pc := rfl
@[simp] theorem State.setFcr31_delaySlot (v : Word) : (s.setFcr31 v).delaySlot = s.delaySlot := rfl
@[simp] theorem State.setFcr31_llbit (v : Word) : (s.setFcr31 v).llbit = s.llbit := rfl
@[simp] theorem State.setFcr31_llblock (v : Word) : (s.setFcr31 v).llblock = s.llblock := rfl
@[simp] theorem State.setFcr31_cp0 (v : Word) : (s.setFcr31 v).cp0 = s.cp0 := rfl
@[simp] theorem State.setFcr31_fpu (v : Word) : (s.setFcr31 v).fpu = { s.fpu with fcr31 := v } := rfl
@[simp] theorem State.setFcr31_tlb (v : Word) : (s.setFcr31 v).tlb = s.tlb := rfl
@[simp] theorem State.setFcr31_caches (v : Word) : (s.setFcr31 v).caches = s.caches := rfl
@[simp] theorem State.setFcr31_mem (v : Word) : (s.setFcr31 v).mem = s.mem := rfl
@[simp] theorem State.setFcr31_ext (v : Word) : (s.setFcr31 v).ext = s.ext := rfl
@[simp] theorem State.setFcr31_hw (v : Word) : (s.setFcr31 v).hw = s.hw := rfl
@[simp] theorem State.setFcr31_steps (v : Word) : (s.setFcr31 v).steps = s.steps := rfl
@[simp] theorem State.setFcr31_note (v : Word) : (s.setFcr31 v).note = s.note := rfl
@[simp] theorem State.setFcr31_events (v : Word) : (s.setFcr31 v).events = s.events := rfl
@[simp] theorem State.setFcr31_sctp (v : Word) : (s.setFcr31 v).sctp = s.sctp := rfl

/-! ### State.setFraw -/

@[simp] theorem State.setFraw_gpr (i : RegNum) (v : DWord) : (s.setFraw i v).gpr = s.gpr := rfl
@[simp] theorem State.setFraw_hi (i : RegNum) (v : DWord) : (s.setFraw i v).hi = s.hi := rfl
@[simp] theorem State.setFraw_lo (i : RegNum) (v : DWord) : (s.setFraw i v).lo = s.lo := rfl
@[simp] theorem State.setFraw_pc (i : RegNum) (v : DWord) : (s.setFraw i v).pc = s.pc := rfl
@[simp] theorem State.setFraw_delaySlot (i : RegNum) (v : DWord) : (s.setFraw i v).delaySlot = s.delaySlot := rfl
@[simp] theorem State.setFraw_llbit (i : RegNum) (v : DWord) : (s.setFraw i v).llbit = s.llbit := rfl
@[simp] theorem State.setFraw_llblock (i : RegNum) (v : DWord) : (s.setFraw i v).llblock = s.llblock := rfl
@[simp] theorem State.setFraw_cp0 (i : RegNum) (v : DWord) : (s.setFraw i v).cp0 = s.cp0 := rfl
@[simp] theorem State.setFraw_fpu (i : RegNum) (v : DWord) : (s.setFraw i v).fpu = { s.fpu with fpr := s.fpu.fpr.set i.toNat v i.isLt } := rfl
@[simp] theorem State.setFraw_tlb (i : RegNum) (v : DWord) : (s.setFraw i v).tlb = s.tlb := rfl
@[simp] theorem State.setFraw_caches (i : RegNum) (v : DWord) : (s.setFraw i v).caches = s.caches := rfl
@[simp] theorem State.setFraw_mem (i : RegNum) (v : DWord) : (s.setFraw i v).mem = s.mem := rfl
@[simp] theorem State.setFraw_ext (i : RegNum) (v : DWord) : (s.setFraw i v).ext = s.ext := rfl
@[simp] theorem State.setFraw_hw (i : RegNum) (v : DWord) : (s.setFraw i v).hw = s.hw := rfl
@[simp] theorem State.setFraw_steps (i : RegNum) (v : DWord) : (s.setFraw i v).steps = s.steps := rfl
@[simp] theorem State.setFraw_note (i : RegNum) (v : DWord) : (s.setFraw i v).note = s.note := rfl
@[simp] theorem State.setFraw_events (i : RegNum) (v : DWord) : (s.setFraw i v).events = s.events := rfl
@[simp] theorem State.setFraw_sctp (i : RegNum) (v : DWord) : (s.setFraw i v).sctp = s.sctp := rfl

/-! ### State.setCaches -/

@[simp] theorem State.setCaches_gpr (c : Caches) : (s.setCaches c).gpr = s.gpr := rfl
@[simp] theorem State.setCaches_hi (c : Caches) : (s.setCaches c).hi = s.hi := rfl
@[simp] theorem State.setCaches_lo (c : Caches) : (s.setCaches c).lo = s.lo := rfl
@[simp] theorem State.setCaches_pc (c : Caches) : (s.setCaches c).pc = s.pc := rfl
@[simp] theorem State.setCaches_delaySlot (c : Caches) : (s.setCaches c).delaySlot = s.delaySlot := rfl
@[simp] theorem State.setCaches_llbit (c : Caches) : (s.setCaches c).llbit = s.llbit := rfl
@[simp] theorem State.setCaches_llblock (c : Caches) : (s.setCaches c).llblock = s.llblock := rfl
@[simp] theorem State.setCaches_cp0 (c : Caches) : (s.setCaches c).cp0 = s.cp0 := rfl
@[simp] theorem State.setCaches_fpu (c : Caches) : (s.setCaches c).fpu = s.fpu := rfl
@[simp] theorem State.setCaches_tlb (c : Caches) : (s.setCaches c).tlb = s.tlb := rfl
@[simp] theorem State.setCaches_caches (c : Caches) : (s.setCaches c).caches = c := rfl
@[simp] theorem State.setCaches_mem (c : Caches) : (s.setCaches c).mem = s.mem := rfl
@[simp] theorem State.setCaches_ext (c : Caches) : (s.setCaches c).ext = s.ext := rfl
@[simp] theorem State.setCaches_hw (c : Caches) : (s.setCaches c).hw = s.hw := rfl
@[simp] theorem State.setCaches_steps (c : Caches) : (s.setCaches c).steps = s.steps := rfl
@[simp] theorem State.setCaches_note (c : Caches) : (s.setCaches c).note = s.note := rfl
@[simp] theorem State.setCaches_events (c : Caches) : (s.setCaches c).events = s.events := rfl
@[simp] theorem State.setCaches_sctp (c : Caches) : (s.setCaches c).sctp = s.sctp := rfl

/-! ### State.emit -/

@[simp] theorem State.emit_gpr (r : BusReq) : (s.emit r).gpr = s.gpr := rfl
@[simp] theorem State.emit_hi (r : BusReq) : (s.emit r).hi = s.hi := rfl
@[simp] theorem State.emit_lo (r : BusReq) : (s.emit r).lo = s.lo := rfl
@[simp] theorem State.emit_pc (r : BusReq) : (s.emit r).pc = s.pc := rfl
@[simp] theorem State.emit_delaySlot (r : BusReq) : (s.emit r).delaySlot = s.delaySlot := rfl
@[simp] theorem State.emit_llbit (r : BusReq) : (s.emit r).llbit = s.llbit := rfl
@[simp] theorem State.emit_llblock (r : BusReq) : (s.emit r).llblock = s.llblock := rfl
@[simp] theorem State.emit_cp0 (r : BusReq) : (s.emit r).cp0 = s.cp0 := rfl
@[simp] theorem State.emit_fpu (r : BusReq) : (s.emit r).fpu = s.fpu := rfl
@[simp] theorem State.emit_tlb (r : BusReq) : (s.emit r).tlb = s.tlb := rfl
@[simp] theorem State.emit_caches (r : BusReq) : (s.emit r).caches = s.caches := rfl
@[simp] theorem State.emit_mem (r : BusReq) : (s.emit r).mem = s.mem := rfl
@[simp] theorem State.emit_ext (r : BusReq) : (s.emit r).ext = { s.ext with bus := r :: s.ext.bus } := rfl
@[simp] theorem State.emit_hw (r : BusReq) : (s.emit r).hw = s.hw := rfl
@[simp] theorem State.emit_steps (r : BusReq) : (s.emit r).steps = s.steps := rfl
@[simp] theorem State.emit_note (r : BusReq) : (s.emit r).note = s.note := rfl
@[simp] theorem State.emit_events (r : BusReq) : (s.emit r).events = s.events := rfl
@[simp] theorem State.emit_sctp (r : BusReq) : (s.emit r).sctp = s.sctp := rfl

/-! ### State.count -/

@[simp] theorem State.count_gpr (f : CacheEvents → CacheEvents) : (s.count f).gpr = s.gpr := rfl
@[simp] theorem State.count_hi (f : CacheEvents → CacheEvents) : (s.count f).hi = s.hi := rfl
@[simp] theorem State.count_lo (f : CacheEvents → CacheEvents) : (s.count f).lo = s.lo := rfl
@[simp] theorem State.count_pc (f : CacheEvents → CacheEvents) : (s.count f).pc = s.pc := rfl
@[simp] theorem State.count_delaySlot (f : CacheEvents → CacheEvents) : (s.count f).delaySlot = s.delaySlot := rfl
@[simp] theorem State.count_llbit (f : CacheEvents → CacheEvents) : (s.count f).llbit = s.llbit := rfl
@[simp] theorem State.count_llblock (f : CacheEvents → CacheEvents) : (s.count f).llblock = s.llblock := rfl
@[simp] theorem State.count_cp0 (f : CacheEvents → CacheEvents) : (s.count f).cp0 = s.cp0 := rfl
@[simp] theorem State.count_fpu (f : CacheEvents → CacheEvents) : (s.count f).fpu = s.fpu := rfl
@[simp] theorem State.count_tlb (f : CacheEvents → CacheEvents) : (s.count f).tlb = s.tlb := rfl
@[simp] theorem State.count_caches (f : CacheEvents → CacheEvents) : (s.count f).caches = s.caches := rfl
@[simp] theorem State.count_mem (f : CacheEvents → CacheEvents) : (s.count f).mem = s.mem := rfl
@[simp] theorem State.count_ext (f : CacheEvents → CacheEvents) : (s.count f).ext = s.ext := rfl
@[simp] theorem State.count_hw (f : CacheEvents → CacheEvents) : (s.count f).hw = s.hw := rfl
@[simp] theorem State.count_steps (f : CacheEvents → CacheEvents) : (s.count f).steps = s.steps := rfl
@[simp] theorem State.count_note (f : CacheEvents → CacheEvents) : (s.count f).note = s.note := rfl
@[simp] theorem State.count_events (f : CacheEvents → CacheEvents) : (s.count f).events = f s.events := rfl
@[simp] theorem State.count_sctp (f : CacheEvents → CacheEvents) : (s.count f).sctp = s.sctp := rfl

/-! ### State.physWrite -/

@[simp] theorem State.physWrite_gpr (pa : PAddr) (bs : List Byte) : (s.physWrite pa bs).gpr = s.gpr := rfl
@[simp] theorem State.physWrite_hi (pa : PAddr) (bs : List Byte) : (s.physWrite pa bs).hi = s.hi := rfl
@[simp] theorem State.physWrite_lo (pa : PAddr) (bs : List Byte) : (s.physWrite pa bs).lo = s.lo := rfl
@[simp] theorem State.physWrite_pc (pa : PAddr) (bs : List Byte) : (s.physWrite pa bs).pc = s.pc := rfl
@[simp] theorem State.physWrite_delaySlot (pa : PAddr) (bs : List Byte) : (s.physWrite pa bs).delaySlot = s.delaySlot := rfl
@[simp] theorem State.physWrite_llbit (pa : PAddr) (bs : List Byte) : (s.physWrite pa bs).llbit = s.llbit := rfl
@[simp] theorem State.physWrite_llblock (pa : PAddr) (bs : List Byte) : (s.physWrite pa bs).llblock = s.llblock := rfl
@[simp] theorem State.physWrite_cp0 (pa : PAddr) (bs : List Byte) : (s.physWrite pa bs).cp0 = s.cp0 := rfl
@[simp] theorem State.physWrite_fpu (pa : PAddr) (bs : List Byte) : (s.physWrite pa bs).fpu = s.fpu := rfl
@[simp] theorem State.physWrite_tlb (pa : PAddr) (bs : List Byte) : (s.physWrite pa bs).tlb = s.tlb := rfl
@[simp] theorem State.physWrite_caches (pa : PAddr) (bs : List Byte) : (s.physWrite pa bs).caches = s.caches := rfl
@[simp] theorem State.physWrite_mem (pa : PAddr) (bs : List Byte) : (s.physWrite pa bs).mem = physWriteList s.hw s.mem pa.toNat bs := rfl
@[simp] theorem State.physWrite_ext (pa : PAddr) (bs : List Byte) : (s.physWrite pa bs).ext = s.ext := rfl
@[simp] theorem State.physWrite_hw (pa : PAddr) (bs : List Byte) : (s.physWrite pa bs).hw = s.hw := rfl
@[simp] theorem State.physWrite_steps (pa : PAddr) (bs : List Byte) : (s.physWrite pa bs).steps = s.steps := rfl
@[simp] theorem State.physWrite_note (pa : PAddr) (bs : List Byte) : (s.physWrite pa bs).note = s.note := rfl
@[simp] theorem State.physWrite_events (pa : PAddr) (bs : List Byte) : (s.physWrite pa bs).events = s.events := rfl
@[simp] theorem State.physWrite_sctp (pa : PAddr) (bs : List Byte) : (s.physWrite pa bs).sctp = s.sctp := rfl

/-! ### State.pend -/

@[simp] theorem State.pend_gpr (r : BusReq) : (s.pend r).gpr = s.gpr := rfl
@[simp] theorem State.pend_hi (r : BusReq) : (s.pend r).hi = s.hi := rfl
@[simp] theorem State.pend_lo (r : BusReq) : (s.pend r).lo = s.lo := rfl
@[simp] theorem State.pend_pc (r : BusReq) : (s.pend r).pc = s.pc := rfl
@[simp] theorem State.pend_delaySlot (r : BusReq) : (s.pend r).delaySlot = s.delaySlot := rfl
@[simp] theorem State.pend_llbit (r : BusReq) : (s.pend r).llbit = s.llbit := rfl
@[simp] theorem State.pend_llblock (r : BusReq) : (s.pend r).llblock = s.llblock := rfl
@[simp] theorem State.pend_cp0 (r : BusReq) : (s.pend r).cp0 = s.cp0 := rfl
@[simp] theorem State.pend_fpu (r : BusReq) : (s.pend r).fpu = s.fpu := rfl
@[simp] theorem State.pend_tlb (r : BusReq) : (s.pend r).tlb = s.tlb := rfl
@[simp] theorem State.pend_caches (r : BusReq) : (s.pend r).caches = s.caches := rfl
@[simp] theorem State.pend_mem (r : BusReq) : (s.pend r).mem = s.mem := rfl
@[simp] theorem State.pend_ext (r : BusReq) : (s.pend r).ext = { s.ext with outgoing := s.ext.outgoing ++ [r] } := rfl
@[simp] theorem State.pend_hw (r : BusReq) : (s.pend r).hw = s.hw := rfl
@[simp] theorem State.pend_steps (r : BusReq) : (s.pend r).steps = s.steps := rfl
@[simp] theorem State.pend_note (r : BusReq) : (s.pend r).note = s.note := rfl
@[simp] theorem State.pend_events (r : BusReq) : (s.pend r).events = s.events := rfl
@[simp] theorem State.pend_sctp (r : BusReq) : (s.pend r).sctp = s.sctp := rfl

/-! ### State.hang -/

@[simp] theorem State.hang_gpr : (s.hang).gpr = s.gpr := rfl
@[simp] theorem State.hang_hi : (s.hang).hi = s.hi := rfl
@[simp] theorem State.hang_lo : (s.hang).lo = s.lo := rfl
@[simp] theorem State.hang_pc : (s.hang).pc = s.pc := rfl
@[simp] theorem State.hang_delaySlot : (s.hang).delaySlot = s.delaySlot := rfl
@[simp] theorem State.hang_llbit : (s.hang).llbit = s.llbit := rfl
@[simp] theorem State.hang_llblock : (s.hang).llblock = s.llblock := rfl
@[simp] theorem State.hang_cp0 : (s.hang).cp0 = s.cp0 := rfl
@[simp] theorem State.hang_fpu : (s.hang).fpu = s.fpu := rfl
@[simp] theorem State.hang_tlb : (s.hang).tlb = s.tlb := rfl
@[simp] theorem State.hang_caches : (s.hang).caches = s.caches := rfl
@[simp] theorem State.hang_mem : (s.hang).mem = s.mem := rfl
@[simp] theorem State.hang_ext : (s.hang).ext = { s.ext with hung := true } := rfl
@[simp] theorem State.hang_hw : (s.hang).hw = s.hw := rfl
@[simp] theorem State.hang_steps : (s.hang).steps = s.steps := rfl
@[simp] theorem State.hang_note : (s.hang).note = s.note := rfl
@[simp] theorem State.hang_events : (s.hang).events = s.events := rfl
@[simp] theorem State.hang_sctp : (s.hang).sctp = s.sctp := rfl

/-! ### State.released -/

@[simp] theorem State.released_gpr : (s.released).gpr = s.gpr := rfl
@[simp] theorem State.released_hi : (s.released).hi = s.hi := rfl
@[simp] theorem State.released_lo : (s.released).lo = s.lo := rfl
@[simp] theorem State.released_pc : (s.released).pc = s.pc := rfl
@[simp] theorem State.released_delaySlot : (s.released).delaySlot = s.delaySlot := rfl
@[simp] theorem State.released_llbit : (s.released).llbit = s.llbit := rfl
@[simp] theorem State.released_llblock : (s.released).llblock = s.llblock := rfl
@[simp] theorem State.released_cp0 : (s.released).cp0 = s.cp0 := rfl
@[simp] theorem State.released_fpu : (s.released).fpu = s.fpu := rfl
@[simp] theorem State.released_tlb : (s.released).tlb = s.tlb := rfl
@[simp] theorem State.released_caches : (s.released).caches = s.caches := rfl
@[simp] theorem State.released_mem : (s.released).mem = s.mem := rfl
@[simp] theorem State.released_ext : (s.released).ext = { s.ext with outstanding := s.ext.outstanding.map fun o => { o with live := false }, forwarded := [], busErr := none } := rfl
@[simp] theorem State.released_hw : (s.released).hw = s.hw := rfl
@[simp] theorem State.released_steps : (s.released).steps = s.steps := rfl
@[simp] theorem State.released_note : (s.released).note = s.note := rfl
@[simp] theorem State.released_events : (s.released).events = s.events := rfl
@[simp] theorem State.released_sctp : (s.released).sctp = .none := rfl

/-! ### State.fresh -/

@[simp] theorem State.fresh_gpr : (s.fresh).gpr = s.gpr := rfl
@[simp] theorem State.fresh_hi : (s.fresh).hi = s.hi := rfl
@[simp] theorem State.fresh_lo : (s.fresh).lo = s.lo := rfl
@[simp] theorem State.fresh_pc : (s.fresh).pc = s.pc := rfl
@[simp] theorem State.fresh_delaySlot : (s.fresh).delaySlot = s.delaySlot := rfl
@[simp] theorem State.fresh_llbit : (s.fresh).llbit = s.llbit := rfl
@[simp] theorem State.fresh_llblock : (s.fresh).llblock = s.llblock := rfl
@[simp] theorem State.fresh_cp0 : (s.fresh).cp0 = s.cp0 := rfl
@[simp] theorem State.fresh_fpu : (s.fresh).fpu = s.fpu := rfl
@[simp] theorem State.fresh_tlb : (s.fresh).tlb = s.tlb := rfl
@[simp] theorem State.fresh_caches : (s.fresh).caches = s.caches := rfl
@[simp] theorem State.fresh_mem : (s.fresh).mem = s.mem := rfl
@[simp] theorem State.fresh_ext : (s.fresh).ext = s.ext := rfl
@[simp] theorem State.fresh_hw : (s.fresh).hw = s.hw := rfl
@[simp] theorem State.fresh_steps : (s.fresh).steps = s.steps := rfl
@[simp] theorem State.fresh_note : (s.fresh).note = .done := rfl
@[simp] theorem State.fresh_events : (s.fresh).events = .none := rfl
@[simp] theorem State.fresh_sctp : (s.fresh).sctp = s.sctp := rfl

/-! ### advance -/

@[simp] theorem advance_gpr : (advance s).gpr = s.gpr := rfl
@[simp] theorem advance_hi : (advance s).hi = s.hi := rfl
@[simp] theorem advance_lo : (advance s).lo = s.lo := rfl
@[simp] theorem advance_pc : (advance s).pc = s.delaySlot.getD (s.pc + 4#64) := rfl
@[simp] theorem advance_delaySlot : (advance s).delaySlot = none := rfl
@[simp] theorem advance_llbit : (advance s).llbit = s.llbit := rfl
@[simp] theorem advance_llblock : (advance s).llblock = s.llblock := rfl
@[simp] theorem advance_cp0 : (advance s).cp0 = s.cp0 := rfl
@[simp] theorem advance_fpu : (advance s).fpu = s.fpu := rfl
@[simp] theorem advance_tlb : (advance s).tlb = s.tlb := rfl
@[simp] theorem advance_caches : (advance s).caches = s.caches := rfl
@[simp] theorem advance_mem : (advance s).mem = s.mem := rfl
@[simp] theorem advance_ext : (advance s).ext = s.ext := rfl
@[simp] theorem advance_hw : (advance s).hw = s.hw := rfl
@[simp] theorem advance_steps : (advance s).steps = s.steps := rfl
@[simp] theorem advance_note : (advance s).note = s.note := rfl
@[simp] theorem advance_events : (advance s).events = s.events := rfl
@[simp] theorem advance_sctp : (advance s).sctp = s.sctp := rfl

/-! ### breakLl -/

@[simp] theorem breakLl_gpr : (breakLl s).gpr = s.gpr := rfl
@[simp] theorem breakLl_hi : (breakLl s).hi = s.hi := rfl
@[simp] theorem breakLl_lo : (breakLl s).lo = s.lo := rfl
@[simp] theorem breakLl_pc : (breakLl s).pc = s.pc := rfl
@[simp] theorem breakLl_delaySlot : (breakLl s).delaySlot = s.delaySlot := rfl
@[simp] theorem breakLl_llbit : (breakLl s).llbit = false := rfl
@[simp] theorem breakLl_llblock : (breakLl s).llblock = s.llblock := rfl
@[simp] theorem breakLl_cp0 : (breakLl s).cp0 = s.cp0 := rfl
@[simp] theorem breakLl_fpu : (breakLl s).fpu = s.fpu := rfl
@[simp] theorem breakLl_tlb : (breakLl s).tlb = s.tlb := rfl
@[simp] theorem breakLl_caches : (breakLl s).caches = s.caches := rfl
@[simp] theorem breakLl_mem : (breakLl s).mem = s.mem := rfl
@[simp] theorem breakLl_ext : (breakLl s).ext = s.ext := rfl
@[simp] theorem breakLl_hw : (breakLl s).hw = s.hw := rfl
@[simp] theorem breakLl_steps : (breakLl s).steps = s.steps := rfl
@[simp] theorem breakLl_note : (breakLl s).note = s.note := rfl
@[simp] theorem breakLl_events : (breakLl s).events = s.events := rfl
@[simp] theorem breakLl_sctp : (breakLl s).sctp = s.sctp := rfl

/-! ### latchWatch -/

@[simp] theorem latchWatch_gpr (hit : Bool) : (latchWatch hit s).gpr = s.gpr := by unfold latchWatch; split <;> rfl
@[simp] theorem latchWatch_hi (hit : Bool) : (latchWatch hit s).hi = s.hi := by unfold latchWatch; split <;> rfl
@[simp] theorem latchWatch_lo (hit : Bool) : (latchWatch hit s).lo = s.lo := by unfold latchWatch; split <;> rfl
@[simp] theorem latchWatch_pc (hit : Bool) : (latchWatch hit s).pc = s.pc := by unfold latchWatch; split <;> rfl
@[simp] theorem latchWatch_delaySlot (hit : Bool) : (latchWatch hit s).delaySlot = s.delaySlot := by unfold latchWatch; split <;> rfl
@[simp] theorem latchWatch_llbit (hit : Bool) : (latchWatch hit s).llbit = s.llbit := by unfold latchWatch; split <;> rfl
@[simp] theorem latchWatch_llblock (hit : Bool) : (latchWatch hit s).llblock = s.llblock := by unfold latchWatch; split <;> rfl
@[simp] theorem latchWatch_fpu (hit : Bool) : (latchWatch hit s).fpu = s.fpu := by unfold latchWatch; split <;> rfl
@[simp] theorem latchWatch_tlb (hit : Bool) : (latchWatch hit s).tlb = s.tlb := by unfold latchWatch; split <;> rfl
@[simp] theorem latchWatch_caches (hit : Bool) : (latchWatch hit s).caches = s.caches := by unfold latchWatch; split <;> rfl
@[simp] theorem latchWatch_mem (hit : Bool) : (latchWatch hit s).mem = s.mem := by unfold latchWatch; split <;> rfl
@[simp] theorem latchWatch_ext (hit : Bool) : (latchWatch hit s).ext = s.ext := by unfold latchWatch; split <;> rfl
@[simp] theorem latchWatch_hw (hit : Bool) : (latchWatch hit s).hw = s.hw := by unfold latchWatch; split <;> rfl
@[simp] theorem latchWatch_steps (hit : Bool) : (latchWatch hit s).steps = s.steps := by unfold latchWatch; split <;> rfl
@[simp] theorem latchWatch_note (hit : Bool) : (latchWatch hit s).note = s.note := by unfold latchWatch; split <;> rfl
@[simp] theorem latchWatch_events (hit : Bool) : (latchWatch hit s).events = s.events := by unfold latchWatch; split <;> rfl
@[simp] theorem latchWatch_sctp (hit : Bool) : (latchWatch hit s).sctp = s.sctp := by unfold latchWatch; split <;> rfl

/-! ### retire -/

@[simp] theorem retire_gpr (o : Outstanding) : (retire o s).gpr = s.gpr := rfl
@[simp] theorem retire_hi (o : Outstanding) : (retire o s).hi = s.hi := rfl
@[simp] theorem retire_lo (o : Outstanding) : (retire o s).lo = s.lo := rfl
@[simp] theorem retire_pc (o : Outstanding) : (retire o s).pc = s.pc := rfl
@[simp] theorem retire_delaySlot (o : Outstanding) : (retire o s).delaySlot = s.delaySlot := rfl
@[simp] theorem retire_llbit (o : Outstanding) : (retire o s).llbit = s.llbit := rfl
@[simp] theorem retire_llblock (o : Outstanding) : (retire o s).llblock = s.llblock := rfl
@[simp] theorem retire_cp0 (o : Outstanding) : (retire o s).cp0 = s.cp0 := rfl
@[simp] theorem retire_fpu (o : Outstanding) : (retire o s).fpu = s.fpu := rfl
@[simp] theorem retire_tlb (o : Outstanding) : (retire o s).tlb = s.tlb := rfl
@[simp] theorem retire_caches (o : Outstanding) : (retire o s).caches = s.caches := rfl
@[simp] theorem retire_mem (o : Outstanding) : (retire o s).mem = s.mem := rfl
@[simp] theorem retire_ext (o : Outstanding) : (retire o s).ext = { s.ext with outstanding := s.ext.outstanding.erase o } := rfl
@[simp] theorem retire_hw (o : Outstanding) : (retire o s).hw = s.hw := rfl
@[simp] theorem retire_steps (o : Outstanding) : (retire o s).steps = s.steps := rfl
@[simp] theorem retire_note (o : Outstanding) : (retire o s).note = s.note := rfl
@[simp] theorem retire_events (o : Outstanding) : (retire o s).events = s.events := rfl
@[simp] theorem retire_sctp (o : Outstanding) : (retire o s).sctp = s.sctp := rfl

/-! ### toTarget -/

@[simp] theorem toTarget_gpr (a : DWord) : (toTarget a s).gpr = s.gpr := rfl
@[simp] theorem toTarget_hi (a : DWord) : (toTarget a s).hi = s.hi := rfl
@[simp] theorem toTarget_lo (a : DWord) : (toTarget a s).lo = s.lo := rfl
@[simp] theorem toTarget_pc (a : DWord) : (toTarget a s).pc = s.pc + 4#64 := rfl
@[simp] theorem toTarget_delaySlot (a : DWord) : (toTarget a s).delaySlot = some a := rfl
@[simp] theorem toTarget_llbit (a : DWord) : (toTarget a s).llbit = s.llbit := rfl
@[simp] theorem toTarget_llblock (a : DWord) : (toTarget a s).llblock = s.llblock := rfl
@[simp] theorem toTarget_cp0 (a : DWord) : (toTarget a s).cp0 = s.cp0 := rfl
@[simp] theorem toTarget_fpu (a : DWord) : (toTarget a s).fpu = s.fpu := rfl
@[simp] theorem toTarget_tlb (a : DWord) : (toTarget a s).tlb = s.tlb := rfl
@[simp] theorem toTarget_caches (a : DWord) : (toTarget a s).caches = s.caches := rfl
@[simp] theorem toTarget_mem (a : DWord) : (toTarget a s).mem = s.mem := rfl
@[simp] theorem toTarget_ext (a : DWord) : (toTarget a s).ext = s.ext := rfl
@[simp] theorem toTarget_hw (a : DWord) : (toTarget a s).hw = s.hw := rfl
@[simp] theorem toTarget_steps (a : DWord) : (toTarget a s).steps = s.steps := rfl
@[simp] theorem toTarget_note (a : DWord) : (toTarget a s).note = s.note := rfl
@[simp] theorem toTarget_events (a : DWord) : (toTarget a s).events = s.events := rfl
@[simp] theorem toTarget_sctp (a : DWord) : (toTarget a s).sctp = s.sctp := rfl

/-! ### freeEntryLo -/

@[simp] theorem freeEntryLo_gpr : (freeEntryLo s).gpr = s.gpr := rfl
@[simp] theorem freeEntryLo_hi : (freeEntryLo s).hi = s.hi := rfl
@[simp] theorem freeEntryLo_lo : (freeEntryLo s).lo = s.lo := rfl
@[simp] theorem freeEntryLo_pc : (freeEntryLo s).pc = s.pc := rfl
@[simp] theorem freeEntryLo_delaySlot : (freeEntryLo s).delaySlot = s.delaySlot := rfl
@[simp] theorem freeEntryLo_llbit : (freeEntryLo s).llbit = s.llbit := rfl
@[simp] theorem freeEntryLo_llblock : (freeEntryLo s).llblock = s.llblock := rfl
@[simp] theorem freeEntryLo_cp0 : (freeEntryLo s).cp0 = { s.cp0 with entryLo0 := s.free .entryLo0 &&& entryLoMask, entryLo1 := s.free .entryLo1 &&& entryLoMask } := rfl
@[simp] theorem freeEntryLo_fpu : (freeEntryLo s).fpu = s.fpu := rfl
@[simp] theorem freeEntryLo_tlb : (freeEntryLo s).tlb = s.tlb := rfl
@[simp] theorem freeEntryLo_caches : (freeEntryLo s).caches = s.caches := rfl
@[simp] theorem freeEntryLo_mem : (freeEntryLo s).mem = s.mem := rfl
@[simp] theorem freeEntryLo_ext : (freeEntryLo s).ext = s.ext := rfl
@[simp] theorem freeEntryLo_hw : (freeEntryLo s).hw = s.hw := rfl
@[simp] theorem freeEntryLo_steps : (freeEntryLo s).steps = s.steps := rfl
@[simp] theorem freeEntryLo_note : (freeEntryLo s).note = s.note := rfl
@[simp] theorem freeEntryLo_events : (freeEntryLo s).events = s.events := rfl
@[simp] theorem freeEntryLo_sctp : (freeEntryLo s).sctp = s.sctp := rfl

/-! ### takeException -/

@[simp] theorem takeException_gpr (e : Exc) : (takeException e s).gpr = s.gpr := by cases e <;> rfl
@[simp] theorem takeException_hi (e : Exc) : (takeException e s).hi = s.hi := by cases e <;> rfl
@[simp] theorem takeException_lo (e : Exc) : (takeException e s).lo = s.lo := by cases e <;> rfl
@[simp] theorem takeException_delaySlot (e : Exc) : (takeException e s).delaySlot = none := by cases e <;> rfl
@[simp] theorem takeException_llbit (e : Exc) : (takeException e s).llbit = false := by cases e <;> rfl
@[simp] theorem takeException_llblock (e : Exc) : (takeException e s).llblock = s.llblock := by cases e <;> rfl
@[simp] theorem takeException_fpu (e : Exc) : (takeException e s).fpu = s.fpu := by cases e <;> rfl
@[simp] theorem takeException_tlb (e : Exc) : (takeException e s).tlb = s.tlb := by cases e <;> rfl
@[simp] theorem takeException_caches (e : Exc) : (takeException e s).caches = s.caches := by cases e <;> rfl
@[simp] theorem takeException_mem (e : Exc) : (takeException e s).mem = s.mem := by cases e <;> rfl
@[simp] theorem takeException_ext (e : Exc) : (takeException e s).ext = s.ext := by cases e <;> rfl
@[simp] theorem takeException_hw (e : Exc) : (takeException e s).hw = s.hw := by cases e <;> rfl
@[simp] theorem takeException_steps (e : Exc) : (takeException e s).steps = s.steps := by cases e <;> rfl
@[simp] theorem takeException_note (e : Exc) : (takeException e s).note = .raised e := by cases e <;> rfl
@[simp] theorem takeException_events (e : Exc) : (takeException e s).events = s.events := by cases e <;> rfl
@[simp] theorem takeException_sctp (e : Exc) : (takeException e s).sctp = s.sctp := by cases e <;> rfl

/-! ### errorEntry -/

@[simp] theorem errorEntry_gpr (v : DWord) : (errorEntry v s).gpr = s.gpr := rfl
@[simp] theorem errorEntry_hi (v : DWord) : (errorEntry v s).hi = s.hi := rfl
@[simp] theorem errorEntry_lo (v : DWord) : (errorEntry v s).lo = s.lo := rfl
@[simp] theorem errorEntry_pc (v : DWord) : (errorEntry v s).pc = v := rfl
@[simp] theorem errorEntry_delaySlot (v : DWord) : (errorEntry v s).delaySlot = none := rfl
@[simp] theorem errorEntry_llbit (v : DWord) : (errorEntry v s).llbit = false := rfl
@[simp] theorem errorEntry_llblock (v : DWord) : (errorEntry v s).llblock = s.llblock := rfl
@[simp] theorem errorEntry_fpu (v : DWord) : (errorEntry v s).fpu = s.fpu := rfl
@[simp] theorem errorEntry_tlb (v : DWord) : (errorEntry v s).tlb = s.tlb := rfl
@[simp] theorem errorEntry_caches (v : DWord) : (errorEntry v s).caches = s.caches := rfl
@[simp] theorem errorEntry_mem (v : DWord) : (errorEntry v s).mem = s.mem := rfl
@[simp] theorem errorEntry_ext (v : DWord) : (errorEntry v s).ext = s.ext := rfl
@[simp] theorem errorEntry_hw (v : DWord) : (errorEntry v s).hw = s.hw := rfl
@[simp] theorem errorEntry_steps (v : DWord) : (errorEntry v s).steps = s.steps := rfl
@[simp] theorem errorEntry_note (v : DWord) : (errorEntry v s).note = s.note := rfl
@[simp] theorem errorEntry_events (v : DWord) : (errorEntry v s).events = s.events := rfl
@[simp] theorem errorEntry_sctp (v : DWord) : (errorEntry v s).sctp = s.sctp := rfl

/-! ### returnFromException -/

@[simp] theorem returnFromException_gpr : (returnFromException s).gpr = s.gpr := by unfold returnFromException; split <;> rfl
@[simp] theorem returnFromException_hi : (returnFromException s).hi = s.hi := by unfold returnFromException; split <;> rfl
@[simp] theorem returnFromException_lo : (returnFromException s).lo = s.lo := by unfold returnFromException; split <;> rfl
@[simp] theorem returnFromException_delaySlot : (returnFromException s).delaySlot = s.delaySlot := by unfold returnFromException; split <;> rfl
@[simp] theorem returnFromException_llbit : (returnFromException s).llbit = false := by unfold returnFromException; split <;> rfl
@[simp] theorem returnFromException_llblock : (returnFromException s).llblock = s.llblock := by unfold returnFromException; split <;> rfl
@[simp] theorem returnFromException_fpu : (returnFromException s).fpu = s.fpu := by unfold returnFromException; split <;> rfl
@[simp] theorem returnFromException_tlb : (returnFromException s).tlb = s.tlb := by unfold returnFromException; split <;> rfl
@[simp] theorem returnFromException_caches : (returnFromException s).caches = s.caches := by unfold returnFromException; split <;> rfl
@[simp] theorem returnFromException_mem : (returnFromException s).mem = s.mem := by unfold returnFromException; split <;> rfl
@[simp] theorem returnFromException_ext : (returnFromException s).ext = s.ext := by unfold returnFromException; split <;> rfl
@[simp] theorem returnFromException_hw : (returnFromException s).hw = s.hw := by unfold returnFromException; split <;> rfl
@[simp] theorem returnFromException_steps : (returnFromException s).steps = s.steps := by unfold returnFromException; split <;> rfl
@[simp] theorem returnFromException_note : (returnFromException s).note = s.note := by unfold returnFromException; split <;> rfl
@[simp] theorem returnFromException_events : (returnFromException s).events = s.events := by unfold returnFromException; split <;> rfl
@[simp] theorem returnFromException_sctp : (returnFromException s).sctp = s.sctp := by unfold returnFromException; split <;> rfl

end Sys2Proof.Machine
end

