-- ==== Sys2Proof/Laws/Memory.lean ====
section
/-! SUPPORT. Sparse arrays and memory: a read after a write, and every memory operation keeps the canonical form. -/

namespace Sys2Proof.Machine

/-! ## Sparse arrays -/

section Sparse

variable {α : Type} [DecidableEq α] {d : α}

/-- In an array whose keys start at `lo`, a key below `lo` is not listed. -/
theorem sparseGet_below {m : Sparse α} {lo k : Nat} (h : sparseWfFrom d lo m = true) (hk : k < lo) :
    sparseGet d m k = d := by
  cases m with
  | nil => rfl
  | cons c m =>
    obtain ⟨a, v⟩ := c
    simp only [sparseWfFrom, Bool.and_eq_true, decide_eq_true_eq] at h
    simp only [sparseGet]
    rw [if_neg (by omega), if_pos (by omega)]

/-- The bound of a canonical array may be lowered. -/
theorem sparseWfFrom_mono {m : Sparse α} {lo lo' : Nat} (h : sparseWfFrom d lo m = true) (hl : lo' ≤ lo) :
    sparseWfFrom d lo' m = true := by
  cases m with
  | nil => rfl
  | cons c m =>
    obtain ⟨a, v⟩ := c
    simp only [sparseWfFrom, Bool.and_eq_true, decide_eq_true_eq] at h ⊢
    exact ⟨⟨by omega, h.1.2⟩, h.2⟩

/-- A write keeps the canonical form. -/
theorem sparseSet_wfFrom {m : Sparse α} {lo k : Nat} {v : α} (h : sparseWfFrom d lo m = true) (hk : lo ≤ k) :
    sparseWfFrom d lo (sparseSet d m k v) = true := by
  induction m generalizing lo with
  | nil =>
    simp only [sparseSet]
    split
    · rfl
    · simp [sparseWfFrom, *]
  | cons c m ih =>
    obtain ⟨a, w⟩ := c
    simp only [sparseWfFrom, Bool.and_eq_true, decide_eq_true_eq] at h
    simp only [sparseSet]
    split
    · next he =>
      subst he
      split
      · exact sparseWfFrom_mono h.2 (by omega)
      · next hv => simpa [sparseWfFrom, hk, hv] using h.2
    · split
      · split
        · simpa [sparseWfFrom] using h
        · next hlt hv => simp [sparseWfFrom, hk, hv, h.1.2, h.2, Nat.succ_le_of_lt hlt]
      · simp only [sparseWfFrom, Bool.and_eq_true, decide_eq_true_eq]
        exact ⟨h.1, ih h.2 (by omega)⟩

/-- A write keeps the canonical form. -/
theorem sparseSet_wf {m : Sparse α} {k : Nat} {v : α} (h : sparseWf d m = true) :
    sparseWf d (sparseSet d m k v) = true := sparseSet_wfFrom h (Nat.zero_le k)

/-- A read after a write: the value written at the key, else what was there. -/
theorem sparseGet_set {m : Sparse α} {lo k j : Nat} {v : α} (h : sparseWfFrom d lo m = true) :
    sparseGet d (sparseSet d m k v) j = if j = k then v else sparseGet d m j := by
  induction m generalizing lo with
  | nil =>
    simp only [sparseSet]
    split
    · next hv => subst hv; simp [sparseGet]
    · simp [sparseGet]
  | cons c m ih =>
    obtain ⟨a, w⟩ := c
    simp only [sparseWfFrom, Bool.and_eq_true, decide_eq_true_eq] at h
    simp only [sparseSet]
    split
    · next he =>
      subst he
      split
      · next hv =>
        subst hv
        by_cases hj : j = k
        · rw [if_pos hj, hj, sparseGet_below h.2 (by omega)]
        · rw [if_neg hj]
          simp only [sparseGet, if_neg hj]
          split
          · exact sparseGet_below h.2 (by omega)
          · rfl
      · simp only [sparseGet]
        split
        · rfl
        · rfl
    · next hne =>
      split
      · next hlt =>
        split
        · next hv =>
          subst hv
          by_cases hj : j = k
          · subst hj; rw [if_pos rfl]; simp only [sparseGet]; rw [if_neg hne, if_pos hlt]
          · rw [if_neg hj]
        · simp only [sparseGet]
          by_cases hj : j = k
          · rw [if_pos hj, if_pos hj]
          · rw [if_neg hj, if_neg hj]
            by_cases hjk : j < k
            · rw [if_pos hjk, if_neg (by omega), if_pos (by omega)]
            · rw [if_neg hjk]
      · simp only [sparseGet, ih h.2]
        by_cases hj : j = a
        · rw [if_pos hj, if_neg (by omega), if_pos hj]
        · rw [if_neg hj, if_neg hj]
          by_cases hja : j < a
          · rw [if_pos hja, if_neg (by omega), if_pos hja]
          · rw [if_neg hja, if_neg hja]

end Sparse

/-! ## Memory -/

/-- Reading a byte of canonical memory after writing one. -/
theorem Memory.read_write {m : Memory} {pa a : Nat} {b : Byte} (h : m.wf = true) :
    (m.write pa b).read a = if a = pa then b else m.read a := sparseGet_set h

/-- A byte write keeps the canonical form. -/
theorem Memory.write_wf {m : Memory} {pa : Nat} {b : Byte} (h : m.wf = true) : (m.write pa b).wf = true :=
  sparseSet_wf h

/-- A write of several bytes keeps the canonical form. -/
theorem Memory.writeList_wf {m : Memory} {pa : Nat} {bs : List Byte} (h : m.wf = true) :
    (m.writeList pa bs).wf = true := by
  induction bs generalizing m pa with
  | nil => exact h
  | cons b bs ih => exact ih (Memory.write_wf h)

/-- Reading a byte after writing several: the byte written there, or the byte from before. -/
theorem Memory.read_writeList {m : Memory} {pa a : Nat} {bs : List Byte} (h : m.wf = true) :
    (m.writeList pa bs).read a = if pa ≤ a then (bs[a - pa]?).getD (m.read a) else m.read a := by
  induction bs generalizing m pa with
  | nil => simp [Memory.writeList]
  | cons b bs ih =>
    simp only [Memory.writeList, ih (Memory.write_wf h), Memory.read_write h]
    by_cases h1 : pa + 1 ≤ a
    · have e : a - pa = (a - (pa + 1)) + 1 := by omega
      rw [if_pos h1, if_pos (Nat.le_of_succ_le h1), if_neg (Nat.ne_of_gt h1), e]
      simp
    · rw [if_neg h1]
      by_cases h2 : a = pa
      · subst h2; simp
      · rw [if_neg h2, if_neg (by omega)]

/-- The external agent's byte write keeps the canonical form. -/
theorem physWriteByte_wf {h : Hw} {m : Memory} {pa : Nat} {b : Byte} (hm : m.wf = true) :
    (physWriteByte h m pa b).wf = true := by
  unfold physWriteByte; split <;> simp [Memory.write_wf, hm]

/-- The external agent's write keeps the canonical form. -/
theorem physWriteList_wf {h : Hw} {m : Memory} {pa : Nat} {bs : List Byte} (hm : m.wf = true) :
    (physWriteList h m pa bs).wf = true := by
  induction bs generalizing m pa with
  | nil => exact hm
  | cons b bs ih => exact ih (physWriteByte_wf hm)

/-- Where everything is RAM, the external agent's write is a memory write. -/
theorem physWriteList_ram {h : Hw} {m : Memory} {pa : Nat} {bs : List Byte}
    (hr : ∀ a, pa ≤ a → a < pa + bs.length → physKind h.physMap a = .ram) :
    physWriteList h m pa bs = m.writeList pa bs := by
  induction bs generalizing m pa with
  | nil => rfl
  | cons b bs ih =>
    simp only [physWriteList, Memory.writeList]
    have h0 : physWriteByte h m pa b = m.write pa b := by
      unfold physWriteByte; rw [hr pa (Nat.le_refl _) (by simp)]
    rw [h0]
    exact ih fun a h1 h2 => hr a (by omega) (by simp only [List.length_cons]; omega)

/-! ## Byte lists -/

@[simp] theorem readBytes_length (rd : Nat → Byte) (a n : Nat) : (readBytes rd a n).length = n := by
  induction n generalizing a with
  | zero => rfl
  | succ n ih => simp [readBytes, ih]

@[simp] theorem bytesLE_length (v : DWord) (n : Nat) : (bytesLE v n).length = n := by
  induction n generalizing v with
  | zero => rfl
  | succ n ih => simp [bytesLE, ih]

@[simp] theorem bytesOfValue_length (be : Bool) (v : DWord) (n : Nat) : (bytesOfValue be v n).length = n := by
  unfold bytesOfValue; split <;> simp

/-- The byte at position `i` of a value's bytes, least significant first. -/
theorem bytesLE_get (v : DWord) (n i : Nat) (h : i < n) : (bytesLE v n)[i]? = some (v.extractLsb' (8 * i) 8) := by
  induction n generalizing v i with
  | zero => omega
  | succ n ih =>
    cases i with
    | zero => simp [bytesLE, BitVec.setWidth_eq_extractLsb']
    | succ i =>
      simp only [bytesLE, List.getElem?_cons_succ]
      rw [ih _ _ (by omega)]
      congr 1
      ext j hj
      simp
      congr 1
      omega

/-! ## General registers -/

/-- A general register after a write: the value where it was written, register 0 always zero (R31). -/
theorem State.rget_rset (s : State) (r q : RegNum) (v : DWord) :
    (s.rset r v).rget q = if q = r ∧ r ≠ 0#5 then v else s.rget q := by
  unfold State.rset State.rget
  by_cases hr : r = 0#5
  · simp only [hr, if_true]
    by_cases hq : q = 0#5 <;> simp [hq]
  · rw [if_neg hr]
    by_cases hq : q = 0#5
    · subst hq; simp [Ne.symm hr]
    · rw [if_neg hq, if_neg hq]
      by_cases h : q = r
      · subst h
        rw [if_pos ⟨rfl, hr⟩]
        exact Vector.getElem_set_self _
      · rw [if_neg (by simp [h])]
        have hn : r.toNat ≠ q.toNat := fun e => h (BitVec.eq_of_toNat_eq e.symm)
        exact Vector.getElem_set_ne r.isLt q.isLt hn

@[simp] theorem State.rget_zero (s : State) : s.rget 0#5 = 0#64 := rfl

end Sys2Proof.Machine
end

