-- ==== Sys2Proof/Laws/Frame.lean ====
section
/-! SUPPORT. What the memory system (caches, System interface, uncached buffer, physical memory) can do to the state:
it leaves every register of the programmer alone, and it keeps memory and the caches in canonical form.  One lemma for
each of its operations. -/

namespace Sys2Proof.Machine

/-! ## The relation -/

/-- CP0 without the three fields that a memory access can change: the delayed-Watch latch, the miss-address register
and the syndrome register. -/
def Cp0.stable (c : Cp0) : Cp0 :=
  { c with watchPending := false, perf := { c.perf with missAddr := 0#40, syndrome := 0#9 } }

/-- The state without what a memory access can change. -/
def State.stable (s : State) : State :=
  { s with caches := Caches.empty, mem := [], ext := Ext.reset, events := CacheEvents.none, cp0 := s.cp0.stable,
           sctp := Sctp.none }

/-- `t` comes from `s` by work of the memory system alone. -/
structure Kept (s t : State) : Prop where
  stable : t.stable = s.stable
  canon  : s.canonical = true → t.canonical = true

namespace Kept

theorem refl (s : State) : Kept s s := ⟨rfl, id⟩

theorem trans {s t u : State} (h : Kept s t) (k : Kept t u) : Kept s u := ⟨k.stable.trans h.stable, k.canon ∘ h.canon⟩

variable {s t : State} (h : Kept s t)
include h

theorem gpr : t.gpr = s.gpr := (congrArg State.gpr h.stable :)
theorem hi : t.hi = s.hi := (congrArg State.hi h.stable :)
theorem lo : t.lo = s.lo := (congrArg State.lo h.stable :)
theorem pc : t.pc = s.pc := (congrArg State.pc h.stable :)
theorem delaySlot : t.delaySlot = s.delaySlot := (congrArg State.delaySlot h.stable :)
theorem llbit : t.llbit = s.llbit := (congrArg State.llbit h.stable :)
theorem llblock : t.llblock = s.llblock := (congrArg State.llblock h.stable :)
theorem fpu : t.fpu = s.fpu := (congrArg State.fpu h.stable :)
theorem tlb : t.tlb = s.tlb := (congrArg State.tlb h.stable :)
theorem hw : t.hw = s.hw := (congrArg State.hw h.stable :)
theorem steps : t.steps = s.steps := (congrArg State.steps h.stable :)
theorem note : t.note = s.note := (congrArg State.note h.stable :)
theorem cp0 : t.cp0.stable = s.cp0.stable := (congrArg State.cp0 h.stable :)
theorem status : t.cp0.status = s.cp0.status := (congrArg Cp0.status h.cp0 :)
theorem entryLo0 : t.cp0.entryLo0 = s.cp0.entryLo0 := (congrArg Cp0.entryLo0 h.cp0 :)
theorem entryLo1 : t.cp0.entryLo1 = s.cp0.entryLo1 := (congrArg Cp0.entryLo1 h.cp0 :)
theorem entryHi : t.cp0.entryHi = s.cp0.entryHi := (congrArg Cp0.entryHi h.cp0 :)
theorem watchHi : t.cp0.watchHi = s.cp0.watchHi := (congrArg Cp0.watchHi h.cp0 :)
theorem watchLo : t.cp0.watchLo = s.cp0.watchLo := (congrArg Cp0.watchLo h.cp0 :)
theorem context : t.cp0.context = s.cp0.context := (congrArg Cp0.context h.cp0 :)
theorem xcontext : t.cp0.xcontext = s.cp0.xcontext := (congrArg Cp0.xcontext h.cp0 :)

end Kept

/-- A choice between two such states. -/
theorem Kept.ite {c : Prop} [Decidable c] {s t u : State} (h : Kept s t) (k : Kept s u) :
    Kept s (if c then t else u) := by
  split
  · exact h
  · exact k

/-- Every state that a piece of an instruction can leave comes from `s` by work of the memory system. -/
def Res.Kept {α : Type} (s : State) : Res α → Prop
  | .ok _ t => Machine.Kept s t
  | .exc _ t => Machine.Kept s t
  | .retry t => Machine.Kept s t
  | .fault _ => True
  | .refuse _ => True

theorem Res.Kept.mono {α : Type} {s t : State} {x : Res α} (h : Machine.Kept s t) (k : Res.Kept t x) : Res.Kept s x := by
  cases x <;> first | exact h.trans k | trivial

theorem Res.Kept.bind {α β : Type} {s : State} {x : Res α} {f : α → State → Res β} (h : Res.Kept s x)
    (k : ∀ a t, Res.Kept t (f a t)) : Res.Kept s (x.bind f) := by
  cases x with
  | ok a t => exact Res.Kept.mono h (k a t)
  | exc e t => exact h
  | retry t => exact h
  | fault f => trivial
  | refuse r => trivial

/-! ## The primitive updates -/

theorem Kept.emit (s : State) (r : BusReq) : Kept s (s.emit r) := ⟨rfl, id⟩
theorem Kept.count (s : State) (f : CacheEvents → CacheEvents) : Kept s (s.count f) := ⟨rfl, id⟩
theorem Kept.hang (s : State) : Kept s s.hang := ⟨rfl, id⟩
theorem Kept.ext (s : State) (e : Ext) : Kept s { s with ext := e } := ⟨rfl, id⟩
theorem Kept.sctp (s : State) (x : Sctp) : Kept s { s with sctp := x } := ⟨rfl, id⟩

theorem Kept.missAddr (s : State) (pa : PAddr) :
    Kept s { s with cp0 := { s.cp0 with perf := { s.cp0.perf with missAddr := pa } } } := ⟨rfl, id⟩

theorem Kept.physWrite (s : State) (pa : PAddr) (bs : List Byte) : Kept s (s.physWrite pa bs) := by
  refine ⟨rfl, fun h => ?_⟩
  simp only [State.canonical, Bool.and_eq_true] at h ⊢
  exact ⟨physWriteList_wf h.1, h.2⟩

/-- Replacing the caches by canonical ones. -/
theorem Kept.setCaches (s : State) (c : Caches) (h : s.caches.wf = true → c.wf = true) : Kept s (s.setCaches c) := by
  refine ⟨rfl, fun k => ?_⟩
  simp only [State.canonical, Bool.and_eq_true] at k ⊢
  exact ⟨k.1, h k.2⟩

theorem Kept.setItag (s : State) (set : Nat) (w : Bool) (t : ITag) : Kept s (s.setItag set w t) :=
  Kept.setCaches _ _ fun h => by
    simp only [Caches.wf, Bool.and_eq_true] at h ⊢; simp only [h, sparseSet_wf, and_self]
theorem Kept.setIword (s : State) (set : Nat) (w : Bool) (k : Nat) (x : IWord) : Kept s (s.setIword set w k x) :=
  Kept.setCaches _ _ fun h => by
    simp only [Caches.wf, Bool.and_eq_true] at h ⊢; simp only [h, sparseSet_wf, and_self]
theorem Kept.setIlru (s : State) (set : Nat) (b : Bool) : Kept s (s.setIlru set b) :=
  Kept.setCaches _ _ fun h => by
    simp only [Caches.wf, Bool.and_eq_true] at h ⊢; simp only [h, sparseSet_wf, and_self]
theorem Kept.setDtag (s : State) (set : Nat) (w : Bool) (t : DTag) : Kept s (s.setDtag set w t) :=
  Kept.setCaches _ _ fun h => by
    simp only [Caches.wf, Bool.and_eq_true] at h ⊢; simp only [h, sparseSet_wf, and_self]
theorem Kept.setDword (s : State) (set : Nat) (w : Bool) (k : Nat) (x : DWordCell) : Kept s (s.setDword set w k x) :=
  Kept.setCaches _ _ fun h => by
    simp only [Caches.wf, Bool.and_eq_true] at h ⊢; simp only [h, sparseSet_wf, and_self]
theorem Kept.setDlru (s : State) (set : Nat) (b : Bool) : Kept s (s.setDlru set b) :=
  Kept.setCaches _ _ fun h => by
    simp only [Caches.wf, Bool.and_eq_true] at h ⊢; simp only [h, sparseSet_wf, and_self]
theorem Kept.setStag (s : State) (set : Nat) (w : Bool) (t : STag) : Kept s (s.setStag set w t) :=
  Kept.setCaches _ _ fun h => by
    simp only [Caches.wf, Bool.and_eq_true] at h ⊢; simp only [h, sparseSet_wf, and_self]
theorem Kept.setSquad (s : State) (set : Nat) (w : Bool) (k : Nat) (x : SQuad) : Kept s (s.setSquad set w k x) :=
  Kept.setCaches _ _ fun h => by
    simp only [Caches.wf, Bool.and_eq_true] at h ⊢; simp only [h, sparseSet_wf, and_self]
theorem Kept.setMru (s : State) (i : Nat) (b : Bool) : Kept s (s.setMru i b) :=
  Kept.setCaches _ _ fun h => by
    simp only [Caches.wf, Bool.and_eq_true] at h ⊢; simp only [h, sparseSet_wf, and_self]

/-! ## The System interface -/

theorem Kept.takeReply (isRead wait : Bool) (s : State) : Kept s (takeReply isRead wait s).2 := ext s _

theorem Kept.pend (s : State) (r : BusReq) : Kept s (s.pend r) := ext s _

theorem Kept.issue (s : State) (r : BusReq) : Kept s (s.issue r) := (physWrite s _ _).trans (emit _ _)

theorem Kept.issueAll (l : List BusReq) (s : State) : Kept s (issueAll l s) := by
  induction l generalizing s with
  | nil => exact refl s
  | cons r l ih => exact (issue s r).trans (ih _)

theorem Kept.issueGathered (s : State) : Kept s (issueGathered s) := Kept.ite (refl s) ((ext s _).trans (issueAll _ _))

theorem Kept.advanceFifo (l : List UncachedStore) (s : State) : Kept s (advanceFifo l s) := by
  induction l generalizing s with
  | nil => exact issueGathered s
  | cons u l ih => exact (issueGathered s).trans (Kept.ite ((ext _ _).trans (ih _)) (ext _ _))

theorem Kept.drainOutgoing (s : State) : Kept s (drainOutgoing s) := Kept.ite (refl s) ((ext s _).trans (issueAll _ _))

theorem Kept.drain (s : State) : Kept s (drain s) := ((drainOutgoing s).trans (ext _ _)).trans (advanceFifo _ _)

theorem Kept.bufferStore (u : UncachedStore) (s : State) : Kept s (bufferStore u s) := (ext s _).trans (drain _)

theorem Kept.flushGather (s : State) : Kept s (flushGather s) :=
  (drain s).trans (Kept.ite ((ext _ _).trans (drain _)) (refl _))

/-! ## Cache arrays -/

theorem Kept.postError (e : UnitError) (s : State) : Kept s (postError e s) := Kept.ite (refl s) (ext s _)

theorem Kept.reportError (e : UnitError) (s : State) : Kept s (reportError e s) :=
  Kept.ite ((postError e s).trans (emit _ _)) (postError e s)

theorem Kept.postRespError (s : State) : Kept s (postRespError s) := reportError _ s

theorem Kept.repeat {f : State → State} (hf : ∀ s, Kept s (f s)) (n : Nat) (s : State) : Kept s (Nat.repeat f n s) := by
  induction n with
  | zero => exact refl s
  | succ n ih => exact ih.trans (hf _)

theorem Kept.reportCycles (r : Reply) (s : State) : Kept s (reportCycles r s) :=
  (Kept.repeat (fun s => reportError _ s) _ s).trans (Kept.repeat (fun s => emit s _) _ _)

theorem Kept.receive (isRead wait : Bool) (s : State) : Kept s (receive isRead wait s).2 :=
  (takeReply isRead wait s).trans (reportCycles _ _)

theorem Kept.readSTag (pa : PAddr) (set : Nat) (w : Bool) (s : State) : Kept s (readSTag pa set w s).2 := by
  unfold Machine.readSTag
  dsimp only
  split
  · exact refl s
  · exact emit s _
  · exact reportError _ s

theorem Kept.captureSyndrome (q : SQuad) (s : State) : Kept s (captureSyndrome q s) := by
  unfold Machine.captureSyndrome; split <;> exact ⟨rfl, id⟩

theorem Kept.readQuad (pa : PAddr) (set : Nat) (w : Bool) (k : Nat) (s : State) : Kept s (readQuad pa set w k s).2 := by
  unfold Machine.readQuad
  dsimp only
  split
  · exact refl s
  · dsimp only
    exact ((captureSyndrome _ s).trans (emit _ _)).trans (count _ _)
  · dsimp only
    exact (captureSyndrome _ s).trans (reportError _ _)

theorem Kept.readQuads (pa : PAddr) (set : Nat) (w : Bool) (k n : Nat) (s : State) :
    Kept s (readQuads pa set w k n s).2 := by
  induction n generalizing k s with
  | zero => exact refl s
  | succ n ih => exact (readQuad pa set w k s).trans (ih _ _)

theorem Kept.writeQuads (set : Nat) (w : Bool) (k : Nat) (l : List (BitVec 128 × Bool)) (s : State) :
    Kept s (writeQuads set w k l s) := by
  induction l generalizing k s with
  | nil => exact refl s
  | cons q l ih => exact (setSquad s _ _ _ _).trans (ih _ _)

theorem Kept.fillLine (set : Nat) (w : Bool) (k : Nat) (l : List Word) (s : State) :
    Kept s (fillLine set w k l s) := by
  induction l generalizing k s with
  | nil => exact refl s
  | cons x l ih => exact (setDword s _ _ _ _).trans (ih _ _)

theorem Kept.fillI (set : Nat) (w : Bool) (k : Nat) (l : List Word) (s : State) : Kept s (fillI set w k l s) := by
  induction l generalizing k s with
  | nil => exact refl s
  | cons x l ih => exact (setIword s _ _ _ _).trans (ih _ _)

theorem Kept.dWriteBytes (set : Nat) (w : Bool) (off : Nat) (l : List Byte) (s : State) :
    Kept s (dWriteBytes set w off l s) := by
  induction l generalizing off s with
  | nil => exact refl s
  | cons b l ih => exact (setDword s _ _ _ _).trans (ih _ _)

theorem Kept.writeBackD (set : Nat) (w : Bool) (s : State) : Kept s (writeBackD set w s) := by
  unfold Machine.writeBackD
  dsimp only
  split
  · refine Kept.trans ?_ (count _ _)
    refine Kept.trans ?_ (setDtag _ _ _ _)
    refine Kept.trans ?_ (writeQuads _ _ _ _ _)
    split
    · exact reportError _ s
    · exact refl s
  · exact refl s

theorem Kept.invalidateD (set : Nat) (w : Bool) (s : State) : Kept s (invalidateD set w s) := setDtag _ _ _ _

theorem Kept.invalidateI (set : Nat) (w : Bool) (s : State) : Kept s (invalidateI set w s) := setItag _ _ _ _

theorem Kept.purgeDWay (wb : Bool) (pa : PAddr) (set : Nat) (w : Bool) (s : State) :
    Kept s (purgeDWay wb pa set w s) := by
  unfold Machine.purgeDWay
  split
  · refine Kept.trans ?_ (invalidateD _ _ _)
    split
    · exact writeBackD _ _ s
    · exact refl s
  · exact refl s

theorem Kept.purgeIWay (pa : PAddr) (set : Nat) (w : Bool) (s : State) : Kept s (purgeIWay pa set w s) := by
  unfold Machine.purgeIWay
  split
  · exact invalidateI _ _ s
  · exact refl s

theorem Kept.purgeDLines (wb : Bool) (v : BitVec 2) (pa : PAddr) (n : Nat) (s : State) :
    Kept s (purgeDLines wb v pa n s) := by
  induction n generalizing pa s with
  | zero => exact refl s
  | succ n ih => exact ((purgeDWay _ _ _ _ s).trans (purgeDWay _ _ _ _ _)).trans (ih _ _)

theorem Kept.purgeILines (v : BitVec 2) (pa : PAddr) (n : Nat) (s : State) : Kept s (purgeILines v pa n s) := by
  induction n generalizing pa s with
  | zero => exact refl s
  | succ n ih => exact ((purgeIWay _ _ _ s).trans (purgeIWay _ _ _ _)).trans (ih _ _)

theorem Kept.purgePrimary (wb : Bool) (v : BitVec 2) (pa : PAddr) (s : State) : Kept s (purgePrimary wb v pa s) :=
  (purgeDLines _ _ _ _ s).trans (purgeILines _ _ _ _)

theorem Kept.flushPrimary (v : BitVec 2) (pa : PAddr) (n : Nat) (s : State) : Kept s (flushPrimary v pa n s) := by
  induction n generalizing pa s with
  | zero => exact refl s
  | succ n ih =>
    exact ((Kept.ite (writeBackD _ _ s) (refl s)).trans (Kept.ite (writeBackD _ _ _) (refl _))).trans (ih _ _)

theorem Kept.syncPrimary (st v : BitVec 2) (pa : PAddr) (n : Nat) (s : State) : Kept s (syncPrimary st v pa n s) := by
  induction n generalizing pa s with
  | zero => exact refl s
  | succ n ih =>
    exact ((Kept.ite (setDtag s _ _ _) (refl s)).trans (Kept.ite (setDtag _ _ _ _) (refl _))).trans (ih _ _)

theorem Kept.setBlockState (st : BitVec 2) (set : Nat) (w : Bool) (s : State) : Kept s (setBlockState st set w s) :=
  (setStag s _ _ _).trans (syncPrimary _ _ _ _ _)

theorem Kept.writeBackS (set : Nat) (w : Bool) (s : State) : Kept s (writeBackS set w s) := by
  unfold Machine.writeBackS
  dsimp only
  exact ((readQuads _ _ _ _ _ s).trans (pend _ _)).trans (count _ _)

theorem Kept.evictSecondary (wb : Bool) (set : Nat) (w : Bool) (s : State) : Kept s (evictSecondary wb set w s) := by
  unfold Machine.evictSecondary
  dsimp only
  split
  · exact refl s
  · refine Kept.trans ?_ (setStag _ _ _ _)
    exact (purgePrimary _ _ _ s).trans (Kept.ite (writeBackS _ _ _) (Kept.ite (pend _ _) (refl _)))

/-! ## The secondary cache -/

theorem Kept.lookupSecondary (pa : PAddr) (s : State) : Kept s (lookupSecondary pa s).2 :=
  (readSTag _ _ _ s).trans (readSTag _ _ _ _)

theorem Kept.fillSecondary (r : Reply) (st v : BitVec 2) (pa : PAddr) (set : Nat) (w : Bool) (s : State) :
    Kept s (fillSecondary r st v pa set w s) := by
  unfold Machine.fillSecondary
  dsimp only
  have h := (setStag s set w (STag.of (stagOf pa) v st)).trans (writeQuads set w 0
    (incomingQuads r.bad 0 (quadsOfDwords (blockDwords r pa s))) _)
  split
  · exact h.trans (reportError _ _)
  · exact h

theorem Res.Kept.errGate (bad : Bool) (s : State) : Res.Kept s (errGate bad s) := by
  unfold Machine.errGate; split <;> exact Machine.Kept.refl s

theorem Kept.retire (o : Outstanding) (s : State) : Kept s (retire o s) := ext s _

theorem Kept.reevaluate (o : Outstanding) (s : State) : Kept s (reevaluate o s) :=
  Kept.ite (refl s) (Kept.ite (sctp s _) (sctp s _))

theorem Kept.vacate (pa : PAddr) (set : Nat) (w : Bool) (s : State) : Kept s (vacate pa set w s) :=
  Kept.ite (purgePrimary _ _ _ s) (evictSecondary _ _ _ s)

theorem Kept.acceptData (o : Outstanding) (r : Reply) (s : State) : Kept s (acceptData o r s).2 :=
  ((vacate o.pa (sSet s.hw o.pa) o.way s).trans (fillSecondary _ _ _ _ _ _ _)).trans (count _ _)

theorem Kept.acceptUpgrade (o : Outstanding) (s : State) : Kept s (acceptUpgrade o s).2 := by
  unfold Machine.acceptUpgrade
  dsimp only
  split
  · exact setBlockState _ _ _ s
  · exact reevaluate _ s

theorem Kept.buffer (o : Outstanding) (r : Reply) (s : State) : Kept s (buffer o r s) := Kept.ite (ext s _) (refl s)

theorem Kept.forward (o : Outstanding) (s : State) : Kept s (forward o s) := Kept.ite (ext s _) (refl s)

theorem Kept.use (a : CReq) (s : State) : Kept s (use a s) := Kept.ite (refl s) (ext s _)

/-- A response, whatever it is, is work of the memory system. -/
theorem Kept.answer (o : Outstanding) (r : Reply) (s : State) : Kept s (answer o r s).2 := by
  unfold Machine.answer
  split
  · split
    · exact retire _ s
    · split
      · exact (retire o s).trans (acceptData _ _ _)
      · split
        · exact (retire o s).trans (acceptData _ _ _)
        · split
          · exact (retire o s).trans (reevaluate _ _)
          · exact (retire o s).trans (acceptUpgrade _ _)
  · exact (retire o s).trans (reevaluate _ _)
  · exact retire _ s
  · exact (postRespError s).trans (buffer _ _ _)
  · exact buffer _ _ s
  · exact buffer _ _ s

theorem Kept.settle (o : Outstanding) (s : State) : Kept s (settle o s).2 :=
  (receive (o.isRead && o.buffered.isNone) false s).trans (answer o _ _)

theorem Res.Kept.makeRoom (quiet : Bool) (s : State) : Res.Kept s (makeRoom quiet s) := by
  unfold Machine.makeRoom
  split
  · exact Machine.Kept.refl s
  · split
    · exact Machine.Kept.refl s
    · split
      · exact Machine.Kept.refl s
      · next o _ _ =>
        split
        · exact Machine.Kept.refl s
        · have h := Machine.Kept.settle o s
          split
          · next t e =>
            rw [e] at h
            split <;> exact h
          · next b t e =>
            rw [e] at h
            exact h.trans (Machine.Kept.forward o t)
          · next c t _ _ e =>
            rw [e] at h
            exact h

theorem Kept.request (r : BusReq) (o : Outstanding) (s : State) : Kept s (request r o s) := (emit s r).trans (ext _ _)

theorem Res.Kept.giveUp (a : CReq) (s : State) : Res.Kept s (giveUp a s) := by
  unfold Machine.giveUp; split <;> exact Machine.Kept.refl s

theorem Res.Kept.failed (a : CReq) (o : Outstanding) (s : State) : Res.Kept s (failed a o s) := by
  unfold Machine.failed
  split
  · exact Machine.Kept.refl s
  · exact giveUp a s

theorem Res.Kept.afterReply {a : CReq} {o : Outstanding} {s : State} {x : Settled × State} {k : Bool → State → Res (Option SWay)}
    (h : Machine.Kept s x.2) (hk : ∀ b t, Res.Kept t (k b t)) : Res.Kept s (afterReply a o x k) := by
  unfold Machine.afterReply
  split
  · exact Res.Kept.mono h (Res.Kept.bind (errGate _ _) fun _ t => hk _ t)
  · exact Res.Kept.mono h (giveUp _ _)
  · exact Res.Kept.mono h (failed _ _ _)
  · exact Res.Kept.mono h (giveUp _ _)

theorem Kept.claim (a : CReq) (set : Nat) (w : Bool) (s : State) : Kept s (claim a set w s) :=
  Kept.ite (setBlockState _ _ _ s) (refl s)

theorem Res.Kept.ownSecondary (counted : Bool) (a : CReq) (set : Nat) (x : SWay) (s : State) :
    Res.Kept s (ownSecondary counted a set x s) := by
  unfold Machine.ownSecondary
  dsimp only
  split
  · refine Res.Kept.bind (makeRoom _ s) fun room t => ?_
    split
    · exact giveUp _ _
    · exact afterReply (((Machine.Kept.count t _).trans (Machine.Kept.request _ _ _)).trans (Machine.Kept.settle _ _))
        fun _ t => Machine.Kept.claim _ _ _ t
  · exact (Machine.Kept.count s _).trans (Machine.Kept.claim _ _ _ _)
  · exact Machine.Kept.refl s

theorem Res.Kept.ownIfNeeded (counted : Bool) (a : CReq) (set : Nat) (x : SWay) (s : State) :
    Res.Kept s (ownIfNeeded counted a set x s) := by
  unfold Machine.ownIfNeeded
  split
  · exact ownSecondary _ _ _ _ s
  · exact Machine.Kept.refl s

theorem Kept.reindexSecondary (a : CReq) (set : Nat) (w : Bool) (s : State) : Kept s (reindexSecondary a set w s) := by
  unfold Machine.reindexSecondary
  dsimp only
  split
  · exact refl s
  · exact (purgePrimary _ _ _ s).trans (setStag _ _ _ _)

theorem Res.Kept.hitSecondary (a : CReq) (set : Nat) (w : Bool) (s : State) : Res.Kept s (hitSecondary a set w s) :=
  Res.Kept.mono ((((Machine.Kept.count s _).trans (Machine.Kept.use a _)).trans (Machine.Kept.setMru _ _ _)).trans
    (Machine.Kept.reindexSecondary _ _ _ _)) (ownIfNeeded _ _ _ _ _)

theorem Kept.victimSecondary (pa : PAddr) (set : Nat) (s : State) : Kept s (victimSecondary pa set s).2 := by
  unfold Machine.victimSecondary
  dsimp only
  split
  · exact refl s
  · exact setMru s _ _

theorem Kept.noteMiss (a : CReq) (s : State) : Kept s (noteMiss a s) := by
  unfold Machine.noteMiss
  split
  · exact count s _
  · exact Kept.ite (count s _) ((count s _).trans (sctp _ _))

theorem Res.Kept.missSecondary (a : CReq) (set : Nat) (s : State) : Res.Kept s (missSecondary a set s) := by
  unfold Machine.missSecondary
  refine Res.Kept.bind (makeRoom _ s) fun room t => ?_
  dsimp only
  refine Res.Kept.mono (t := if (evictionPending a.pa t || outgoingFull t) = true then drain t else t)
    (Machine.Kept.ite (Machine.Kept.drain t) (Machine.Kept.refl t)) ?_
  generalize (if (evictionPending a.pa t || outgoingFull t) = true then drain t else t) = u
  split
  · exact giveUp _ _
  · refine afterReply ?_ fun _ t => ownIfNeeded _ _ _ _ t
    exact ((((Machine.Kept.noteMiss a _).trans (Machine.Kept.victimSecondary a.pa set _)).trans
      (Machine.Kept.request _ _ _)).trans (Machine.Kept.evictSecondary _ _ _ _)).trans (Machine.Kept.settle _ _)

theorem Res.Kept.joinRequest (a : CReq) (o : Outstanding) (s : State) : Res.Kept s (joinRequest a o s) := by
  unfold Machine.joinRequest
  split
  · exact giveUp _ s
  · exact afterReply (Machine.Kept.settle _ s) fun _ t =>
      Res.Kept.mono (Machine.Kept.reindexSecondary _ _ _ t) (ownIfNeeded _ _ _ _ _)

theorem Res.Kept.secondaryAccess (a : CReq) (s : State) : Res.Kept s (secondaryAccess a s) := by
  unfold Machine.secondaryAccess
  split
  · exact joinRequest _ _ s
  · refine Res.Kept.mono (Machine.Kept.lookupSecondary a.pa s) (Res.Kept.bind (errGate _ _) fun _ t => ?_)
    split
    · exact hitSecondary _ _ _ _
    · exact missSecondary _ _ _

theorem Kept.refillQuads (x : SWay) (pa : PAddr) (set k n : Nat) (s : State) :
    Kept s (refillQuads x pa set k n s).2 := by
  unfold Machine.refillQuads
  split
  · exact refl s
  · exact readQuads _ _ _ _ _ s

/-! ## The data cache -/

theorem Kept.checkDSet (set : Nat) (pidx : BitVec 11) (s : State) : Kept s (checkDSet set pidx s).2 := by
  unfold Machine.checkDSet
  dsimp only
  split
  · exact reportError _ s
  · exact refl s

theorem Kept.checkDTags (va : DWord) (s : State) : Kept s (checkDTags va s).2 := checkDSet _ _ s

theorem Kept.victimPrimary (v0 v1 lru : Bool) (s : State) : Kept s (victimPrimary v0 v1 lru s).2 := by
  unfold Machine.victimPrimary; split <;> exact ⟨rfl, id⟩

theorem Kept.recordMiss (a : CReq) (missed : Bool) (s : State) : Kept s (recordMiss a missed s) :=
  Kept.ite (missAddr s _) (refl s)

theorem Res.Kept.refillD (a : CReq) (x : SWay) (s : State) : Res.Kept s (refillD a x s) := by
  unfold Machine.refillD
  dsimp only
  refine Res.Kept.mono (((Machine.Kept.victimPrimary _ _ _ s).trans (Machine.Kept.writeBackD _ _ _)).trans
    (Machine.Kept.refillQuads _ _ _ _ _ _)) (Res.Kept.bind (errGate _ _) fun _ t => ?_)
  exact ((Machine.Kept.fillLine _ _ _ _ t).trans (Machine.Kept.setDtag _ _ _ _)).trans (Machine.Kept.recordMiss _ _ _)

theorem Kept.enterSctp (a : CReq) (f : CacheEvents → CacheEvents) (s : State) : Kept s (enterSctp a f s) :=
  Kept.ite (count s f) (Kept.ite (Kept.ite (refl s) ((count s f).trans (sctp _ _)))
    (Kept.ite (refl s) ((count s f).trans (sctp _ _))))

theorem Res.Kept.dMiss (a : CReq) (s : State) : Res.Kept s (dMiss a s) := by
  unfold Machine.dMiss
  refine Res.Kept.bind (Res.Kept.mono (Machine.Kept.enterSctp a _ s) (secondaryAccess a _)) fun sw t => ?_
  refine Res.Kept.mono (Machine.Kept.count t fun e => { e with
    prefFills := e.prefFills + (sw.isSome || e.scMissD != s.events.scMissD).toNat }) ?_
  split
  · exact Machine.Kept.refl _
  · refine Res.Kept.bind (refillD _ _ _) fun w u => ?_
    split
    · exact Machine.Kept.setDlru _ _ _
    · exact Machine.Kept.refl u

theorem Res.Kept.dAccess (a : CReq) (s : State) : Res.Kept s (dAccess a s) := by
  unfold Machine.dAccess
  dsimp only
  refine Res.Kept.mono (Machine.Kept.checkDTags a.va s) (Res.Kept.bind (errGate _ _) fun _ t => ?_)
  split
  · exact Machine.Kept.hang t
  · split
    · next w _ =>
      have h := Machine.Kept.setDlru t (dSet a.va) (!w)
      split
      · refine Res.Kept.bind (Res.Kept.mono (h.trans (Machine.Kept.enterSctp a _ _)) (secondaryAccess a _)) fun sw u => ?_
        split
        · exact Machine.Kept.refl u
        · split
          · exact Machine.Kept.refl u
          · exact refillD _ _ u
      · exact h
    · exact dMiss _ t

theorem Res.Kept.cachedRead (a : CReq) (n : Nat) (s : State) : Res.Kept s (cachedRead a n s) := by
  unfold Machine.cachedRead
  refine Res.Kept.bind (dAccess a s) fun w t => ?_
  split
  · exact Machine.Kept.refl t
  · dsimp only
    refine Res.Kept.mono (t := if dBytesBad t (dSet a.va) _ (a.pa.toNat % 32) n = true then _ else t) ?_
      (Res.Kept.bind (errGate _ _) fun _ u => Machine.Kept.refl u)
    split
    · exact Machine.Kept.reportError _ _
    · exact Machine.Kept.refl _

theorem Res.Kept.cachedWrite (a : CReq) (bs : List Byte) (s : State) : Res.Kept s (cachedWrite a bs s) := by
  unfold Machine.cachedWrite
  refine Res.Kept.bind (dAccess a s) fun w t => ?_
  split
  · exact Machine.Kept.refl t
  · exact (Machine.Kept.setDtag _ _ _ _).trans (Machine.Kept.dWriteBytes _ _ _ _ _)

/-! ## The instruction cache -/

theorem Kept.checkITags (va : DWord) (s : State) : Kept s (checkITags va s).2 := by
  unfold Machine.checkITags
  dsimp only
  split
  · exact reportError _ s
  · exact refl s

theorem Res.Kept.refillI (a : CReq) (x : SWay) (s : State) : Res.Kept s (refillI a x s) := by
  unfold Machine.refillI
  dsimp only
  refine Res.Kept.mono ((Machine.Kept.victimPrimary _ _ _ s).trans (Machine.Kept.refillQuads _ _ _ _ _ _))
    (Res.Kept.bind (errGate _ _) fun _ t => ?_)
  exact (Machine.Kept.fillI _ _ _ _ t).trans (Machine.Kept.setItag _ _ _ _)

theorem Res.Kept.readI (a : CReq) (w : Bool) (s : State) : Res.Kept s (readI a w s) := by
  unfold Machine.readI
  dsimp only
  refine Res.Kept.bind (Res.Kept.mono ?_ (errGate _ _)) fun _ t => Machine.Kept.refl t
  split
  · exact (Machine.Kept.reportError _ s).trans (Machine.Kept.setIlru _ _ _)
  · exact Machine.Kept.setIlru s _ _

theorem Res.Kept.cachedFetch (a : CReq) (s : State) : Res.Kept s (cachedFetch a s) := by
  unfold Machine.cachedFetch
  dsimp only
  refine Res.Kept.mono (Machine.Kept.checkITags a.va s) (Res.Kept.bind (errGate _ _) fun _ t => ?_)
  split
  · exact readI _ _ t
  · refine Res.Kept.mono (Machine.Kept.enterSctp a _ t) (Res.Kept.bind (secondaryAccess a _) fun sw u => ?_)
    split
    · exact Machine.Kept.refl u
    · exact Res.Kept.bind (refillI _ _ u) fun w v => readI _ _ v

end Sys2Proof.Machine
end

