-- ==== Sys2Proof/Laws/Access.lean ====
section
/-! SUPPORT. What the access pipeline can do: translation changes nothing, an access changes what the memory system may
change and the LL/SC link, and nothing else. -/

namespace Sys2Proof.Machine

/-! ## Every state a piece can leave -/

/-- Every state that a piece of an instruction can leave satisfies `P`. -/
def Res.Holds {α : Type} (P : State → Prop) : Res α → Prop
  | .ok _ t => P t
  | .exc _ t => P t
  | .retry t => P t
  | .fault _ => True
  | .refuse _ => True

theorem Res.Holds.imp {α : Type} {P Q : State → Prop} {x : Res α} (h : Res.Holds P x) (k : ∀ t, P t → Q t) :
    Res.Holds Q x := by
  cases x <;> first | exact k _ h | trivial

theorem Res.Holds.bind {α β : Type} {P Q : State → Prop} {x : Res α} {f : α → State → Res β} (h : Res.Holds P x)
    (kq : ∀ t, P t → Q t) (k : ∀ a t, P t → Res.Holds Q (f a t)) : Res.Holds Q (x.bind f) := by
  cases x <;> first | exact k _ _ h | exact kq _ h | trivial

theorem Res.Kept.holds {α : Type} {s : State} {x : Res α} (h : Res.Kept s x) : Res.Holds (Machine.Kept s) x := by
  cases x <;> exact h

/-! ## Translation -/

/-- Translation leaves the state as it is. -/
theorem tlbTranslate_holds (s : State) (va : DWord) (k : AccessKind) : Res.Holds (· = s) (tlbTranslate s va k) := by
  unfold tlbTranslate
  split
  · exact rfl
  · split
    · trivial
    · dsimp only
      generalize (if va.getLsbD _ = true then (s.tlbAt _).odd else (s.tlbAt _).even) = p
      split
      · exact rfl
      · split <;> exact rfl
  · trivial

/-- Translation leaves the state as it is. -/
theorem translate_holds (s : State) (va : DWord) (k : AccessKind) : Res.Holds (· = s) (translate s va k) := by
  unfold translate
  dsimp only
  split
  · exact rfl
  · exact rfl
  · exact tlbTranslate_holds s _ k

/-- The checks before an access leave the state as it is. -/
theorem dataTranslate_holds (va : DWord) (n : Nat) (k : AccessKind) (s : State) :
    Res.Holds (· = s) (dataTranslate va n k s) := by
  unfold dataTranslate
  split
  · exact rfl
  · exact translate_holds s va k

theorem Res.Holds.kept {α : Type} {s : State} {x : Res α} (h : Res.Holds (· = s) x) : Res.Kept s x := by
  cases x <;> first | (subst h; exact Machine.Kept.refl _) | trivial

/-! ## The access -/

theorem Kept.latchWatch (hit : Bool) (s : State) : Kept s (latchWatch hit s) := by
  unfold Machine.latchWatch; split <;> exact ⟨rfl, id⟩

theorem Res.Kept.watchCached {α : Type} (a : CReq) (s : State) : Res.Kept s (watchCached (α := α) a s) := by
  unfold Machine.watchCached
  split
  · exact Machine.Kept.refl s
  · have h := Res.Kept.dAccess a s
    split <;> next heq => rw [heq] at h; exact h

theorem Res.Kept.uncachedRead (quiet : Bool) (k : AccessKind) (c : BitVec 2) (pa : PAddr) (n : Nat) (uc : BitVec 2)
    (s : State) : Res.Kept s (uncachedRead quiet k c pa n uc s) := by
  unfold Machine.uncachedRead
  refine Res.Kept.bind (Res.Kept.mono (Machine.Kept.drain s) (makeRoom _ _)) fun room t => ?_
  dsimp only
  split
  · exact Machine.Kept.refl t
  · have k := (Machine.Kept.emit t (.dspRead t.nextNumber pa n uc c)).trans (Machine.Kept.receive true true _)
    split
    · split <;> exact k
    · exact k
    · exact (k.trans (Machine.Kept.postRespError _)).trans (Machine.Kept.hang _)
    · exact k
    · exact k
    · exact k

theorem Res.Kept.uncachedWrite (ca : BitVec 3) (whole : Bool) (pa : PAddr) (bs : List Byte) (uc : BitVec 2) (s : State) :
    Res.Kept s (uncachedWrite ca whole pa bs uc s) := by
  unfold Machine.uncachedWrite
  split
  · exact Machine.Kept.drain s
  · split
    · trivial
    · exact (Machine.Kept.drain s).trans (Machine.Kept.bufferStore _ _)

theorem Res.Kept.readAt (c : BitVec 2) (x : Xlate) (pa : PAddr) (n : Nat) (s : State) :
    Res.Kept s (readAt c x pa n s) := by
  unfold Machine.readAt
  dsimp only
  split
  · split
    · exact watchCached _ s
    · exact Res.Kept.bind (cachedRead _ _ s) fun _ t => Machine.Kept.latchWatch _ t
  · split
    · split
      · exact Machine.Kept.refl s
      · exact Res.Kept.bind (Res.Kept.mono (Machine.Kept.flushGather s) (uncachedRead _ _ _ _ _ _ _))
          fun _ t => Machine.Kept.latchWatch _ t
    · trivial

theorem Res.Kept.writeAt (c : BitVec 2) (whole : Bool) (x : Xlate) (pa : PAddr) (bs : List Byte) (s : State) :
    Res.Kept s (writeAt c whole x pa bs s) := by
  unfold Machine.writeAt
  dsimp only
  split
  · split
    · exact watchCached _ s
    · exact Res.Kept.bind (cachedWrite _ _ s) fun _ t => Machine.Kept.latchWatch _ t
  · split
    · split
      · exact Machine.Kept.refl s
      · exact Res.Kept.bind (uncachedWrite _ _ _ _ _ s) fun _ t => Machine.Kept.latchWatch _ t
    · trivial

theorem Res.Kept.fetchWord (s : State) : Res.Kept s (fetchWord s) := by
  unfold Machine.fetchWord
  split
  · exact Machine.Kept.refl s
  · refine Res.Kept.bind (translate_holds s s.pc .fetch).kept fun x t => ?_
    split
    · exact cachedFetch _ t
    · split
      · exact Res.Kept.bind (uncachedRead _ _ _ _ _ _ t) fun _ u => Machine.Kept.refl u
      · trivial

/-! ## Accesses with the link -/

/-- `t` comes from `s` by work of the memory system and changes of the LL/SC link. -/
structure KeptLink (s t : State) : Prop where
  stable : { t.stable with llbit := false, llblock := 0#40 } = { s.stable with llbit := false, llblock := 0#40 }
  canon  : s.canonical = true → t.canonical = true

theorem KeptLink.refl (s : State) : KeptLink s s := ⟨rfl, id⟩

theorem KeptLink.trans {s t u : State} (h : KeptLink s t) (k : KeptLink t u) : KeptLink s u :=
  ⟨k.stable.trans h.stable, k.canon ∘ h.canon⟩

theorem Kept.link {s t : State} (h : Kept s t) : KeptLink s t :=
  ⟨congrArg (fun u : State => { u with llbit := false, llblock := 0#40 }) h.stable, h.canon⟩

theorem KeptLink.breakLl (s : State) : KeptLink s (breakLl s) := ⟨rfl, id⟩

namespace KeptLink

variable {s t : State} (h : KeptLink s t)
include h

theorem gpr : t.gpr = s.gpr := (congrArg State.gpr h.stable :)
theorem hi : t.hi = s.hi := (congrArg State.hi h.stable :)
theorem lo : t.lo = s.lo := (congrArg State.lo h.stable :)
theorem pc : t.pc = s.pc := (congrArg State.pc h.stable :)
theorem delaySlot : t.delaySlot = s.delaySlot := (congrArg State.delaySlot h.stable :)
theorem fpu : t.fpu = s.fpu := (congrArg State.fpu h.stable :)
theorem tlb : t.tlb = s.tlb := (congrArg State.tlb h.stable :)
theorem hw : t.hw = s.hw := (congrArg State.hw h.stable :)
theorem steps : t.steps = s.steps := (congrArg State.steps h.stable :)
theorem note : t.note = s.note := (congrArg State.note h.stable :)
theorem cp0 : t.cp0.stable = s.cp0.stable := (congrArg State.cp0 h.stable :)
theorem status : t.cp0.status = s.cp0.status := (congrArg Cp0.status h.cp0 :)

end KeptLink

theorem memRead_holds (va : DWord) (n : Nat) (s : State) : Res.Holds (KeptLink s) (memRead va n s) := by
  unfold memRead
  refine Res.Holds.bind (dataTranslate_holds va n .load s) (fun t h => h ▸ KeptLink.refl s) fun x t h => ?_
  subst h
  exact Res.Holds.bind (Res.Kept.readAt _ _ _ _ _).holds (fun u k => k.link)
    fun bs u k => k.link.trans (KeptLink.breakLl u)

theorem memWrite_holds (va : DWord) (n : Nat) (v : DWord) (s : State) :
    Res.Holds (KeptLink s) (memWrite va n v s) := by
  unfold memWrite
  refine Res.Holds.bind (dataTranslate_holds va n .store s) (fun t h => h ▸ KeptLink.refl s) fun x t h => ?_
  subst h
  exact Res.Holds.bind (Res.Kept.writeAt _ _ _ _ _ _).holds (fun u k => k.link)
    fun _ u k => k.link.trans (KeptLink.breakLl u)

theorem linkedRead_holds (va : DWord) (n : Nat) (s : State) : Res.Holds (KeptLink s) (linkedRead va n s) := by
  unfold linkedRead
  refine Res.Holds.bind (dataTranslate_holds va n .load s) (fun t h => h ▸ KeptLink.refl s) fun x t h => ?_
  subst h
  exact Res.Holds.bind (Res.Kept.readAt _ _ _ _ _).holds (fun u k => k.link)
    fun bs u k => k.link.trans ⟨rfl, id⟩

theorem conditionalWrite_holds (va : DWord) (n : Nat) (v : DWord) (s : State) :
    Res.Holds (KeptLink s) (conditionalWrite va n v s) := by
  unfold conditionalWrite
  refine Res.Holds.bind (dataTranslate_holds va n .store s) (fun t h => h ▸ KeptLink.refl s) fun x t h => ?_
  subst h
  split
  · exact Res.Holds.bind (Res.Kept.writeAt _ _ _ _ _ _).holds (fun u k => k.link)
      fun _ u k => k.link.trans (KeptLink.breakLl u)
  · split
    · split
      · exact (Res.Kept.watchCached _ _).holds.imp fun u k => k.link
      · exact KeptLink.refl _
    · exact (Kept.latchWatch _ _).link.trans (KeptLink.breakLl _)

theorem unalignedRead_holds (left : Bool) (n : Nat) (va : DWord) (s : State) :
    Res.Holds (KeptLink s) (unalignedRead left n va s) := by
  unfold unalignedRead
  refine Res.Holds.bind (translate_holds s va .load) (fun t h => h ▸ KeptLink.refl s) fun x t h => ?_
  subst h
  exact Res.Holds.bind (Res.Kept.readAt _ _ _ _ _).holds (fun u k => k.link)
    fun bs u k => k.link.trans (KeptLink.breakLl u)

theorem unalignedWrite_holds (left : Bool) (n : Nat) (v va : DWord) (s : State) :
    Res.Holds (KeptLink s) (unalignedWrite left n v va s) := by
  unfold unalignedWrite
  refine Res.Holds.bind (translate_holds s va .store) (fun t h => h ▸ KeptLink.refl s) fun x t h => ?_
  subst h
  exact Res.Holds.bind (Res.Kept.writeAt _ _ _ _ _ _).holds (fun u k => k.link)
    fun _ u k => k.link.trans (KeptLink.breakLl u)

theorem prefetch_kept (hint : BitVec 5) (va : DWord) (s : State) : KeptLink s (prefetch hint va s) := by
  unfold prefetch
  refine KeptLink.trans ?_ (KeptLink.breakLl _)
  split
  · split
    · next x t _ _ _ =>
      have h := Res.Kept.mono (Kept.count s fun e => { e with prefTags := e.prefTags + 1 })
        (Res.Kept.dAccess { dataReq x x.pa .load 3#2 with excl := ‹Bool›, pref := true } _)
      split <;> first | exact KeptLink.refl s | (next heq => rw [heq] at h; exact h.link)
    · exact KeptLink.refl s
  · exact KeptLink.refl s

end Sys2Proof.Machine
end

