-- ==== Sys2Proof/Laws/Outcome.lean ====
section
/-! SUPPORT. The ends of an instruction: what each shape of meaning answers and what it leaves alone, in the terms of
Safety.lean.  A proof about one instruction names the shape it has and cites the lemma. -/

namespace Sys2Proof.Machine

/-! ## Sequencing -/

@[simp] theorem Res.bind_ok {α β : Type} (a : α) (s : State) (f : α → State → Res β) : (Res.ok a s).bind f = f a s := rfl
@[simp] theorem Res.bind_exc {α β : Type} (e : Exc) (s : State) (f : α → State → Res β) :
    (Res.exc e s : Res α).bind f = .exc e s := rfl
@[simp] theorem Res.bind_retry {α β : Type} (s : State) (f : α → State → Res β) :
    (Res.retry s : Res α).bind f = .retry s := rfl
@[simp] theorem Res.bind_fault {α β : Type} (r : Fault) (f : α → State → Res β) :
    (Res.fault r : Res α).bind f = .fault r := rfl
@[simp] theorem Res.bind_refuse {α β : Type} (r : Refusal) (f : α → State → Res β) :
    (Res.refuse r : Res α).bind f = .refuse r := rfl

@[simp] theorem Res.finish_ok (u : Unit) (s : State) : (Res.ok u s).finish = .next (advance s) := rfl
@[simp] theorem Res.finish_exc (e : Exc) (s : State) : (Res.exc e s : Res Unit).finish = .next (takeException e s) := rfl
@[simp] theorem Res.finish_retry (s : State) : (Res.retry s : Res Unit).finish = .next { s with note := .waiting } := rfl
@[simp] theorem Res.finish_fault (f : Fault) : (Res.fault f : Res Unit).finish = .fault f := rfl
@[simp] theorem Res.finish_refuse (r : Refusal) : (Res.refuse r : Res Unit).finish = .refused r := rfl
@[simp] theorem Res.finishAt_ok (u : Unit) (s : State) : (Res.ok u s).finishAt = .next s := rfl
@[simp] theorem Res.finishAt_exc (e : Exc) (s : State) :
    (Res.exc e s : Res Unit).finishAt = .next (takeException e s) := rfl
@[simp] theorem Res.finishAt_refuse (r : Refusal) : (Res.refuse r : Res Unit).finishAt = .refused r := rfl
@[simp] theorem Res.finishGpr_ok (rd : RegNum) (v : DWord) (s : State) :
    Res.finishGpr rd (.ok v s) = .next (advance (s.rset rd v)) := rfl
@[simp] theorem Res.finishGpr_exc (rd : RegNum) (e : Exc) (s : State) :
    Res.finishGpr rd (.exc e s) = .next (takeException e s) := rfl
@[simp] theorem Res.finishGpr_retry (rd : RegNum) (s : State) :
    Res.finishGpr rd (.retry s) = .next { s with note := .waiting } := rfl
@[simp] theorem Res.finishGpr_refuse (rd : RegNum) (r : Refusal) : Res.finishGpr rd (.refuse r) = .refused r := rfl

/-! ## The gates -/

theorem needMips3_on {s : State} (h : s.mips3 = true) : needMips3 s = .ok () s := if_pos h
theorem needMips3_off {s : State} (h : s.mips3 = false) : needMips3 s = .exc .reservedInstr s :=
  if_neg (by rw [h]; exact Bool.false_ne_true)
theorem needMips4_on {s : State} (h : s.mips4 = true) : needMips4 s = .ok () s := if_pos h
theorem needMips4_off {s : State} (h : s.mips4 = false) : needMips4 s = .exc .reservedInstr s :=
  if_neg (by rw [h]; exact Bool.false_ne_true)
theorem needCp1_on {s : State} (h : s.cp1Usable = true) : needCp1 s = .ok () s := if_pos h
theorem needCp1_off {s : State} (h : s.cp1Usable = false) : needCp1 s = .exc (.copUnusable 1#2) s :=
  if_neg (by rw [h]; exact Bool.false_ne_true)
theorem needCp0_on {s : State} (h : s.cp0Usable = true) : needCp0 s = .ok () s := if_pos h
theorem needCp0_off {s : State} (h : s.cp0Usable = false) : needCp0 s = .exc (.copUnusable 0#2) s :=
  if_neg (by rw [h]; exact Bool.false_ne_true)

/-! ## The register written, and nothing else -/

@[simp] theorem advance_rget (s : State) (r : RegNum) : (advance s).rget r = s.rget r := rfl
@[simp] theorem advance_fraw (s : State) (r : RegNum) : (advance s).fraw r = s.fraw r := rfl

theorem advance_fallsThrough (s : State) : fallsThrough s (advance s) := by
  unfold fallsThrough advance
  cases s.delaySlot <;> exact ⟨rfl, rfl⟩

theorem sameSystem.refl (s : State) : sameSystem s s :=
  ⟨rfl, rfl, rfl, rfl, rfl, rfl, rfl, fun _ => rfl, rfl, rfl, rfl, rfl, rfl, rfl⟩

/-- A write of one general register and an advance: the whole of an instruction with one result. -/
theorem advance_rset_gprBecomes (s : State) (rd : RegNum) (v : DWord) :
    gprBecomes rd v s (advance (s.rset rd v)) := by
  intro r
  rw [advance_rget, State.rget_rset]

theorem advance_rset_sameSystem (s : State) (rd : RegNum) (v : DWord) : sameSystem s (advance (s.rset rd v)) := by
  unfold sameSystem advance State.rset
  split <;> simp

theorem advance_rset_fallsThrough (s : State) (rd : RegNum) (v : DWord) :
    fallsThrough s (advance (s.rset rd v)) := by
  unfold fallsThrough advance State.rset
  split <;> cases s.delaySlot <;> exact ⟨rfl, rfl⟩

theorem advance_rset_hiLoSame (s : State) (rd : RegNum) (v : DWord) : hiLoSame s (advance (s.rset rd v)) := by
  unfold hiLoSame advance State.rset
  split <;> exact ⟨rfl, rfl⟩

/-- A meaning whose one result is `v`. -/
theorem completesGpr_of {i : Instr} {rd : RegNum} {v : DWord} {s : State} (h : exec i s = Res.finishGpr rd (.ok v s)) :
    completesGpr i rd v s :=
  ⟨_, h, advance_rset_gprBecomes s rd v, advance_rset_hiLoSame s rd v, advance_rset_fallsThrough s rd v,
    advance_rset_sameSystem s rd v⟩

/-- A meaning that changes nothing but the pc. -/
theorem completesIdle_of {i : Instr} {s : State} (h : exec i s = (Res.ok () s).finish) : completesIdle i s :=
  ⟨_, h, fun _ => rfl, ⟨rfl, rfl⟩, advance_fallsThrough s, sameSystem.refl s⟩

/-- A meaning that writes HI and LO. -/
theorem completesHiLo_of {i : Instr} {hi lo : DWord} {s : State}
    (h : exec i s = (Res.ok () (s.setHiLo hi lo)).finish) : completesHiLo i hi lo s :=
  ⟨_, h, rfl, rfl, fun _ => rfl, advance_fallsThrough s, sameSystem.refl s⟩

/-- A meaning that only raises. -/
theorem traps_of {i : Instr} {e : Exc} {s : State} (h : exec i s = (Res.exc e s : Res Unit).finish) : traps i e s := h

/-- A meaning that changes only CP0. -/
theorem completesCp0_of {i : Instr} {c : Cp0} {s : State} (h : exec i s = (Res.ok () (s.setCp0 c)).finish) :
    completesCp0 i c s :=
  ⟨_, h, rfl, fun _ => rfl, ⟨rfl, rfl⟩, advance_fallsThrough s, sameSystem.refl s⟩

/-! ## Control transfer -/

@[simp] theorem State.rset_zero (s : State) (v : DWord) : s.rset 0#5 v = s := if_pos rfl

theorem notInSlot_ok {s : State} (h : s.delaySlot = none) : notInSlot s = .ok () s := by
  unfold notInSlot; rw [h]; rfl

theorem notInSlot_refused {s : State} (h : s.delaySlot ≠ none) : notInSlot s = .refuse .branchInDelaySlot := by
  unfold notInSlot
  cases hd : s.delaySlot
  · exact absurd hd h
  · rfl

/-- A meaning that writes the link and lets the delay slot run before `target`. -/
theorem completesBranch_of {i : Instr} {target : DWord} {link : RegNum} {s : State}
    (h : exec i s = .next (toTarget target (s.rset link s.linkValue))) : completesBranch i target link s := by
  refine ⟨_, h, fun r => ?_, ?_, ?_, rfl, ?_⟩
  · show (s.rset link (s.pc + 8#64)).rget r = _
    rw [State.rget_rset]
  · unfold hiLoSame toTarget; simp
  · unfold toTarget; simp
  · unfold sameSystem toTarget; simp

/-- A meaning that writes the link and goes on to the next word. -/
theorem completesUntaken_of {i : Instr} {link : RegNum} {s : State}
    (h : exec i s = .next { s.rset link s.linkValue with pc := s.pc + 4#64, delaySlot := none }) :
    completesUntaken i link s := by
  refine ⟨_, h, fun r => ?_, ?_, rfl, rfl, ?_⟩
  · show (s.rset link (s.pc + 8#64)).rget r = _
    rw [State.rget_rset]
  · unfold hiLoSame; simp
  · unfold sameSystem; simp

/-- A meaning that writes the link and skips the delay slot. -/
theorem completesNullified_of {i : Instr} {link : RegNum} {s : State}
    (h : exec i s = .next { s.rset link s.linkValue with pc := s.pc + 8#64, delaySlot := none }) :
    completesNullified i link s := by
  refine ⟨_, h, fun r => ?_, ?_, rfl, rfl, ?_⟩
  · show (s.rset link (s.pc + 8#64)).rget r = _
    rw [State.rget_rset]
  · unfold hiLoSame; simp
  · unfold sameSystem; simp

/-- The register that a jump or branch links through: 0 stands for none. -/
def linkReg : Option RegNum → RegNum
  | some r => r
  | none => 0#5

theorem jumpOp_eq {target : DWord} {link : Option RegNum} {s : State} (h : s.delaySlot = none) :
    jumpOp target link s = .next (toTarget target (s.rset (linkReg link) s.linkValue)) := by
  unfold jumpOp
  rw [notInSlot_ok h]
  cases link <;> simp [linkReg]

theorem condOp_ordinary {link : Option RegNum} {offset : BitVec 16} {s : State} (h : s.delaySlot = none) :
    condOp false true link offset s =
      .next (toTarget (s.branchTarget offset) (s.rset (linkReg link) s.linkValue)) := by
  unfold condOp
  rw [notInSlot_ok h]
  cases link <;> simp [linkReg, branchTo]

theorem condOp_untaken {link : Option RegNum} {offset : BitVec 16} {s : State} (h : s.delaySlot = none) :
    condOp false false link offset s =
      .next { s.rset (linkReg link) s.linkValue with pc := s.pc + 4#64, delaySlot := none } := by
  unfold condOp
  rw [notInSlot_ok h]
  cases link <;> simp [linkReg, branchTo]

/-- An ordinary branch follows its condition. -/
theorem condOp_completes {i : Instr} {taken : Bool} {c : Prop} {link : Option RegNum} {offset : BitVec 16} {s : State}
    (h : s.delaySlot = none) (he : exec i s = condOp false taken link offset s) (hc : taken = true ↔ c) :
    completesCond i c (s.branchTarget offset) (linkReg link) s := by
  refine ⟨fun k => completesBranch_of ?_, fun k => completesUntaken_of ?_⟩
  · rw [he, hc.2 k, condOp_ordinary h]
  · rw [he, Bool.eq_false_iff.2 (fun x => k (hc.1 x)), condOp_untaken h]

theorem condOp_taken {link : Option RegNum} {offset : BitVec 16} {s : State} (h : s.delaySlot = none) :
    condOp true true link offset s =
      .next (toTarget (s.branchTarget offset) (s.rset (linkReg link) s.linkValue)) := by
  unfold condOp
  rw [notInSlot_ok h]
  cases link <;> simp [linkReg, likelyTo]

theorem condOp_nullified {link : Option RegNum} {offset : BitVec 16} {s : State} (h : s.delaySlot = none) :
    condOp true false link offset s =
      .next { s.rset (linkReg link) s.linkValue with pc := s.pc + 8#64, delaySlot := none } := by
  unfold condOp
  rw [notInSlot_ok h]
  cases link <;> simp [linkReg, likelyTo]

theorem branchInSlot {s : State} (h : s.delaySlot ≠ none) :
    (∀ target link, jumpOp target link s = .refused .branchInDelaySlot) ∧
      ∀ likely taken link offset, condOp likely taken link offset s = .refused .branchInDelaySlot := by
  constructor
  · intro _ _; unfold jumpOp; rw [notInSlot_refused h]; rfl
  · intro _ _ _ _; unfold condOp; rw [notInSlot_refused h]; rfl

/-! ## Integer operations -/

theorem aluOp_eq (rd : RegNum) (v : State → DWord) (s : State) : aluOp rd v s = Res.finishGpr rd (.ok (v s) s) := rfl

theorem aluOp64_on {rd : RegNum} {v : State → DWord} {s : State} (h : s.mips3 = true) :
    aluOp64 rd v s = Res.finishGpr rd (.ok (v s) s) := by
  unfold aluOp64; rw [needMips3_on h]; rfl

theorem aluOp64_off {rd : RegNum} {v : State → DWord} {s : State} (h : s.mips3 = false) :
    aluOp64 rd v s = (Res.exc .reservedInstr s : Res Unit).finish := by
  unfold aluOp64; rw [needMips3_off h]; rfl

theorem hiLoOp64_on {hi lo : State → DWord} {s : State} (h : s.mips3 = true) :
    hiLoOp64 hi lo s = (Res.ok () (s.setHiLo (hi s) (lo s))).finish := by
  unfold hiLoOp64; rw [needMips3_on h]; rfl

theorem hiLoOp64_off {hi lo : State → DWord} {s : State} (h : s.mips3 = false) :
    hiLoOp64 hi lo s = (Res.exc .reservedInstr s : Res Unit).finish := by
  unfold hiLoOp64; rw [needMips3_off h]; rfl

/-- The two top bits of a sum with one bit more differ exactly when the sum does not fit. -/
theorem fits_iff_msb {n : Nat} (hn : 0 < n) (t : BitVec (n + 1)) :
    (t.getLsbD n != t.getLsbD (n - 1)) = true ↔ ¬ fits n t.toInt := by
  obtain ⟨k, rfl⟩ : ∃ k, n = k + 1 := ⟨n - 1, by omega⟩
  have hl := t.isLt
  have e1 : t.getLsbD (k + 1) = decide (2 ^ (k + 1) ≤ t.toNat) := by
    rw [BitVec.getLsbD, Nat.testBit_eq_decide_div_mod_eq]
    have : t.toNat / 2 ^ (k + 1) < 2 := Nat.div_lt_of_lt_mul (by rw [Nat.pow_succ] at hl; omega)
    by_cases h : 2 ^ (k + 1) ≤ t.toNat
    · have := Nat.div_pos h (by positivity)
      simp only [h, decide_true, decide_eq_true_eq]; omega
    · have := Nat.div_eq_of_lt (Nat.lt_of_not_le h)
      simp only [h, decide_false, decide_eq_false_iff_not]; omega
  have e2 : t.getLsbD k = decide (2 ^ k ≤ t.toNat % 2 ^ (k + 1)) := by
    rw [BitVec.getLsbD, Nat.testBit_eq_decide_div_mod_eq]
    have h1 : t.toNat / 2 ^ k % 2 = t.toNat % 2 ^ (k + 1) / 2 ^ k := by
      rw [Nat.pow_succ, Nat.mod_mul_right_div_self]
    rw [h1]
    have hm : t.toNat % 2 ^ (k + 1) < 2 ^ (k + 1) := Nat.mod_lt _ (by positivity)
    have : t.toNat % 2 ^ (k + 1) / 2 ^ k < 2 := Nat.div_lt_of_lt_mul (by rw [Nat.pow_succ] at hm; omega)
    by_cases h : 2 ^ k ≤ t.toNat % 2 ^ (k + 1)
    · have := Nat.div_pos h (by positivity)
      simp only [h, decide_true, decide_eq_true_eq]; omega
    · have := Nat.div_eq_of_lt (Nat.lt_of_not_le h)
      simp only [h, decide_false, decide_eq_false_iff_not]; omega
  have p1 : (2 : Nat) ^ (k + 1 + 1) = 2 * 2 ^ (k + 1) := by ring
  have p2 : (2 : Nat) ^ (k + 1) = 2 * 2 ^ k := by ring
  have hp : 0 < 2 ^ k := by positivity
  unfold fits
  rw [Nat.add_sub_cancel, e1, e2, BitVec.toInt_eq_toNat_cond]
  rw [show ((2 : Int) ^ k) = ((2 ^ k : Nat) : Int) by push_cast; rfl]
  rw [p1] at hl ⊢
  rw [p2] at hl ⊢
  generalize 2 ^ k = p at *
  by_cases h1 : 2 * p ≤ t.toNat
  · have h3 : t.toNat % (2 * p) = t.toNat - 2 * p := by
      rw [Nat.mod_eq_sub_mod h1, Nat.mod_eq_of_lt (by omega)]
    have h2 : ¬ 2 * t.toNat < 2 * (2 * p) := by omega
    rw [if_neg h2, h3]
    by_cases h4 : p ≤ t.toNat - 2 * p
    · simp only [h1, h4, decide_true, bne_self_eq_false, Bool.false_eq_true, false_iff, not_not]; push_cast; omega
    · simp only [h1, h4, decide_true, decide_false, Bool.true_bne, Bool.not_false, true_iff]; push_cast; omega
  · have h3 : t.toNat % (2 * p) = t.toNat := Nat.mod_eq_of_lt (by omega)
    rw [h3]
    split
    · by_cases h4 : p ≤ t.toNat
      · simp only [h1, h4, decide_true, decide_false, Bool.false_bne, true_iff]; omega
      · simp only [h1, h4, decide_false, bne_self_eq_false, Bool.false_eq_true, false_iff, not_not]; omega
    · omega

theorem toInt_signExtend_succ {n : Nat} (x : BitVec n) : (x.signExtend (n + 1)).toInt = x.toInt :=
  BitVec.toInt_signExtend_of_le (by omega)

theorem toInt_bounds {n : Nat} (x : BitVec n) :
    -(2 ^ (n - 1) : Int) ≤ x.toInt ∧ x.toInt < 2 ^ (n - 1) := by
  have h1 := BitVec.le_toInt x
  have h2 := BitVec.toInt_lt (x := x)
  exact ⟨h1, h2⟩

/-- The trapping sums detect exactly the signed sums that do not fit (R452). -/
theorem addOverflow_iff {n : Nat} (hn : 0 < n) (a b : BitVec n) :
    addOverflow a b = true ↔ ¬ fits n (a.toInt + b.toInt) := by
  unfold addOverflow
  rw [fits_iff_msb hn]
  have ha := toInt_bounds a
  have hb := toInt_bounds b
  rw [BitVec.toInt_add, toInt_signExtend_succ, toInt_signExtend_succ]
  obtain ⟨k, rfl⟩ : ∃ k, n = k + 1 := ⟨n - 1, by omega⟩
  rw [Int.bmod_eq_of_le]
  all_goals (simp only [Nat.add_sub_cancel] at ha hb; push_cast; have : (2 : Int) ^ (k + 1 + 1) = 4 * 2 ^ k := by ring)
  all_goals omega

theorem subOverflow_iff {n : Nat} (hn : 0 < n) (a b : BitVec n) :
    subOverflow a b = true ↔ ¬ fits n (a.toInt - b.toInt) := by
  unfold subOverflow
  rw [fits_iff_msb hn]
  have ha := toInt_bounds a
  have hb := toInt_bounds b
  rw [BitVec.toInt_sub, toInt_signExtend_succ, toInt_signExtend_succ]
  obtain ⟨k, rfl⟩ : ∃ k, n = k + 1 := ⟨n - 1, by omega⟩
  rw [Int.bmod_eq_of_le]
  all_goals (simp only [Nat.add_sub_cancel] at ha hb; push_cast; have : (2 : Int) ^ (k + 1 + 1) = 4 * 2 ^ k := by ring)
  all_goals omega

end Sys2Proof.Machine
end

