-- ==== Sys2Proof/Laws/Encoding.lean ====
section
/-! SUPPORT. The fields of the words that the encoder writes: one lemma for each field of each word shape that the
decoder looks at, so that a proof about decoding never opens a concatenation. -/

namespace Sys2Proof

/-- A concatenation as a number. -/
theorem append_toNat {n m : Nat} (x : BitVec n) (y : BitVec m) : (x ++ y).toNat = x.toNat * 2 ^ m + y.toNat := by
  rw [BitVec.toNat_append, ← Nat.shiftLeft_add_eq_or_of_lt y.isLt, Nat.shiftLeft_eq]

/-- The word `encR` as a number. -/
theorem encR_toNat (op : BitVec 6) (rs rt rd sa : BitVec 5) (fn : BitVec 6) :
    (encR op rs rt rd sa fn).toNat = ((((op.toNat * 32 + rs.toNat) * 32 + rt.toNat) * 32 + rd.toNat) * 32 + sa.toNat) * 64 + fn.toNat := by
  show (op ++ rs ++ rt ++ rd ++ sa ++ fn : BitVec (6+5+5+5+5+6)).toNat = _
  simp only [append_toNat]; rfl

@[simp] theorem encR_op (op : BitVec 6) (rs rt rd sa : BitVec 5) (fn : BitVec 6) :
    (encR op rs rt rd sa fn).extractLsb' 26 6 = op := by
  apply BitVec.eq_of_toNat_eq
  rw [BitVec.extractLsb'_toNat, encR_toNat, Nat.shiftRight_eq_div_pow]
  have := op.isLt; have := rs.isLt; have := rt.isLt; have := rd.isLt; have := sa.isLt; have := fn.isLt
  omega

@[simp] theorem encR_rs (op : BitVec 6) (rs rt rd sa : BitVec 5) (fn : BitVec 6) :
    (encR op rs rt rd sa fn).extractLsb' 21 5 = rs := by
  apply BitVec.eq_of_toNat_eq
  rw [BitVec.extractLsb'_toNat, encR_toNat, Nat.shiftRight_eq_div_pow]
  have := op.isLt; have := rs.isLt; have := rt.isLt; have := rd.isLt; have := sa.isLt; have := fn.isLt
  omega

@[simp] theorem encR_rt (op : BitVec 6) (rs rt rd sa : BitVec 5) (fn : BitVec 6) :
    (encR op rs rt rd sa fn).extractLsb' 16 5 = rt := by
  apply BitVec.eq_of_toNat_eq
  rw [BitVec.extractLsb'_toNat, encR_toNat, Nat.shiftRight_eq_div_pow]
  have := op.isLt; have := rs.isLt; have := rt.isLt; have := rd.isLt; have := sa.isLt; have := fn.isLt
  omega

@[simp] theorem encR_rd (op : BitVec 6) (rs rt rd sa : BitVec 5) (fn : BitVec 6) :
    (encR op rs rt rd sa fn).extractLsb' 11 5 = rd := by
  apply BitVec.eq_of_toNat_eq
  rw [BitVec.extractLsb'_toNat, encR_toNat, Nat.shiftRight_eq_div_pow]
  have := op.isLt; have := rs.isLt; have := rt.isLt; have := rd.isLt; have := sa.isLt; have := fn.isLt
  omega

@[simp] theorem encR_sa (op : BitVec 6) (rs rt rd sa : BitVec 5) (fn : BitVec 6) :
    (encR op rs rt rd sa fn).extractLsb' 6 5 = sa := by
  apply BitVec.eq_of_toNat_eq
  rw [BitVec.extractLsb'_toNat, encR_toNat, Nat.shiftRight_eq_div_pow]
  have := op.isLt; have := rs.isLt; have := rt.isLt; have := rd.isLt; have := sa.isLt; have := fn.isLt
  omega

@[simp] theorem encR_fn (op : BitVec 6) (rs rt rd sa : BitVec 5) (fn : BitVec 6) :
    (encR op rs rt rd sa fn).extractLsb' 0 6 = fn := by
  apply BitVec.eq_of_toNat_eq
  rw [BitVec.extractLsb'_toNat, encR_toNat, Nat.shiftRight_eq_div_pow]
  have := op.isLt; have := rs.isLt; have := rt.isLt; have := rd.isLt; have := sa.isLt; have := fn.isLt
  omega

/-- The word `encI` as a number. -/
theorem encI_toNat (op : BitVec 6) (rs rt : BitVec 5) (imm : BitVec 16) :
    (encI op rs rt imm).toNat = ((op.toNat * 32 + rs.toNat) * 32 + rt.toNat) * 65536 + imm.toNat := by
  show (op ++ rs ++ rt ++ imm : BitVec (6+5+5+16)).toNat = _
  simp only [append_toNat]; rfl

@[simp] theorem encI_op (op : BitVec 6) (rs rt : BitVec 5) (imm : BitVec 16) :
    (encI op rs rt imm).extractLsb' 26 6 = op := by
  apply BitVec.eq_of_toNat_eq
  rw [BitVec.extractLsb'_toNat, encI_toNat, Nat.shiftRight_eq_div_pow]
  have := op.isLt; have := rs.isLt; have := rt.isLt; have := imm.isLt
  omega

@[simp] theorem encI_rs (op : BitVec 6) (rs rt : BitVec 5) (imm : BitVec 16) :
    (encI op rs rt imm).extractLsb' 21 5 = rs := by
  apply BitVec.eq_of_toNat_eq
  rw [BitVec.extractLsb'_toNat, encI_toNat, Nat.shiftRight_eq_div_pow]
  have := op.isLt; have := rs.isLt; have := rt.isLt; have := imm.isLt
  omega

@[simp] theorem encI_rt (op : BitVec 6) (rs rt : BitVec 5) (imm : BitVec 16) :
    (encI op rs rt imm).extractLsb' 16 5 = rt := by
  apply BitVec.eq_of_toNat_eq
  rw [BitVec.extractLsb'_toNat, encI_toNat, Nat.shiftRight_eq_div_pow]
  have := op.isLt; have := rs.isLt; have := rt.isLt; have := imm.isLt
  omega

@[simp] theorem encI_imm (op : BitVec 6) (rs rt : BitVec 5) (imm : BitVec 16) :
    (encI op rs rt imm).extractLsb' 0 16 = imm := by
  apply BitVec.eq_of_toNat_eq
  rw [BitVec.extractLsb'_toNat, encI_toNat, Nat.shiftRight_eq_div_pow]
  have := op.isLt; have := rs.isLt; have := rt.isLt; have := imm.isLt
  omega

/-- The word `encJ` as a number. -/
theorem encJ_toNat (op : BitVec 6) (target : BitVec 26) :
    (encJ op target).toNat = op.toNat * 67108864 + target.toNat := by
  show (op ++ target : BitVec (6+26)).toNat = _
  simp only [append_toNat]; rfl

@[simp] theorem encJ_op (op : BitVec 6) (target : BitVec 26) :
    (encJ op target).extractLsb' 26 6 = op := by
  apply BitVec.eq_of_toNat_eq
  rw [BitVec.extractLsb'_toNat, encJ_toNat, Nat.shiftRight_eq_div_pow]
  have := op.isLt; have := target.isLt
  omega

@[simp] theorem encJ_target (op : BitVec 6) (target : BitVec 26) :
    (encJ op target).extractLsb' 0 26 = target := by
  apply BitVec.eq_of_toNat_eq
  rw [BitVec.extractLsb'_toNat, encJ_toNat, Nat.shiftRight_eq_div_pow]
  have := op.isLt; have := target.isLt
  omega

/-- The word `encCode20` as a number. -/
theorem encCode20_toNat (code : BitVec 20) (fn : BitVec 6) :
    (encCode20 code fn).toNat = (0 * 1048576 + code.toNat) * 64 + fn.toNat := by
  show (0#6 ++ code ++ fn : BitVec (6+20+6)).toNat = _
  simp only [append_toNat]; rfl

@[simp] theorem encCode20_op (code : BitVec 20) (fn : BitVec 6) :
    (encCode20 code fn).extractLsb' 26 6 = 0#6 := by
  apply BitVec.eq_of_toNat_eq
  rw [BitVec.extractLsb'_toNat, encCode20_toNat, Nat.shiftRight_eq_div_pow]
  have := code.isLt; have := fn.isLt
  simp only [BitVec.toNat_ofNat]; omega

@[simp] theorem encCode20_code (code : BitVec 20) (fn : BitVec 6) :
    (encCode20 code fn).extractLsb' 6 20 = code := by
  apply BitVec.eq_of_toNat_eq
  rw [BitVec.extractLsb'_toNat, encCode20_toNat, Nat.shiftRight_eq_div_pow]
  have := code.isLt; have := fn.isLt
  omega

@[simp] theorem encCode20_fn (code : BitVec 20) (fn : BitVec 6) :
    (encCode20 code fn).extractLsb' 0 6 = fn := by
  apply BitVec.eq_of_toNat_eq
  rw [BitVec.extractLsb'_toNat, encCode20_toNat, Nat.shiftRight_eq_div_pow]
  have := code.isLt; have := fn.isLt
  omega

/-- The word `encCode10` as a number. -/
theorem encCode10_toNat (rs rt : BitVec 5) (code : BitVec 10) (fn : BitVec 6) :
    (encCode10 rs rt code fn).toNat = (((0 * 32 + rs.toNat) * 32 + rt.toNat) * 1024 + code.toNat) * 64 + fn.toNat := by
  show (0#6 ++ rs ++ rt ++ code ++ fn : BitVec (6+5+5+10+6)).toNat = _
  simp only [append_toNat]; rfl

@[simp] theorem encCode10_op (rs rt : BitVec 5) (code : BitVec 10) (fn : BitVec 6) :
    (encCode10 rs rt code fn).extractLsb' 26 6 = 0#6 := by
  apply BitVec.eq_of_toNat_eq
  rw [BitVec.extractLsb'_toNat, encCode10_toNat, Nat.shiftRight_eq_div_pow]
  have := rs.isLt; have := rt.isLt; have := code.isLt; have := fn.isLt
  simp only [BitVec.toNat_ofNat]; omega

@[simp] theorem encCode10_rs (rs rt : BitVec 5) (code : BitVec 10) (fn : BitVec 6) :
    (encCode10 rs rt code fn).extractLsb' 21 5 = rs := by
  apply BitVec.eq_of_toNat_eq
  rw [BitVec.extractLsb'_toNat, encCode10_toNat, Nat.shiftRight_eq_div_pow]
  have := rs.isLt; have := rt.isLt; have := code.isLt; have := fn.isLt
  omega

@[simp] theorem encCode10_rt (rs rt : BitVec 5) (code : BitVec 10) (fn : BitVec 6) :
    (encCode10 rs rt code fn).extractLsb' 16 5 = rt := by
  apply BitVec.eq_of_toNat_eq
  rw [BitVec.extractLsb'_toNat, encCode10_toNat, Nat.shiftRight_eq_div_pow]
  have := rs.isLt; have := rt.isLt; have := code.isLt; have := fn.isLt
  omega

@[simp] theorem encCode10_code (rs rt : BitVec 5) (code : BitVec 10) (fn : BitVec 6) :
    (encCode10 rs rt code fn).extractLsb' 6 10 = code := by
  apply BitVec.eq_of_toNat_eq
  rw [BitVec.extractLsb'_toNat, encCode10_toNat, Nat.shiftRight_eq_div_pow]
  have := rs.isLt; have := rt.isLt; have := code.isLt; have := fn.isLt
  omega

@[simp] theorem encCode10_fn (rs rt : BitVec 5) (code : BitVec 10) (fn : BitVec 6) :
    (encCode10 rs rt code fn).extractLsb' 0 6 = fn := by
  apply BitVec.eq_of_toNat_eq
  rw [BitVec.extractLsb'_toNat, encCode10_toNat, Nat.shiftRight_eq_div_pow]
  have := rs.isLt; have := rt.isLt; have := code.isLt; have := fn.isLt
  omega

/-- The word `encCp0Move` as a number. -/
theorem encCp0Move_toNat (sub rt rd : BitVec 5) (sel : BitVec 4) :
    (encCp0Move sub rt rd sel).toNat = ((((16 * 32 + sub.toNat) * 32 + rt.toNat) * 32 + rd.toNat) * 128 + 0) * 16 + sel.toNat := by
  show (16#6 ++ sub ++ rt ++ rd ++ 0#7 ++ sel : BitVec (6+5+5+5+7+4)).toNat = _
  simp only [append_toNat]; rfl

@[simp] theorem encCp0Move_op (sub rt rd : BitVec 5) (sel : BitVec 4) :
    (encCp0Move sub rt rd sel).extractLsb' 26 6 = 16#6 := by
  apply BitVec.eq_of_toNat_eq
  rw [BitVec.extractLsb'_toNat, encCp0Move_toNat, Nat.shiftRight_eq_div_pow]
  have := sub.isLt; have := rt.isLt; have := rd.isLt; have := sel.isLt
  simp only [BitVec.toNat_ofNat]; omega

@[simp] theorem encCp0Move_sub (sub rt rd : BitVec 5) (sel : BitVec 4) :
    (encCp0Move sub rt rd sel).extractLsb' 21 5 = sub := by
  apply BitVec.eq_of_toNat_eq
  rw [BitVec.extractLsb'_toNat, encCp0Move_toNat, Nat.shiftRight_eq_div_pow]
  have := sub.isLt; have := rt.isLt; have := rd.isLt; have := sel.isLt
  omega

@[simp] theorem encCp0Move_rt (sub rt rd : BitVec 5) (sel : BitVec 4) :
    (encCp0Move sub rt rd sel).extractLsb' 16 5 = rt := by
  apply BitVec.eq_of_toNat_eq
  rw [BitVec.extractLsb'_toNat, encCp0Move_toNat, Nat.shiftRight_eq_div_pow]
  have := sub.isLt; have := rt.isLt; have := rd.isLt; have := sel.isLt
  omega

@[simp] theorem encCp0Move_rd (sub rt rd : BitVec 5) (sel : BitVec 4) :
    (encCp0Move sub rt rd sel).extractLsb' 11 5 = rd := by
  apply BitVec.eq_of_toNat_eq
  rw [BitVec.extractLsb'_toNat, encCp0Move_toNat, Nat.shiftRight_eq_div_pow]
  have := sub.isLt; have := rt.isLt; have := rd.isLt; have := sel.isLt
  omega

@[simp] theorem encCp0Move_sel (sub rt rd : BitVec 5) (sel : BitVec 4) :
    (encCp0Move sub rt rd sel).extractLsb' 0 4 = sel := by
  apply BitVec.eq_of_toNat_eq
  rw [BitVec.extractLsb'_toNat, encCp0Move_toNat, Nat.shiftRight_eq_div_pow]
  have := sub.isLt; have := rt.isLt; have := rd.isLt; have := sel.isLt
  omega

/-- Bit 25 of a COP0 operation. -/
@[simp] theorem encR_co (op : BitVec 6) (rs rt rd sa : BitVec 5) (fn : BitVec 6) :
    (encR op rs rt rd sa fn).extractLsb' 25 1 = rs.extractLsb' 4 1 := by
  apply BitVec.eq_of_toNat_eq
  rw [BitVec.extractLsb'_toNat, BitVec.extractLsb'_toNat, encR_toNat, Nat.shiftRight_eq_div_pow,
    Nat.shiftRight_eq_div_pow]
  have := op.isLt; have := rs.isLt; have := rt.isLt; have := rd.isLt; have := sa.isLt; have := fn.isLt
  omega

/-- Bit 25 of a CP0 move. -/
@[simp] theorem encCp0Move_co (sub rt rd : BitVec 5) (sel : BitVec 4) :
    (encCp0Move sub rt rd sel).extractLsb' 25 1 = sub.extractLsb' 4 1 := by
  apply BitVec.eq_of_toNat_eq
  rw [BitVec.extractLsb'_toNat, BitVec.extractLsb'_toNat, encCp0Move_toNat, Nat.shiftRight_eq_div_pow,
    Nat.shiftRight_eq_div_pow]
  have := sub.isLt; have := rt.isLt; have := rd.isLt; have := sel.isLt
  omega

/-- The `cc` field of a word whose `rt` column is a condition-code column. -/
@[simp] theorem encR_cc (op : BitVec 6) (rs rd sa : BitVec 5) (fn : BitVec 6) (cc : BitVec 3) (nd tf : BitVec 1) :
    (encR op rs (ccColumn cc nd tf) rd sa fn).extractLsb' 18 3 = cc := by
  apply BitVec.eq_of_toNat_eq
  have h : (ccColumn cc nd tf).toNat = (cc.toNat * 2 + nd.toNat) * 2 + tf.toNat := by
    show (cc ++ nd ++ tf : BitVec (3 + 1 + 1)).toNat = _
    simp only [append_toNat]; rfl
  rw [BitVec.extractLsb'_toNat, encR_toNat, Nat.shiftRight_eq_div_pow, h]
  have := op.isLt; have := rs.isLt; have := rd.isLt; have := sa.isLt; have := fn.isLt
  have := cc.isLt; have := nd.isLt; have := tf.isLt
  omega

/-- Bit 16 of a word whose `rt` column is a condition-code column. -/
@[simp] theorem encR_tf (op : BitVec 6) (rs rd sa : BitVec 5) (fn : BitVec 6) (cc : BitVec 3) (nd tf : BitVec 1) :
    (encR op rs (ccColumn cc nd tf) rd sa fn).extractLsb' 16 1 = tf := by
  apply BitVec.eq_of_toNat_eq
  have h : (ccColumn cc nd tf).toNat = (cc.toNat * 2 + nd.toNat) * 2 + tf.toNat := by
    show (cc ++ nd ++ tf : BitVec (3 + 1 + 1)).toNat = _
    simp only [append_toNat]; rfl
  rw [BitVec.extractLsb'_toNat, encR_toNat, Nat.shiftRight_eq_div_pow, h]
  have := op.isLt; have := rs.isLt; have := rd.isLt; have := sa.isLt; have := fn.isLt
  have := cc.isLt; have := nd.isLt; have := tf.isLt
  omega

@[simp] theorem encI_cc (op : BitVec 6) (rs : BitVec 5) (imm : BitVec 16) (cc : BitVec 3) (nd tf : BitVec 1) :
    (encI op rs (ccColumn cc nd tf) imm).extractLsb' 18 3 = cc := by
  apply BitVec.eq_of_toNat_eq
  have h : (ccColumn cc nd tf).toNat = (cc.toNat * 2 + nd.toNat) * 2 + tf.toNat := by
    show (cc ++ nd ++ tf : BitVec (3 + 1 + 1)).toNat = _
    simp only [append_toNat]; rfl
  rw [BitVec.extractLsb'_toNat, encI_toNat, Nat.shiftRight_eq_div_pow, h]
  have := op.isLt; have := rs.isLt; have := imm.isLt
  have := cc.isLt; have := nd.isLt; have := tf.isLt
  omega

/-- Bits 17:16 of a BC1 word. -/
@[simp] theorem encI_ndtf (op : BitVec 6) (rs : BitVec 5) (imm : BitVec 16) (cc : BitVec 3) (nd tf : BitVec 1) :
    (encI op rs (ccColumn cc nd tf) imm).extractLsb' 16 2 = nd ++ tf := by
  apply BitVec.eq_of_toNat_eq
  have h : (ccColumn cc nd tf).toNat = (cc.toNat * 2 + nd.toNat) * 2 + tf.toNat := by
    show (cc ++ nd ++ tf : BitVec (3 + 1 + 1)).toNat = _
    simp only [append_toNat]; rfl
  rw [BitVec.extractLsb'_toNat, encI_toNat, Nat.shiftRight_eq_div_pow, h, append_toNat]
  have := op.isLt; have := rs.isLt; have := imm.isLt
  have := cc.isLt; have := nd.isLt; have := tf.isLt
  omega

/-- The `cc` field of a compare. -/
@[simp] theorem encR_cmp (op : BitVec 6) (rs rt rd : BitVec 5) (fn : BitVec 6) (cc : BitVec 3) :
    (encR op rs rt rd (cmpColumn cc) fn).extractLsb' 8 3 = cc := by
  apply BitVec.eq_of_toNat_eq
  have h : (cmpColumn cc).toNat = cc.toNat * 4 := by
    show (cc ++ 0#2 : BitVec (3 + 2)).toNat = _
    simp only [append_toNat]; rfl
  rw [BitVec.extractLsb'_toNat, encR_toNat, Nat.shiftRight_eq_div_pow, h]
  have := op.isLt; have := rs.isLt; have := rt.isLt; have := rd.isLt; have := fn.isLt; have := cc.isLt
  omega

/-- Outside register 25 the `sel` bits of a CP0 move are not looked at (R414). -/
theorem selField_zero (w : Word) (rd : BitVec 5) (h : w.extractLsb' 11 5 = rd) (hr : rd ≠ 25#5) :
    selField w = 0#4 := by
  unfold selField; rw [h, if_neg hr]

end Sys2Proof
end

