-- ==== Sys2Proof/Laws/Translation.lean ====
section
/-! SUPPORT. What a translation gives: the page offset is kept, whatever the segment or the page size. -/

namespace Sys2Proof.Machine

/-- A legal page has 12 to 24 offset bits (R91). -/
theorem pageShift_ge {m : BitVec 12} {k : Nat} (h : pageShift m = some k) : 12 ≤ k ∧ k ≤ 24 := by
  unfold pageShift at h
  split at h <;> first | (cases h; constructor <;> decide) | cases h

/-- The physical address in a page: the frame and the low bits of the virtual address (R312). -/
theorem pageAddr_toNat (pfn : BitVec 28) (k : Nat) (va : DWord) (h : 12 ≤ k) (h2 : k ≤ 24) :
    (pageAddr pfn k va).toNat = pfn.toNat * 2 ^ 12 / 2 ^ k * 2 ^ k + va.toNat % 2 ^ k := by
  unfold pageAddr
  have hp := pfn.isLt
  have e : ((pfn ++ 0#12 : BitVec (28 + 12)).cast (by decide) : BitVec 40).toNat = pfn.toNat * 2 ^ 12 := by
    rw [BitVec.toNat_cast, append_toNat]; exact Nat.add_zero _
  dsimp only
  rw [BitVec.toNat_or, BitVec.toNat_shiftLeft, BitVec.toNat_ushiftRight, e, BitVec.toNat_ofNat, Nat.shiftRight_eq_div_pow,
    Nat.shiftLeft_eq]
  have h3 : va.toNat % 2 ^ k < 2 ^ k := Nat.mod_lt _ (by positivity)
  have h4 : (2 : Nat) ^ k ≤ 2 ^ 40 := Nat.pow_le_pow_right (by decide) (by omega)
  have h5 : pfn.toNat * 2 ^ 12 / 2 ^ k * 2 ^ k ≤ pfn.toNat * 2 ^ 12 := Nat.div_mul_le_self _ _
  rw [Nat.mod_eq_of_lt (a := pfn.toNat * 2 ^ 12 / 2 ^ k * 2 ^ k) (by omega), Nat.mod_eq_of_lt (a := va.toNat % 2 ^ k) (by omega)]
  rw [mul_comm _ (2 ^ k), ← Nat.two_pow_add_eq_or_of_lt h3]

/-- The address check keeps the page offset (R296). -/
theorem checkedVa_low (s : State) (va : DWord) (k : AccessKind) : (checkedVa s va k).toNat % 4096 = va.toNat % 4096 := by
  unfold checkedVa
  split
  · simp only [zext64, BitVec.toNat_setWidth]
    omega
  · rfl

theorem setWidth_low {n : Nat} (va : DWord) (h : 12 ≤ n) : (va.setWidth n).toNat % 4096 = va.toNat % 4096 := by
  rw [BitVec.toNat_setWidth]
  exact Nat.mod_mod_of_dvd _ (Nat.pow_dvd_pow 2 h)

/-- An unmapped segment keeps the page offset (R302, R305, R306). -/
theorem segment_low {s : State} {va : DWord} {pa : PAddr} {ca : BitVec 3} (h : segmentOf s va = .unmapped pa ca) :
    pa.toNat % 4096 = va.toNat % 4096 := by
  unfold segmentOf at h
  have k0 : ((va.setWidth 29).setWidth 40).toNat % 4096 = va.toNat % 4096 := by
    simp only [BitVec.toNat_setWidth]; omega
  have k1 : ((va.setWidth 31).setWidth 40).toNat % 4096 = va.toNat % 4096 := by
    simp only [BitVec.toNat_setWidth]; omega
  have k2 : (va.setWidth 40).toNat % 4096 = va.toNat % 4096 := setWidth_low va (by decide)
  unfold userSegment supervisorSegment kernelSegment64 kernelSegment32 kusegSegment kseg0Segment kseg1Segment xkphysSegment at h
  dsimp only at h
  repeat' (split at h)
  all_goals first | (cases h; done) | (injection h with h1 h2; subst h1; assumption)

/-- Translation keeps the low 12 bits of an address. -/
theorem translate_low {s t : State} {va : DWord} {k : AccessKind} {x : Xlate} (h : translate s va k = .ok x t) :
    x.pa.toNat % 4096 = va.toNat % 4096 ∧ x.va.toNat % 4096 = va.toNat % 4096 := by
  have hc := checkedVa_low s va k
  unfold Machine.translate at h
  dsimp only at h
  split at h
  · cases h
  · next pa ca hs =>
    injection h with h1 h2; subst h1
    exact ⟨(segment_low hs).trans hc, hc⟩
  · next hs =>
    unfold tlbTranslate at h
    split at h
    · cases h
    · split at h
      · cases h
      · next n hn =>
        obtain ⟨h12, h24⟩ := pageShift_ge hn
        dsimp only at h
        generalize (if (checkedVa s va k).getLsbD n = true then _ else _ : TlbPage) = p at h
        split at h
        · cases h
        · split at h
          · cases h
          · injection h with h1 h2; subst h1
            refine ⟨?_, hc⟩
            dsimp only
            rw [pageAddr_toNat _ _ _ h12 h24, ← hc]
            have hd : 4096 ∣ 2 ^ n := Nat.pow_dvd_pow 2 h12
            rw [Nat.add_mod, Nat.mul_mod, Nat.mod_eq_zero_of_dvd hd]
            simp [Nat.mod_mod_of_dvd _ hd]
    · cases h

end Sys2Proof.Machine
end

