-- ==== Sys2Proof/Laws/Pipeline.lean ====
section
/-! SUPPORT. The access pipeline on its two plain paths: an uncached reference to RAM and a reference that hits the primary
data cache.  What each answers and the state it leaves, in the terms of Safety.lean. -/

namespace Sys2Proof.Machine

/-! ## Bytes and values -/

theorem readBytes_eq_map (rd : Nat → Byte) (a n : Nat) : readBytes rd a n = (List.range n).map fun k => rd (a + k) := by
  induction n generalizing a with
  | zero => rfl
  | succ n ih =>
    rw [readBytes, ih, List.range_succ_eq_map, List.map_cons, List.map_map]
    congr 1
    refine List.map_congr_left fun k _ => ?_
    show rd (a + 1 + k) = rd (a + (k + 1))
    congr 1; omega

theorem bytesToNat_snoc (l : List Byte) (b : Byte) (acc : Nat) :
    bytesToNat (l ++ [b]) acc = bytesToNat l acc * 256 + b.toNat := by
  induction l generalizing acc with
  | nil => rfl
  | cons x l ih => exact ih _

theorem bytesToNat_acc (l : List Byte) (acc : Nat) : bytesToNat l acc = acc * 256 ^ l.length + bytesToNat l 0 := by
  induction l generalizing acc with
  | nil => simp [bytesToNat]
  | cons x l ih =>
    rw [bytesToNat, ih, bytesToNat, ih (0 * 256 + x.toNat), List.length_cons, pow_succ]; ring

theorem orderedValue_succ_true (n : Nat) (b : Nat → Byte) :
    orderedValue true (n + 1) b = orderedValue true n b * 256 + (b n).toNat := by
  simp only [orderedValue, List.range_succ, List.map_append, List.sum_append, List.map_cons, List.map_nil,
    List.sum_cons, List.sum_nil, if_true]
  congr 1
  · rw [← List.sum_map_mul_right]
    refine congrArg List.sum (List.map_congr_left fun k hk => ?_)
    have hk := List.mem_range.1 hk
    rw [show n + 1 - 1 - k = (n - 1 - k) + 1 by omega, pow_succ, mul_assoc]
  · simp

theorem orderedValue_succ_false (n : Nat) (b : Nat → Byte) :
    orderedValue false (n + 1) b = orderedValue false n b + (b n).toNat * 256 ^ n := by
  simp [orderedValue, List.range_succ]

/-- The value of bytes read in order (R236). -/
theorem valueOfBytes_readBytes (be : Bool) (rd : Nat → Byte) (a n : Nat) :
    valueOfBytes be (readBytes rd a n) = BitVec.ofNat 64 (orderedValue be n fun k => rd (a + k)) := by
  unfold valueOfBytes
  congr 1
  rw [readBytes_eq_map]
  induction n with
  | zero => cases be <;> rfl
  | succ n ih =>
    cases be
    · rw [orderedValue_succ_false, List.range_succ, List.map_append, if_neg (by decide), List.reverse_append]
      rw [if_neg (by decide)] at ih
      show bytesToNat (rd (a + n) :: ((List.range n).map fun k => rd (a + k)).reverse) 0 = _
      rw [bytesToNat, bytesToNat_acc, ih]
      simp only [List.length_reverse, List.length_map, List.length_range]
      ring
    · rw [orderedValue_succ_true, List.range_succ, List.map_append, if_pos rfl]
      rw [if_pos rfl] at ih
      show bytesToNat (_ ++ [rd (a + n)]) 0 = _
      rw [bytesToNat_snoc, ih]

/-- The bytes that store a value, by their position in memory (R236). -/
theorem bytesOfValue_eq_map (be : Bool) (v : DWord) (n : Nat) :
    bytesOfValue be v n = (List.range n).map (orderedByte be n v) := by
  refine List.ext_getElem? fun i => ?_
  by_cases hi : i < n
  · rw [List.getElem?_map, List.getElem?_range hi, Option.map_some]
    unfold bytesOfValue orderedByte
    cases be
    · simp only [Bool.false_eq_true, if_false]; exact bytesLE_get v n i hi
    · simp only [if_true]
      rw [List.getElem?_reverse (by simpa using hi), bytesLE_length]
      exact bytesLE_get v n _ (by omega)
  · rw [List.getElem?_eq_none (by simp; omega), List.getElem?_eq_none (by simp; omega)]

/-! ## Checks -/

theorem dataTranslate_ok {s : State} {va : DWord} {n : Nat} {kind : AccessKind} {x : Xlate}
    (ha : va.toNat % n = 0) (ht : translate s va kind = .ok x s) : dataTranslate va n kind s = .ok x s := by
  unfold dataTranslate; rw [if_neg (by omega), ht]

theorem dataTranslate_misaligned {s : State} {va : DWord} {n : Nat} {kind : AccessKind} (ha : va.toNat % n ≠ 0) :
    dataTranslate va n kind s = .exc (.addressError (checkedVa s va kind) kind) s := by
  unfold dataTranslate; rw [if_pos ha]

/-! ## Postponed Watch exceptions (R1078) -/

/-- A postponed Watch exception changes CP0 only. -/
theorem latchWatch_frame (hit : Bool) (s : State) : latchWatch hit s = { s with cp0 := (latchWatch hit s).cp0 } := by
  unfold latchWatch; split <;> rfl

/-- The latch depends on CP0 only. -/
theorem latchWatch_cp0 (hit : Bool) {s t : State} (h : t.cp0 = s.cp0) : (latchWatch hit t).cp0 = (latchWatch hit s).cp0 := by
  unfold latchWatch; split <;> simp only [h]

@[simp] theorem watched_rget (s : State) (pa : PAddr) (k : AccessKind) (r : RegNum) : (s.watched pa k).rget r = s.rget r := by
  unfold State.watched latchWatch
  split <;> rfl

@[simp] theorem watched_fraw (s : State) (pa : PAddr) (k : AccessKind) (q : RegNum) : (s.watched pa k).fraw q = s.fraw q := by
  unfold State.watched latchWatch
  split <;> rfl

/-- The parts of the state that a postponed Watch exception leaves alone. -/
theorem watched_same (s : State) (pa : PAddr) (k : AccessKind) :
    (s.watched pa k).llbit = s.llbit ∧ (s.watched pa k).llblock = s.llblock ∧ (s.watched pa k).caches = s.caches ∧
      (s.watched pa k).mem = s.mem ∧ (s.watched pa k).ext = s.ext ∧ (s.watched pa k).hw = s.hw := by
  unfold State.watched; rw [latchWatch_frame]; exact ⟨rfl, rfl, rfl, rfl, rfl, rfl⟩

/-- A postponed match never stops a reference. -/
theorem watch_off {s : State} {pa : PAddr} {k : AccessKind} (h : watchMatch s pa k = true → watchLive s = false) :
    (watchMatch s pa k && watchLive s) = false := by
  cases hm : watchMatch s pa k
  · rfl
  · rw [h hm]; rfl

/-! ## Uncached references -/

/-- Whether the System interface holds requests back depends on the boundary only. -/
theorem State.busFree.of_ext {s t : State} (h : s.busFree) (e : t.ext = s.ext) : t.busFree :=
  ⟨by rw [e]; exact h.issued, by rw [e]; exact h.queued, by rw [e]; exact h.gathered, by rw [e]; exact h.answered,
    by rw [e]; exact h.external, by rw [e]; exact h.used, by rw [e]; exact h.reads, by rw [e]; exact h.writes⟩

theorem issueGathered_idle {s : State} (h : s.ext.gathered = []) : issueGathered s = s := by
  unfold issueGathered
  split
  · rfl
  · rw [h]
    show ({ s with ext := { s.ext with gathered := [] } } : State) = s
    rw [← h]

theorem drainOutgoing_idle {s : State} (h : s.ext.outgoing = []) : drainOutgoing s = s := by
  unfold drainOutgoing
  split
  · rfl
  · rw [show readyRequests s = [] by unfold readyRequests; rw [h]; rfl,
      show stalledRequests s = [] by unfold stalledRequests; rw [h]; rfl]
    show ({ s with ext := { s.ext with outgoing := [] } } : State) = s
    rw [← h]

/-- With nothing pending issue there is nothing to drain. -/
theorem drain_idle {s : State} (h : s.ext.outgoing = []) (k : s.ext.fifo = []) (l : s.ext.gathered = []) : drain s = s := by
  unfold drain
  dsimp only
  rw [drainOutgoing_idle h, k]
  have e : ({ s with ext := { s.ext with fifo := [] } } : State) = s := by rw [← k]
  rw [e]
  exact issueGathered_idle l

theorem drain_free {s : State} (h : s.busFree) : drain s = s := drain_idle h.issued h.queued h.gathered

/-- With nothing ready for issue and no gathering there is nothing to flush. -/
theorem flushGather_idle {s : State} (h : s.busFree) (g : s.ext.gather = none) : flushGather s = s := by
  unfold flushGather
  dsimp only
  rw [drain_free h, if_pos h.queued, g, h.gathered]
  show drain { s with ext := { s.ext with gather := none, gathered := [] } } = s
  have e : ({ s with ext := { s.ext with gather := none, gathered := [] } } : State) = s := by rw [← g, ← h.gathered]
  rw [e, drain_free h]

theorem uncachedPending_free {s : State} (h : s.busFree) : uncachedPending s = false := by
  unfold uncachedPending; rw [h.queued, h.gathered]; rfl

/-- With nothing pending the lowest request number is free. -/
theorem nextNumber_free {s : State} (h : s.busFree) : s.nextNumber = 0#3 := by
  unfold State.nextNumber State.freeNumber Ext.busy
  rw [h.answered, h.external]; rfl

theorem coherencyPending_free {s : State} (h : s.busFree) (pa : PAddr) : coherencyPending pa s = false := by
  unfold coherencyPending; rw [h.external]; rfl

theorem stalled_free {s : State} (h : s.busFree) (r : BusReq) : r.stalled s = false := by
  unfold BusReq.stalled
  split <;> first | exact coherencyPending_free h _ | rfl

theorem hasRoom_free {s : State} (h : s.busFree) : hasRoom s = true := by
  unfold hasRoom
  rw [show s.freeNumber = some 0#3 by unfold State.freeNumber Ext.busy; rw [h.answered, h.external]; rfl, h.answered]
  exact Bool.and_eq_true_iff.2 ⟨decide_eq_true (Nat.succ_pos _), rfl⟩

theorem makeRoom_free {s : State} (h : s.busFree) (quiet : Bool) : makeRoom quiet s = .ok true s := by
  unfold makeRoom
  rw [if_neg (by rw [h.reads]; decide), if_pos (hasRoom_free h)]

theorem entryStalled_free {s : State} (h : s.ext.cluster = []) (e : List BusReq) : entryStalled s e = false := by
  unfold entryStalled
  rw [List.any_eq_false]
  intro r _
  unfold BusReq.stalled coherencyPending
  split <;> simp [h]

/-- Where nothing waits for an external request all entries of the gatherer leave. -/
theorem issueGathered_free {s : State} (w : s.ext.writesHeld = false) (c : s.ext.cluster = []) :
    issueGathered s = issueAll s.ext.gathered.flatten { s with ext := { s.ext with gathered := [] } } := by
  unfold issueGathered
  rw [if_neg (by rw [w]; decide)]
  have e : ∀ l : List (List BusReq), l.takeWhile (fun e => !entryStalled s e) = l ∧ l.dropWhile (fun e => !entryStalled s e) = [] := by
    intro l
    induction l with
    | nil => exact ⟨rfl, rfl⟩
    | cons x l ih =>
      rw [List.takeWhile_cons_of_pos (by rw [entryStalled_free c]; rfl), List.dropWhile_cons_of_pos (by rw [entryStalled_free c]; rfl)]
      exact ⟨congrArg _ ih.1, ih.2⟩
  rw [(e _).1, (e _).2]

/-- A store makes at most two entries of the gatherer. -/
theorem gatherNext_small (s : State) (g : Option Gather) (u : UncachedStore) :
    (gatherNext s g u).2.length + (gatherNext s g u).1.isSome.toNat ≤ 2 := by
  have f : ∀ g : Option Gather, (flushedEntry g).length ≤ 1 := by intro g; cases g <;> simp [flushedEntry]
  have a : ∀ g : Gather, (gathering s g).2.length + (gathering s g).1.isSome.toNat ≤ 1 := by
    intro g; unfold gathering; split <;> simp
  have b : (startGather s u).2.length + (startGather s u).1.isSome.toNat ≤ 1 := by
    unfold startGather; split
    · exact a _
    · simp
  unfold gatherNext afterFlushed
  split
  · split
    · omega
    · next g =>
      have := f (some g)
      split
      · simp only [List.length_append]; omega
      · split
        · have := a (g.append .sequential u); omega
        · split
          · have := a (g.append .identical u); omega
          · simp only [List.length_append]; omega
  · have := f g; simp only [List.length_append, List.length_singleton, Option.isSome_none, Bool.toNat_false]; omega

/-- A store that nothing holds back: the gathering takes it, and what that makes ready leaves at once. -/
theorem bufferStore_free {s : State} (h : s.busFree) (u : UncachedStore) :
    bufferStore u s = issueAll (gatherNext s s.ext.gather u).2.flatten
      { s with ext := { s.ext with gather := (gatherNext s s.ext.gather u).1 } } := by
  unfold bufferStore drain
  dsimp only
  rw [drainOutgoing_idle (by exact h.issued)]
  rw [h.queued]
  have e : ({ s with ext := { s.ext with fifo := [] } } : State) = s := by rw [← h.queued]
  show advanceFifo [u] { s with ext := { s.ext with fifo := [] } } = _
  rw [e]
  unfold advanceFifo
  dsimp only
  rw [issueGathered_idle h.gathered, h.gathered]
  simp only [List.length_nil, Nat.zero_add, List.nil_append]
  rw [if_pos (gatherNext_small _ _ _)]
  unfold advanceFifo
  rw [issueGathered_free (by exact h.writes) (by exact h.external)]
  simp only [h.queued]

/-- With no gathering in progress, a store that is not gathered goes out by itself. -/
theorem bufferStore_single {s : State} {u : UncachedStore} (h : s.busFree) (g : s.ext.gather = none)
    (k : u.accel = false ∨ u.whole = false) : bufferStore u s = s.issue (.dspWrite u.accel u.pa u.bytes u.uc 1#2) := by
  rw [bufferStore_free h, g]
  have e : gatherNext s none u = (none, [[.dspWrite u.accel u.pa u.bytes u.uc 1#2]]) := by
    unfold gatherNext
    rw [if_neg (by rcases k with k | k <;> simp [k])]
    rfl
  rw [e]
  have e2 : ({ s with ext := { s.ext with gather := none } } : State) = s := by rw [← g]
  show issueAll [_] { s with ext := { s.ext with gather := none } } = _
  rw [e2]; rfl

/-- A request with no reply listed is acknowledged, a read with good data. -/
theorem receive_default {s : State} (isRead wait : Bool) (h : s.ext.replies = []) :
    receive isRead wait s = ({ completion := .ack, st := s.hw.readState, bad := 0#16, withData := isRead }, s) := by
  unfold receive takeReply
  rw [h]
  unfold nextReply
  dsimp only
  rw [if_neg (by cases isRead <;> simp)]
  show (_, reportCycles _ _) = _
  rw [← h]
  rfl

/-- The first reply listed, if it is one that counts. -/
theorem receive_reply {s : State} {r : Reply} {rs : List Reply} (h : s.ext.replies = r :: rs)
    (hc : r.completion = .err ∨ r.completion = .ack ∧ r.withData = true) :
    receive true true s = (r, reportCycles r { s with ext := { s.ext with replies := rs } }) := by
  unfold receive takeReply
  rw [h]
  unfold nextReply
  rw [if_neg (by rcases hc with h | ⟨h, _⟩ <;> rw [h] <;> simp)]
  dsimp only
  rw [if_neg (by rcases hc with h | ⟨h, h'⟩ <;> simp [h] <;> simp [h'])]

/-- What the lost and corrected cycles of a response report changes neither the physical map nor memory. -/
theorem reportCycles_same (r : Reply) (s : State) :
    (reportCycles r s).hw = s.hw ∧ (reportCycles r s).mem = s.mem := by
  have report : ∀ e s, (reportError e s).hw = s.hw ∧ (reportError e s).mem = s.mem := by
    intro e s; unfold reportError postError; (repeat' split) <;> exact ⟨rfl, rfl⟩
  unfold reportCycles
  have h1 : ∀ n (t : State), (Nat.repeat (reportError (.sysBus false true false)) n t).hw = t.hw ∧
      (Nat.repeat (reportError (.sysBus false true false)) n t).mem = t.mem := by
    intro n t
    induction n with
    | zero => exact ⟨rfl, rfl⟩
    | succ n ih => exact ⟨(report _ _).1.trans ih.1, (report _ _).2.trans ih.2⟩
  have h2 : ∀ n (t : State), (Nat.repeat (fun s : State => s.emit .corErr) n t).hw = t.hw ∧
      (Nat.repeat (fun s : State => s.emit .corErr) n t).mem = t.mem := by
    intro n t
    induction n with
    | zero => exact ⟨rfl, rfl⟩
    | succ n ih => exact ⟨ih.1, ih.2⟩
  exact ⟨(h2 _ _).1.trans (h1 _ _).1, (h2 _ _).2.trans (h1 _ _).2⟩

/-- A reference that goes uncached has an uncached algorithm; of a store it is algorithm 2. -/
theorem UncachedRef.algorithm {s : State} {va : DWord} {pa : PAddr} {n : Nat} {kind : AccessKind} {x : Xlate}
    (h : UncachedRef s va pa n kind x) : isCached x.ca = false ∧ isUncached x.ca = true := by
  rcases h.uncached with e | ⟨_, e⟩ <;> rw [e] <;> exact ⟨rfl, rfl⟩

theorem UncachedRef.store {s : State} {va : DWord} {pa : PAddr} {n : Nat} {x : Xlate}
    (h : UncachedRef s va pa n .store x) : x.ca = 2#3 := by
  rcases h.uncached with e | ⟨e, _⟩
  · exact e
  · cases e

/-- An uncached read of RAM that is acknowledged at once. -/
theorem uncachedRead_ram {s : State} {kind : AccessKind} {cause uc : BitVec 2} {pa : PAddr} {n : Nat} (hn : 0 < n)
    (hf : s.busFree) (hr : s.ext.replies = []) (hm : ∀ a, pa.toNat ≤ a → a < pa.toNat + n → s.physAt a = .ram) :
    uncachedRead false kind cause pa n uc s =
      .ok (readBytes (Memory.read s.mem) pa.toNat n) (s.emit (.dspRead 0#3 pa n uc cause)) := by
  unfold uncachedRead
  have h0 := receive_default (s := s.emit (.dspRead 0#3 pa n uc cause)) true true hr
  have h1 : (s.emit (.dspRead 0#3 pa n uc cause)).physAt pa.toNat = .ram := hm _ (le_refl _) (by omega)
  have h2 : readBytes (s.emit (.dspRead 0#3 pa n uc cause)).physByte pa.toNat n =
      readBytes (Memory.read s.mem) pa.toNat n := by
    rw [readBytes_eq_map, readBytes_eq_map]
    refine List.map_congr_left fun k hk => ?_
    have hk := List.mem_range.1 hk
    unfold State.physByte
    rw [show (s.emit (.dspRead 0#3 pa n uc cause)).physAt (pa.toNat + k) = .ram from hm _ (by omega) (by omega)]
    rfl
  rw [drain_free hf, makeRoom_free hf, Res.bind_ok]
  dsimp only
  rw [if_neg (by rw [uncachedPending_free hf]; decide), nextNumber_free hf, h0]
  dsimp only
  rw [h1, if_neg (by rintro ⟨_, h⟩; cases h)]
  dsimp only
  rw [if_neg (by decide)]
  exact congrArg (fun l => Res.ok l _) h2

theorem readAt_uncached {s : State} {cause : BitVec 2} {x : Xlate} {pa : PAddr} {n : Nat} (hn : 0 < n) (hc : isCached x.ca = false ∧ isUncached x.ca = true)
    (hw : watchMatch s pa .load = true → watchLive s = false) (hg : s.ext.gather = none) (hf : s.busFree)
    (hr : s.ext.replies = []) (hm : ∀ a, pa.toNat ≤ a → a < pa.toNat + n → s.physAt a = .ram) :
    readAt cause x pa n s =
      .ok (readBytes (Memory.read s.mem) pa.toNat n) ((s.watched pa .load).emit (.dspRead 0#3 pa n x.uc cause)) := by
  unfold readAt
  obtain ⟨h1, h2⟩ := hc
  have h3 : flushGather s = s := flushGather_idle hf hg
  simp only [watch_off hw, h1, h2, Bool.false_eq_true, if_false, if_true, h3]
  rw [uncachedRead_ram hn hf hr hm, Res.bind_ok]
  unfold State.watched latchWatch
  split <;> rfl

/-- An uncached read of RAM whose response is ERR or bad data. -/
theorem uncachedRead_fails {s : State} {kind : AccessKind} {cause uc : BitVec 2} {pa : PAddr} {n : Nat} {r : Reply}
    {rs : List Reply} (hf : s.busFree) (hr : s.ext.replies = r :: rs) (hb : readFails r)
    (hm : s.physAt pa.toNat = .ram) :
    uncachedRead false kind cause pa n uc s = .exc (.busError kind) (reportCycles r
      { s with ext := { s.ext with bus := .dspRead 0#3 pa n uc cause :: s.ext.bus, replies := rs } }) := by
  unfold uncachedRead
  have h0 := receive_reply (s := s.emit (.dspRead 0#3 pa n uc cause)) hr
    (by rcases hb with h | ⟨h, k, _⟩; exacts [.inl h, .inr ⟨h, k⟩])
  rw [drain_free hf, makeRoom_free hf, Res.bind_ok]
  dsimp only
  rw [if_neg (by rw [uncachedPending_free hf]; decide), nextNumber_free hf, h0]
  dsimp only
  rw [if_neg]
  · rcases hb with h | ⟨h, _, h'⟩
    · rw [h]; rfl
    · rw [h]; dsimp only; rw [if_pos h']; rfl
  · rintro ⟨_, h⟩
    unfold State.physAt at h hm
    rw [(reportCycles_same _ _).1] at h
    exact absurd (hm.symm.trans h) (by decide)

/-- An uncached read whose response brings a doubleword takes its bytes from their lanes (R928, R955). -/
theorem uncachedRead_data {s : State} {kind : AccessKind} {cause uc : BitVec 2} {pa : PAddr} {n : Nat} {r : Reply}
    {rs : List Reply} {d : DWord} (hf : s.busFree) (hr : s.ext.replies = r :: rs) (hd : BringsData r d)
    (hm : s.physAt pa.toNat = .ram) :
    uncachedRead false kind cause pa n uc s = .ok (readBytes (fun a => d.extractLsb' (laneOf s.bigEndianMem a) 8) pa.toNat n)
      { s with ext := { s.ext with bus := .dspRead 0#3 pa n uc cause :: s.ext.bus, replies := rs } } := by
  unfold uncachedRead
  have h0 := receive_reply (s := s.emit (.dspRead 0#3 pa n uc cause)) hr (.inr ⟨hd.ack, hd.came⟩)
  rw [drain_free hf, makeRoom_free hf, Res.bind_ok]
  dsimp only
  rw [if_neg (by rw [uncachedPending_free hf]; decide), nextNumber_free hf, h0]
  have hc : ∀ t, reportCycles r t = t := by intro t; unfold reportCycles; rw [hd.clean.1, hd.clean.2]; rfl
  rw [hc]
  dsimp only
  rw [if_neg (by rintro ⟨_, h⟩; exact absurd (hm.symm.trans h) (by decide)), hd.ack]
  dsimp only
  rw [hd.good, if_neg (by decide)]
  congr 2
  funext a
  unfold replyByte
  rw [hd.data]; rfl

/-- The same as a load. -/
theorem memRead_data {s : State} {va : DWord} {n : Nat} {x : Xlate} {r : Reply} {rs : List Reply} {d : DWord} (hn : 0 < n)
    (h : UncachedRef s va x.pa n .load x) (ha : va.toNat % n = 0) (hr : s.ext.replies = r :: rs) (hd : BringsData r d) :
    memRead va n s = .ok (BitVec.ofNat 64 (orderedValue s.bigEndianCpu n
        fun k => d.extractLsb' (laneOf s.bigEndianMem (x.pa.toNat + k)) 8))
      (breakLl (({ s with ext := { s.ext with replies := rs } } : State).watched x.pa .load |>.emit
        (.dspRead 0#3 x.pa n x.uc 1#2))) := by
  unfold memRead
  rw [dataTranslate_ok ha h.translated, Res.bind_ok]
  unfold readAt
  obtain ⟨h1, h2⟩ := h.algorithm
  have h3 : flushGather s = s := flushGather_idle h.free h.idle
  simp only [watch_off h.postponed, h1, h2, Bool.false_eq_true, if_false, if_true, h3]
  rw [uncachedRead_data h.free hr hd (h.ram _ (le_refl _) (by omega)), Res.bind_ok, Res.bind_ok, valueOfBytes_readBytes]
  unfold State.watched
  rw [show watchMatch { s with ext := { s.ext with replies := rs } } x.pa .load = watchMatch s x.pa .load from rfl]
  cases watchMatch s x.pa .load <;> rfl

/-- The same as a data reference. -/
theorem readAt_fails {s : State} {cause : BitVec 2} {x : Xlate} {va : DWord} {pa : PAddr} {n : Nat} {r : Reply}
    {rs : List Reply} (hn : 0 < n) (h : UncachedRef s va pa n .load x) (hr : s.ext.replies = r :: rs) (hb : readFails r) :
    readAt cause x pa n s = .exc (.busError .load) (reportCycles r
      { s with ext := { s.ext with bus := .dspRead 0#3 pa n x.uc cause :: s.ext.bus, replies := rs } }) := by
  unfold readAt
  obtain ⟨h1, h2⟩ := h.algorithm
  have h3 : flushGather s = s := flushGather_idle h.free h.idle
  simp only [watch_off h.postponed, h1, h2, Bool.false_eq_true, if_false, if_true, h3]
  rw [uncachedRead_fails h.free hr hb (h.ram _ (le_refl _) (by omega))]
  rfl

/-- A watched reference is the Watch exception: uncached, or cached and a hit (R1077). -/
theorem readAt_watch {s : State} {cause : BitVec 2} {x : Xlate} {pa : PAddr} {n : Nat}
    (hc : isUncached x.ca = true ∨ isCached x.ca = true ∧ ∃ w, dHit s x.va pa = some w)
    (hw : watchMatch s pa .load = true) (hl : watchLive s = true) : readAt cause x pa n s = .exc .watch s := by
  unfold readAt
  simp only [hw, hl, Bool.and_self, if_true]
  rcases hc with h | ⟨h, w, hh⟩
  · have h1 : isCached x.ca = false := by
      revert h; unfold isUncached isCached; generalize x.ca = c; revert c; decide
    rw [h1, h]; rfl
  · rw [h, if_pos rfl]; unfold watchCached
    rw [show dHit s (dataReq x pa .load cause).va (dataReq x pa .load cause).pa = some w from hh]

theorem writeAt_watch {s : State} {cause : BitVec 2} {whole : Bool} {x : Xlate} {pa : PAddr} {bs : List Byte}
    (hc : isUncached x.ca = true ∨ isCached x.ca = true ∧ ∃ w, dHit s x.va pa = some w)
    (hw : watchMatch s pa .store = true) (hl : watchLive s = true) : writeAt cause whole x pa bs s = .exc .watch s := by
  unfold writeAt
  simp only [hw, hl, Bool.and_self, if_true]
  rcases hc with h | ⟨h, w, hh⟩
  · have h1 : isCached x.ca = false := by
      revert h; unfold isUncached isCached; generalize x.ca = c; revert c; decide
    rw [h1, h]; rfl
  · rw [h, if_pos rfl]; unfold watchCached
    rw [show dHit s (dataReq x pa .store cause).va (dataReq x pa .store cause).pa = some w from hh]

theorem writeAt_uncached {s : State} {cause : BitVec 2} {whole : Bool} {x : Xlate} {pa : PAddr} {bs : List Byte}
    (hc : x.ca = 2#3) (hw : watchMatch s pa .store = true → watchLive s = false) (hg : s.ext.gather = none)
    (hf : s.busFree) :
    writeAt cause whole x pa bs s =
      .ok () (((s.watched pa .store).physWrite pa bs).emit (.dspWrite false pa bs x.uc 1#2)) := by
  unfold writeAt
  have h1 : isCached x.ca = false := by rw [hc]; rfl
  have h2 : isUncached x.ca = true := by rw [hc]; rfl
  simp only [watch_off hw, h1, h2, Bool.false_eq_true, if_false, if_true]
  unfold uncachedWrite
  rw [drain_free hf, if_neg (by rw [uncachedFull, hf.queued]; decide),
    if_neg (by rw [hc]; rintro ⟨h, _⟩; exact absurd h (by decide)), hc, bufferStore_single hf hg (.inl rfl), Res.bind_ok]
  unfold State.watched latchWatch
  split <;> rfl

/-- Every byte of memory after the external agent accepts bytes in RAM. -/
theorem physWrite_read {s : State} {pa : PAddr} {n : Nat} {b : Nat → Byte} (hwf : s.mem.wf = true)
    (hm : ∀ a, pa.toNat ≤ a → a < pa.toNat + n → s.physAt a = .ram) (a : Nat) :
    Memory.read (s.physWrite pa ((List.range n).map b)).mem a =
      if pa.toNat ≤ a ∧ a < pa.toNat + n then b (a - pa.toNat) else Memory.read s.mem a := by
  unfold State.physWrite
  dsimp only
  rw [physWriteList_ram (fun a h1 h2 => hm a h1 (by simpa using h2)), Memory.read_writeList hwf]
  by_cases h1 : pa.toNat ≤ a
  · rw [if_pos h1]
    by_cases h2 : a < pa.toNat + n
    · rw [if_pos ⟨h1, h2⟩, List.getElem?_map, List.getElem?_range (by omega)]; rfl
    · rw [if_neg (by omega), List.getElem?_eq_none (by simp; omega)]; rfl
  · rw [if_neg h1, if_neg (by omega)]

/-! ## The data cache -/

theorem checkDTags_good {s : State} {va : DWord} (h : (checkDTags va s).1 = false) : checkDTags va s = (false, s) := by
  unfold checkDTags checkDSet at h ⊢
  dsimp only at h ⊢
  split
  · next hc => rw [if_pos hc] at h; cases h
  · rfl

theorem checkITags_good {s : State} {va : DWord} (h : (checkITags va s).1 = false) : checkITags va s = (false, s) := by
  unfold checkITags at h ⊢
  dsimp only at h ⊢
  split
  · next hc => rw [if_pos hc] at h; cases h
  · rfl

theorem errGate_good (s : State) : errGate false s = .ok () s := rfl

/-- A reference that hits and needs no ownership: the line's way, and the LRU bit turned. -/
theorem dAccess_hit {s : State} {a : CReq} {w : Bool} (ht : (checkDTags a.va s).1 = false)
    (hr : dRefilling s a.va a.pa = false) (hh : dHit s a.va a.pa = some w)
    (ho : a.excl = false ∨ (s.dtag (dSet a.va) w).st = 3#2) : dAccess a s = .ok (some w) (s.setDlru (dSet a.va) (!w)) := by
  unfold dAccess
  rw [checkDTags_good ht]
  dsimp only
  rw [errGate_good, Res.bind_ok, if_neg (by rw [hr]; decide), hh]
  dsimp only
  rw [if_neg]
  rintro ⟨h1, h2⟩
  rcases ho with ho | ho
  · rw [ho] at h1; cases h1
  · exact h2 ho

theorem readAt_hit {s : State} {cause : BitVec 2} {x : Xlate} {pa : PAddr} {n : Nat} {w : Bool}
    (hc : isCached x.ca = true) (hw : watchMatch s pa .load = true → watchLive s = false)
    (ht : (checkDTags x.va s).1 = false) (hr : dRefilling s x.va pa = false) (hh : dHit s x.va pa = some w)
    (hb : dBytesBad s (dSet x.va) w (pa.toNat % 32) n = false) :
    readAt cause x pa n s = .ok (readBytes (s.dByte (dSet x.va) w) (pa.toNat % 32) n)
      ((s.watched pa .load).setDlru (dSet x.va) (!w)) := by
  have hbad : ∀ k off, dBytesBad (s.setDlru (dSet x.va) (!w)) (dSet x.va) w off k = dBytesBad s (dSet x.va) w off k := by
    intro k; induction k with
    | zero => intro off; rfl
    | succ k ih => intro off; unfold dBytesBad; rw [ih]; rfl
  unfold readAt
  simp only [watch_off hw, hc, Bool.false_eq_true, if_false, if_true]
  unfold cachedRead
  rw [dAccess_hit (a := dataReq x pa .load cause) ht hr hh (.inl rfl), Res.bind_ok]
  have hb' : dBytesBad (s.setDlru (dSet (dataReq x pa .load cause).va) (!w)) (dSet (dataReq x pa .load cause).va) w
      ((dataReq x pa .load cause).pa.toNat % 32) n = false := (hbad n _).trans hb
  simp only [hb']
  unfold State.watched latchWatch
  cases watchMatch s pa .load <;> rfl

theorem writeAt_hit {s : State} {cause : BitVec 2} {whole : Bool} {x : Xlate} {pa : PAddr} {bs : List Byte} {w : Bool}
    (hc : isCached x.ca = true) (hw : watchMatch s pa .store = true → watchLive s = false)
    (ht : (checkDTags x.va s).1 = false) (hr : dRefilling s x.va pa = false) (hh : dHit s x.va pa = some w)
    (ho : (s.dtag (dSet x.va) w).st = 3#2) :
    writeAt cause whole x pa bs s = .ok () (latchWatch (watchMatch s pa .store)
      (dWriteBytes (dSet x.va) w (pa.toNat % 32) bs ((s.setDlru (dSet x.va) (!w)).setDtag (dSet x.va) w
        (DTag.of (s.dtag (dSet x.va) w).tag 3#2 1#3 (s.dtag (dSet x.va) w).way)))) := by
  unfold writeAt
  simp only [watch_off hw, hc, Bool.false_eq_true, if_false, if_true]
  unfold cachedWrite
  rw [dAccess_hit (a := dataReq x pa .store cause) ht hr hh (.inr ho), Res.bind_ok]
  rfl

/-! ## Loads -/

/-- What a load of general register `rt` leaves, given the state its read leaves. -/
theorem load_after {s u : State} {rt : RegNum} {v : DWord} {link : Bool}
    (hs : u = { s with ext := u.ext, caches := u.caches, llbit := link, llblock := u.llblock }) :
    gprBecomes rt v s (advance (u.rset rt v)) ∧ fprSame s (advance (u.rset rt v)) ∧
      (advance (u.rset rt v)).llblock = u.llblock ∧ sameBesidesMemory s (advance (u.rset rt v)) ∧
      (advance (u.rset rt v)).llbit = link ∧ (advance (u.rset rt v)).caches = u.caches ∧
      (advance (u.rset rt v)).mem = s.mem ∧ (advance (u.rset rt v)).ext = u.ext := by
  have hg : ∀ r, u.rget r = s.rget r := by rw [hs]; exact fun _ => rfl
  refine ⟨fun r => by rw [advance_rget, State.rget_rset, hg], fun q => ?_, ?_, ⟨?_, ?_, ?_, ?_, ?_, ?_, ?_, ?_⟩, ?_, ?_, ?_, ?_⟩
  all_goals rw [hs]
  all_goals unfold State.rset
  · show State.fraw (if _ then _ else _) q = _; split <;> rfl
  · show State.llblock (if _ then _ else _) = _; split <;> rfl
  · split <;> exact ⟨rfl, rfl⟩
  · unfold fallsThrough advance
    cases s.delaySlot <;> split <;> simp
  all_goals first | (show State.cp0 (if _ then _ else _) = _; split <;> rfl) |
    (show State.tlb (if _ then _ else _) = _; split <;> rfl) | (show State.hw (if _ then _ else _) = _; split <;> rfl) |
    (show State.steps (if _ then _ else _) = _; split <;> rfl) | (show State.note (if _ then _ else _) = _; split <;> rfl) |
    (show Fpu.fcr31 (State.fpu (if _ then _ else _)) = _; split <;> rfl) |
    (show State.llbit (if _ then _ else _) = _; split <;> rfl) | (show State.caches (if _ then _ else _) = _; split <;> rfl) |
    (show State.mem (if _ then _ else _) = _; split <;> rfl) | (show State.ext (if _ then _ else _) = _; split <;> rfl)

/-- What a load leaves whose Watch exception was postponed. -/
theorem load_watched {s u : State} {rt : RegNum} {v : DWord} {link : Bool} {pa : PAddr}
    (hs : u = { s.watched pa .load with ext := u.ext, caches := u.caches, llbit := link, llblock := u.llblock }) :
    gprBecomes rt v s (advance (u.rset rt v)) ∧ fprSame s (advance (u.rset rt v)) ∧
      (advance (u.rset rt v)).llblock = u.llblock ∧ sameBesidesMemory (s.watched pa .load) (advance (u.rset rt v)) ∧
      (advance (u.rset rt v)).llbit = link ∧ (advance (u.rset rt v)).caches = u.caches ∧
      (advance (u.rset rt v)).mem = s.mem ∧ (advance (u.rset rt v)).ext = u.ext := by
  obtain ⟨h1, h2, h3, h4, h5, h6, h7, h8⟩ := load_after (s := s.watched pa .load) (rt := rt) (v := v) hs
  refine ⟨fun r => by rw [h1 r, watched_rget], fun q => by rw [h2 q, watched_fraw], h3, h4, h5, h6, ?_, h8⟩
  rw [h7]; exact (watched_same s pa .load).2.2.2.1

/-- An aligned uncached load of RAM: the value of its bytes. -/
theorem memRead_uncached {s : State} {va : DWord} {n : Nat} {x : Xlate} (hn : 0 < n) (h : UncachedRam s va x.pa n .load x)
    (ha : va.toNat % n = 0) :
    memRead va n s = .ok (BitVec.ofNat 64 (orderedValue s.bigEndianCpu n fun k => Memory.read s.mem (x.pa.toNat + k)))
      (breakLl ((s.watched x.pa .load).emit (.dspRead 0#3 x.pa n x.uc 1#2))) := by
  unfold memRead
  rw [dataTranslate_ok ha h.translated, Res.bind_ok,
    readAt_uncached hn h.algorithm h.postponed h.idle h.free h.answered h.ram, Res.bind_ok, valueOfBytes_readBytes]
  unfold State.watched latchWatch
  split <;> rfl

/-- The same for LL and LLD, which set the link. -/
theorem linkedRead_uncached {s : State} {va : DWord} {n : Nat} {x : Xlate} (hn : 0 < n)
    (h : UncachedRam s va x.pa n .load x) (ha : va.toNat % n = 0) :
    linkedRead va n s = .ok (BitVec.ofNat 64 (orderedValue s.bigEndianCpu n fun k => Memory.read s.mem (x.pa.toNat + k)))
      { (s.watched x.pa .load).emit (.dspRead 0#3 x.pa n x.uc 2#2) with llbit := true, llblock := s.hw.blockBase x.pa } := by
  unfold linkedRead
  rw [dataTranslate_ok ha h.translated, Res.bind_ok,
    readAt_uncached hn h.algorithm h.postponed h.idle h.free h.answered h.ram, Res.bind_ok, valueOfBytes_readBytes]
  unfold State.watched latchWatch
  split <;> rfl

/-- An aligned load that hits the data cache: the value of the line's bytes. -/
theorem memRead_hit {s : State} {va : DWord} {n : Nat} {x : Xlate} {w : Bool} (h : DataHit s va x.pa .load x w)
    (hb : dBytesBad s (dSet x.va) w (x.pa.toNat % 32) n = false) (ha : va.toNat % n = 0) :
    memRead va n s =
      .ok (BitVec.ofNat 64 (orderedValue s.bigEndianCpu n fun k => s.dByte (dSet x.va) w (x.pa.toNat % 32 + k)))
        (breakLl ((s.watched x.pa .load).setDlru (dSet x.va) (!w))) := by
  unfold memRead
  rw [dataTranslate_ok ha h.translated, Res.bind_ok,
    readAt_hit h.cached h.postponed h.goodTags h.settled h.hit hb, Res.bind_ok, valueOfBytes_readBytes]
  unfold State.watched latchWatch
  split <;> rfl

/-- The same for LL and LLD. -/
theorem linkedRead_hit {s : State} {va : DWord} {n : Nat} {x : Xlate} {w : Bool} (h : DataHit s va x.pa .load x w)
    (hb : dBytesBad s (dSet x.va) w (x.pa.toNat % 32) n = false) (ha : va.toNat % n = 0) :
    linkedRead va n s =
      .ok (BitVec.ofNat 64 (orderedValue s.bigEndianCpu n fun k => s.dByte (dSet x.va) w (x.pa.toNat % 32 + k)))
        { (s.watched x.pa .load).setDlru (dSet x.va) (!w) with llbit := true, llblock := s.hw.blockBase x.pa } := by
  unfold linkedRead
  rw [dataTranslate_ok ha h.translated, Res.bind_ok,
    readAt_hit h.cached h.postponed h.goodTags h.settled h.hit hb, Res.bind_ok, valueOfBytes_readBytes]
  unfold State.watched latchWatch
  split <;> rfl

/-- A load that gives `v` after an uncached read. -/
theorem loadCompletes_uncached {i : Instr} {s : State} {rt : RegNum} {v : DWord} {pa : PAddr} {n : Nat}
    {uc cause : BitVec 2}
    (h : exec i s = Res.finishGpr rt (.ok v (breakLl ((s.watched pa .load).emit (.dspRead 0#3 pa n uc cause))))) :
    loadCompletes i rt v (afterUncachedRead pa n uc cause false) s := by
  obtain ⟨h1, h2, h3, h4, h5, h6, h7, h8⟩ :=
    load_watched (s := s) (u := breakLl ((s.watched pa .load).emit (.dspRead 0#3 pa n uc cause))) (rt := rt) (v := v)
      (link := false) rfl
  obtain ⟨_, e2, e3, _, e5, _⟩ := watched_same s pa .load
  exact ⟨_, h, h1, h2, h3.trans e2, h4, h5, h6.trans e3, h7, fun a => by rw [h7],
    h8.trans (by unfold State.watched; rw [latchWatch_frame]; rfl)⟩

/-- A load that gives `v` after a hit. -/
theorem loadCompletes_hit {i : Instr} {s : State} {rt : RegNum} {v va : DWord} {pa : PAddr} {w : Bool}
    (h : exec i s = Res.finishGpr rt (.ok v (breakLl ((s.watched pa .load).setDlru (dSet va) (!w))))) :
    loadCompletes i rt v (afterReadHit va pa w false) s := by
  obtain ⟨h1, h2, h3, h4, h5, h6, h7, h8⟩ :=
    load_watched (s := s) (u := breakLl ((s.watched pa .load).setDlru (dSet va) (!w))) (rt := rt) (v := v)
      (link := false) rfl
  obtain ⟨_, e2, e3, _, e5, _⟩ := watched_same s pa .load
  exact ⟨_, h, h1, h2, h3.trans e2, h4, h5, h7, fun a => by rw [h7],
    h6.trans (by unfold State.watched; rw [latchWatch_frame]; rfl),
    h8.trans e5⟩

theorem loadOp_of {n : Nat} {f : DWord → DWord} {base rt : RegNum} {offset : BitVec 16} {s t : State} {v : DWord}
    (h : memRead (s.ea base offset) n s = .ok v t) : loadOp n f base rt offset s = Res.finishGpr rt (.ok (f v) t) := by
  unfold loadOp; rw [h]; rfl

theorem loadOp64_of {n : Nat} {f : DWord → DWord} {base rt : RegNum} {offset : BitVec 16} {s t : State} {v : DWord}
    (hm : s.mips3 = true) (h : memRead (s.ea base offset) n s = .ok v t) :
    loadOp64 n f base rt offset s = Res.finishGpr rt (.ok (f v) t) := by
  unfold loadOp64; rw [needMips3_on hm, Res.bind_ok, h]; rfl

/-! ## Stores -/

/-- What a store leaves, given the state its write leaves and its Watch exception postponed. -/
theorem store_after {s u : State} {pa : PAddr}
    (hs : u = { s.watched pa .store with ext := u.ext, caches := u.caches, mem := u.mem, llbit := false }) :
    gprSame s (advance u) ∧ fprSame s (advance u) ∧ sameBesidesMemory (s.watched pa .store) (advance u) ∧
      (advance u).llbit = false ∧ (advance u).llblock = s.llblock ∧ (advance u).caches = u.caches ∧
      (advance u).mem = u.mem ∧ (advance u).ext = u.ext := by
  have hp : advance u =
      { advance (s.watched pa .store) with ext := u.ext, caches := u.caches, mem := u.mem, llbit := false } := by
    conv_lhs => rw [hs]
    rfl
  rw [hp]
  exact ⟨fun r => watched_rget s pa .store r, fun q => watched_fraw s pa .store q,
    ⟨⟨rfl, rfl⟩, advance_fallsThrough (s.watched pa .store), rfl, rfl, rfl, rfl, rfl, rfl⟩, rfl,
    (watched_same s pa .store).2.1, rfl, rfl, rfl⟩

/-- The exact words of an uncached write after a postponed Watch exception. -/
theorem physWrite_watched (s : State) (pa a : PAddr) (k : AccessKind) (bs : List Byte) :
    ((s.watched a k).physWrite pa bs).mem = (s.physWrite pa bs).mem := by
  unfold State.watched latchWatch
  split <;> rfl

/-- A store of bytes to RAM, uncached. -/
theorem storeCompletes_uncached {i : Instr} {s : State} {pa : PAddr} {n : Nat} {b : Nat → Byte} {uc cause : BitVec 2}
    (hwf : s.mem.wf = true) (hm : ∀ a, pa.toNat ≤ a → a < pa.toNat + n → s.physAt a = .ram)
    (h : exec i s = (Res.ok () (breakLl (((s.watched pa .store).physWrite pa ((List.range n).map b)).emit
      (.dspWrite false pa ((List.range n).map b) uc cause)))).finish) :
    storeCompletes i (afterUncachedWrite false pa n b uc cause) s := by
  obtain ⟨h1, h2, h3, h4, h5, h6, h7, h8⟩ := store_after (s := s) (pa := pa)
    (u := breakLl (((s.watched pa .store).physWrite pa ((List.range n).map b)).emit
      (.dspWrite false pa ((List.range n).map b) uc cause))) rfl
  obtain ⟨_, _, e3, _, e5, _⟩ := watched_same s pa .store
  refine ⟨_, h, h1, h2, h3, h4, h5, h6.trans e3, fun a => ?_,
    h8.trans (by unfold State.watched; rw [latchWatch_frame]; rfl)⟩
  rw [h7, ← physWrite_read hwf hm a]
  exact congrArg (Memory.read · a) (physWrite_watched s pa pa .store _)

end Sys2Proof.Machine
end

