-- ==== Sys2Proof/Laws/Step.lean ====
section
/-! SUPPORT. What a step does first (spec/60_exceptions.md R1043): the cases of `step` in the order it takes them. -/

namespace Sys2Proof.Machine

/-- A request that is issued changes memory and the output only. -/
theorem issue_frame (s : State) (r : BusReq) :
    s.issue r = { s with mem := (s.issue r).mem, ext := { s.ext with bus := (s.issue r).ext.bus } } := by
  unfold State.issue; rfl

theorem issueAll_frame (rs : List BusReq) (s : State) :
    issueAll rs s = { s with mem := (issueAll rs s).mem, ext := { s.ext with bus := (issueAll rs s).ext.bus } } := by
  induction rs generalizing s with
  | nil => rfl
  | cons r rs ih => unfold issueAll; rw [ih]; rfl

theorem issueGathered_frame (s : State) :
    issueGathered s = { s with mem := (issueGathered s).mem,
                               ext := { s.ext with gathered := (issueGathered s).ext.gathered, bus := (issueGathered s).ext.bus } } := by
  unfold issueGathered
  split
  · rfl
  · rw [issueAll_frame]

theorem drainOutgoing_frame (s : State) :
    drainOutgoing s = { s with mem := (drainOutgoing s).mem,
                               ext := { s.ext with outgoing := (drainOutgoing s).ext.outgoing, bus := (drainOutgoing s).ext.bus } } := by
  unfold drainOutgoing
  split
  · rfl
  · rw [issueAll_frame]

theorem advanceFifo_frame (l : List UncachedStore) (s : State) :
    advanceFifo l s = { s with mem := (advanceFifo l s).mem,
                               ext := { s.ext with fifo := (advanceFifo l s).ext.fifo, gathered := (advanceFifo l s).ext.gathered,
                                                   gather := (advanceFifo l s).ext.gather, bus := (advanceFifo l s).ext.bus } } := by
  induction l generalizing s with
  | nil => unfold advanceFifo; rw [issueGathered_frame]
  | cons u l ih =>
    unfold advanceFifo
    dsimp only
    rw [issueGathered_frame]
    split
    · rw [ih]
    · rfl

/-- Letting the requests pending issue leave changes memory, the output and what is pending issue only. -/
theorem drain_frame (s : State) :
    drain s = { s with mem := (drain s).mem,
                       ext := { s.ext with outgoing := (drain s).ext.outgoing, fifo := (drain s).ext.fifo,
                                           gathered := (drain s).ext.gathered, gather := (drain s).ext.gather,
                                           bus := (drain s).ext.bus } } := by
  unfold drain
  dsimp only
  rw [advanceFifo_frame, drainOutgoing_frame]

/-- With no coherency request and no store of another agent waiting nothing goes on. -/
theorem resume_idle {s : State} (h : s.ext.probes = []) (k : s.ext.agentStores = []) : resume s = s := by
  unfold resume
  dsimp only
  rw [h]
  unfold resumeProbes
  have e : ({ s with ext := { s.ext with probes := [] } } : State) = s := by rw [← h]
  rw [e, k]
  unfold landStores
  show ({ s with ext := { s.ext with agentStores := [] } } : State) = s
  rw [← k]

/-- What waits at the end of a processor step for requests of this processor or of other agents: nothing. -/
structure State.settledBus (s : State) : Prop where
  issued   : s.ext.outgoing = []
  queued   : s.ext.fifo = []
  gathered : s.ext.gathered = []
  probes   : s.ext.probes = []
  agents   : s.ext.agentStores = []

/-- With nothing pending the end of a processor step only forgets which instruction waits. -/
theorem concluded_idle {s : State} (h : s.settledBus) : concluded s = if s.note = .waiting then s else s.released := by
  have e : ∀ t : State, t.settledBus → resume (drain t) = t := fun t h => by
    rw [drain_idle h.issued h.queued h.gathered, resume_idle h.probes h.agents]
  unfold concluded
  split
  · exact e s h
  · exact e s.released ⟨h.issued, h.queued, h.gathered, h.probes, h.agents⟩

/-- A fetch that gives a word: the word runs. -/
theorem runInstr_ok {pre s t : State} {w : Word} (h : fetchWord s = .ok w t) : runInstr pre s = runWord pre w t := by
  unfold runInstr; rw [h]

/-- With no event and no hang the processor runs. -/
theorem step_clear {s : State} (a : s.ext.inbox = []) (b : s.ext.hung = false) : step s = runProcessor s.fresh := by
  unfold step runStep
  dsimp only
  rw [show s.fresh.ext.inbox = [] from a]
  show (if s.fresh.ext.hung = true then _ else _) = _
  rw [if_neg (by rw [show s.fresh.ext.hung = false from b]; decide)]

/-- An event at the head of the inbox is the step, but for `quiet`. -/
theorem step_event {s : State} {e : EnvEvent} {es : List EnvEvent} (h : s.ext.inbox = e :: es) (hq : e ≠ .quiet) :
    step s = endStep s.fresh none ((envEvent e { s.fresh with ext := { s.ext with inbox := es } }).finishAt) := by
  unfold step runStep
  dsimp only
  rw [show s.fresh.ext.inbox = _ from h]
  cases e <;> first | exact absurd rfl hq | rfl

/-- The event `quiet` lets the processor run. -/
theorem step_quietEvent {s : State} {es : List EnvEvent} (h : s.ext.inbox = .quiet :: es) :
    step s = runProcessor { s.fresh with ext := { s.ext with inbox := es } } := by
  unfold step runStep
  dsimp only
  rw [show s.fresh.ext.inbox = _ from h]
  rfl

/-- A processor that is not hung and not in test mode: what is pending comes first. -/
theorem runProcessor_run {s : State} (a : s.ext.hung = false) (b : s.ext.test.active = false) :
    runProcessor s = runPending s := by
  unfold runProcessor; rw [a, b]; rfl

/-- With nothing pending an instruction runs. -/
theorem runPending_instr {s : State} (a : s.ext.nmiLatch = false) (b : dueCacheError s = none)
    (c : (s.cp0.watchPending && watchLive s) = false) (d : interruptCondition s = false) (e : s.ext.busErr = none) :
    runPending s = runInstr s { s with ext := { s.ext with intWait := 0 } } := by
  have e0 : interruptNow s = (false, { s with ext := { s.ext with intWait := 0 } }) := by
    unfold interruptNow; rw [d]; rfl
  unfold runPending
  rw [if_neg (by rw [a]; decide), b]
  show (if _ then _ else if _ then _ else _) = _
  rw [if_neg (by rw [c]; decide), if_neg (by rw [e0]; exact Bool.false_ne_true), e0]
  unfold runNext
  rw [show ({ s with ext := { s.ext with intWait := 0 } } : State).ext.busErr = none from e]

/-- A quiet state runs the instruction at its pc. -/
theorem step_quiet {s : State} (q : s.quiet) :
    step s = runInstr s.fresh { s.fresh with ext := { s.fresh.ext with intWait := 0 } } := by
  rw [step_clear q.inbox q.running, runProcessor_run (s := s.fresh) q.running q.normal]
  exact runPending_instr q.noNmi q.noError q.noWatch q.noIrq q.noBusErr

end Sys2Proof.Machine
end

