-- ==== Sys2Proof/Laws/Agents.lean ====
section
/-! SUPPORT. What the work for other agents (coherency requests, their stores) and the end of a processor step can do: it leaves
every register of the programmer alone but for a link that it breaks, and it keeps memory and the caches in canonical form. -/

namespace Sys2Proof.Machine

/-- `t` comes from `s` by work for other agents and of the memory system: the link may be broken, and of CP0 only the records
of the performance registers change. -/
structure Served (s t : State) : Prop where
  kept  : Kept { s with llbit := t.llbit } t
  watch : t.cp0.watchPending = s.cp0.watchPending

namespace Served

theorem of {s t : State} (k : Kept s t) (w : t.cp0.watchPending = s.cp0.watchPending) : Served s t where
  kept := ⟨by rw [k.stable.trans rfl]; unfold State.stable; rw [k.llbit], fun h => k.canon h⟩
  watch := w

theorem refl (s : State) : Served s s := of (.refl s) rfl

theorem trans {s t u : State} (h : Served s t) (k : Served t u) : Served s u where
  kept := by
    have e : ({ t with llbit := u.llbit } : State).stable = ({ s with llbit := u.llbit } : State).stable :=
      congrArg (fun x : State => { x with llbit := u.llbit }) h.kept.stable
    exact ⟨k.kept.stable.trans e, fun c => k.kept.canon (h.kept.canon c)⟩
  watch := k.watch.trans h.watch

theorem ite {c : Prop} [Decidable c] {s t u : State} (h : Served s t) (k : Served s u) : Served s (if c then t else u) := by
  split
  · exact h
  · exact k

theorem ext (s : State) (e : Ext) : Served s { s with ext := e } := of (.ext s e) rfl
theorem emit (s : State) (r : BusReq) : Served s (s.emit r) := of (.emit s r) rfl
theorem count (s : State) (f : CacheEvents → CacheEvents) : Served s (s.count f) := of (.count s f) rfl
theorem pend (s : State) (r : BusReq) : Served s (s.pend r) := of (.pend s r) rfl
theorem setDtag (s : State) (set : Nat) (w : Bool) (x : DTag) : Served s (s.setDtag set w x) := of (.setDtag s set w x) rfl
theorem setItag (s : State) (set : Nat) (w : Bool) (x : ITag) : Served s (s.setItag set w x) := of (.setItag s set w x) rfl
theorem setStag (s : State) (set : Nat) (w : Bool) (x : STag) : Served s (s.setStag set w x) := of (.setStag s set w x) rfl
theorem setSquad (s : State) (set : Nat) (w : Bool) (k : Nat) (x : SQuad) : Served s (s.setSquad set w k x) :=
  of (.setSquad s set w k x) rfl

/-- Of CP0 only the performance registers change. -/
theorem cp0_eq {s t : State} (h : Served s t) : t.cp0 = { s.cp0 with perf := t.cp0.perf } := by
  have e := congrArg (fun c : Cp0 => { c with watchPending := t.cp0.watchPending, perf := t.cp0.perf })
    (show t.cp0.stable = s.cp0.stable from h.kept.cp0)
  have w := h.watch
  exact e.trans (by dsimp only [Cp0.stable]; rw [w])

/-- The performance counters and their controls are as they were. -/
theorem counters {s t : State} (h : Served s t) : t.cp0.perf.cnt = s.cp0.perf.cnt ∧ t.cp0.perf.ctl = s.cp0.perf.ctl :=
  ⟨(congrArg (fun c : Cp0 => c.perf.cnt) h.kept.cp0 :), (congrArg (fun c : Cp0 => c.perf.ctl) h.kept.cp0 :)⟩

/-! ## The arrays -/

theorem postError (e : UnitError) (s : State) : Served s (postError e s) := ite (refl s) (ext s _)

theorem reportError (e : UnitError) (s : State) : Served s (reportError e s) :=
  ite ((postError e s).trans (emit _ _)) (postError e s)

theorem readSTag (pa : PAddr) (set : Nat) (w : Bool) (s : State) : Served s (readSTag pa set w s).2 := by
  unfold Machine.readSTag
  dsimp only
  split
  · exact refl s
  · exact emit s _
  · exact reportError _ s

theorem lookupSecondary (pa : PAddr) (s : State) : Served s (lookupSecondary pa s).2 :=
  (readSTag pa _ false s).trans (readSTag pa _ true _)

theorem captureSyndrome (q : SQuad) (s : State) : Served s (captureSyndrome q s) :=
  of (.captureSyndrome q s) (by unfold Machine.captureSyndrome; split <;> rfl)

theorem readQuad (pa : PAddr) (set : Nat) (w : Bool) (k : Nat) (s : State) : Served s (readQuad pa set w k s).2 := by
  unfold Machine.readQuad
  dsimp only
  split
  · exact refl s
  · dsimp only
    exact ((captureSyndrome _ s).trans (emit _ _)).trans (count _ _)
  · dsimp only
    exact (captureSyndrome _ s).trans (reportError _ _)

theorem readQuads (pa : PAddr) (set : Nat) (w : Bool) (k n : Nat) (s : State) : Served s (readQuads pa set w k n s).2 := by
  induction n generalizing k s with
  | zero => exact refl s
  | succ n ih => exact (readQuad pa set w k s).trans (ih _ _)

theorem writeQuads (set : Nat) (w : Bool) (k : Nat) (l : List (BitVec 128 × Bool)) (s : State) :
    Served s (writeQuads set w k l s) := by
  induction l generalizing k s with
  | nil => exact refl s
  | cons q l ih => exact (setSquad s _ _ _ _).trans (ih _ _)

theorem writeBackD (set : Nat) (w : Bool) (s : State) : Served s (writeBackD set w s) := by
  unfold Machine.writeBackD
  dsimp only
  split
  · refine Served.trans ?_ (count _ _)
    refine Served.trans ?_ (setDtag _ _ _ _)
    refine Served.trans ?_ (writeQuads _ _ _ _ _)
    split
    · exact reportError _ s
    · exact refl s
  · exact refl s

theorem purgeDWay (wb : Bool) (pa : PAddr) (set : Nat) (w : Bool) (s : State) : Served s (purgeDWay wb pa set w s) := by
  unfold Machine.purgeDWay
  split
  · refine Served.trans ?_ (setDtag _ _ _ _)
    split
    · exact writeBackD _ _ s
    · exact refl s
  · exact refl s

theorem purgeDLines (wb : Bool) (v : BitVec 2) (pa : PAddr) (n : Nat) (s : State) : Served s (purgeDLines wb v pa n s) := by
  induction n generalizing pa s with
  | zero => exact refl s
  | succ n ih => exact ((purgeDWay wb pa _ false s).trans (purgeDWay wb pa _ true _)).trans (ih _ _)

theorem purgeIWay (pa : PAddr) (set : Nat) (w : Bool) (s : State) : Served s (purgeIWay pa set w s) :=
  ite (setItag _ _ _ _) (refl s)

theorem purgeILines (v : BitVec 2) (pa : PAddr) (n : Nat) (s : State) : Served s (purgeILines v pa n s) := by
  induction n generalizing pa s with
  | zero => exact refl s
  | succ n ih => exact ((purgeIWay pa _ false s).trans (purgeIWay pa _ true _)).trans (ih _ _)

theorem purgePrimary (wb : Bool) (v : BitVec 2) (pa : PAddr) (s : State) : Served s (purgePrimary wb v pa s) :=
  (purgeDLines wb v _ _ s).trans (purgeILines v _ _ _)

theorem flushPrimary (v : BitVec 2) (pa : PAddr) (n : Nat) (s : State) : Served s (flushPrimary v pa n s) := by
  induction n generalizing pa s with
  | zero => exact refl s
  | succ n ih =>
    exact ((ite (writeBackD _ false s) (refl s)).trans (ite (writeBackD _ true _) (refl _))).trans (ih _ _)

theorem syncPrimary (st v : BitVec 2) (pa : PAddr) (n : Nat) (s : State) : Served s (syncPrimary st v pa n s) := by
  induction n generalizing pa s with
  | zero => exact refl s
  | succ n ih => exact ((ite (setDtag s _ false _) (refl s)).trans (ite (setDtag _ _ true _) (refl _))).trans (ih _ _)

theorem setBlockState (st : BitVec 2) (set : Nat) (w : Bool) (s : State) : Served s (setBlockState st set w s) :=
  (setStag s _ _ _).trans (syncPrimary _ _ _ _ _)

theorem checkDSet (set : Nat) (pidx : BitVec 11) (s : State) : Served s (checkDSet set pidx s).2 := by
  unfold Machine.checkDSet
  dsimp only
  split
  · exact reportError _ s
  · exact refl s

theorem interrogate (v : BitVec 2) (pa : PAddr) (n : Nat) (s : State) : Served s (interrogate v pa n s).2 := by
  induction n generalizing pa s with
  | zero => exact refl s
  | succ n ih => exact (checkDSet _ _ s).trans (ih _ _)

/-! ## Coherency requests -/

theorem breakLinkOn (pa : PAddr) (s : State) : Served s (breakLinkOn pa s) := by
  unfold Machine.breakLinkOn
  split
  · exact ⟨.refl _, rfl⟩
  · exact refl s

theorem respondData (c : Probe) (set : Nat) (w bad : Bool) (st : BitVec 2) (s : State) :
    Served s (respondData c set w bad st s) := (readQuads _ _ _ _ _ s).trans (pend _ _)

theorem shareBlock (c : Probe) (set : Nat) (w bad : Bool) (s : State) : Served s (shareBlock c set w bad s) :=
  (((interrogate _ _ _ s).trans (flushPrimary _ _ _ _)).trans (ite (respondData _ _ _ _ _ _) (refl _))).trans
    (setBlockState _ _ _ _)

theorem surrenderBlock (supply : Bool) (c : Probe) (set : Nat) (w bad : Bool) (s : State) :
    Served s (surrenderBlock supply c set w bad s) :=
  (((interrogate _ _ _ s).trans (purgePrimary _ _ _ _)).trans (ite (respondData _ _ _ _ _ _) (refl _))).trans (setStag _ _ _ _)

theorem coherencyRequest {supply : Bool} {c : Probe} {note : BitVec 2 → CacheEvents → CacheEvents}
    {act : Nat → Bool → Bool → State → State} (ha : ∀ set w bad s, Served s (act set w bad s)) (s : State) :
    Served s (coherencyRequest supply c note act s) := by
  unfold Machine.coherencyRequest
  refine (breakLinkOn c.pa s).trans ?_
  dsimp only
  split
  · exact ((emit _ _).trans (count _ _)).trans (ext _ _)
  · refine (lookupSecondary (s.hw.blockBase c.pa) _).trans ?_
    rw [show (Machine.breakLinkOn c.pa s).hw = s.hw from (breakLinkOn c.pa s).kept.hw]
    split
    · exact (emit _ _).trans (count _ _)
    · exact ((emit _ _).trans (count _ _)).trans (ha _ _ _ _)

theorem performProbe (c : Probe) (s : State) : Served s (performProbe c s) := by
  unfold Machine.performProbe
  split
  · exact coherencyRequest (shareBlock c) s
  · exact coherencyRequest (surrenderBlock true c) s
  · exact coherencyRequest (surrenderBlock false c) s

theorem resumeProbes (cs : List Probe) (s : State) : Served s (resumeProbes cs s) := by
  induction cs generalizing s with
  | nil => exact refl s
  | cons c cs ih => exact ite (ext s _) ((performProbe c s).trans (ih _))

/-! ## The stores of other agents -/

theorem physWrite (s : State) (pa : PAddr) (bs : List Byte) : Served s (s.physWrite pa bs) := of (.physWrite s pa bs) rfl

theorem issueAll (l : List BusReq) (s : State) : Served s (issueAll l s) := by
  induction l generalizing s with
  | nil => exact refl s
  | cons r l ih => exact ((physWrite s _ _).trans (emit _ _)).trans (ih _)

theorem sendResponses (s : State) : Served s (sendResponses s) := ite (refl s) ((ext s _).trans (issueAll _ _))

theorem takeBlocks (n base : Nat) (s : State) : Served s (takeBlocks base n s) := by
  induction n generalizing base s with
  | zero => exact refl s
  | succ n ih => exact ((performProbe _ s).trans (sendResponses _)).trans (ih _ _)

theorem performStore (pa : PAddr) (bs : List Byte) (s : State) : Served s (performStore pa bs s) :=
  ite (physWrite s _ _) (((sendResponses s).trans (takeBlocks _ _ _)).trans (physWrite _ _ _))

theorem landStores (l : List (PAddr × List Byte)) (s : State) : Served s (landStores l s) := by
  induction l generalizing s with
  | nil => exact refl s
  | cons x l ih => exact ite (ext s _) ((performStore _ _ s).trans (ih _))

theorem resume (s : State) : Served s (resume s) :=
  ((ext s _).trans (resumeProbes _ _)).trans ((ext _ _).trans (landStores _ _))

/-! ## The end of a processor step -/

theorem drain (s : State) : Served s (drain s) := of (.drain s) (by rw [drain_frame])

theorem released (s : State) : Served s s.released := of ((Kept.sctp s .none).trans (.ext { s with sctp := .none } _)) rfl

/-- What the end of a processor step can do. -/
theorem concluded (s : State) : Served s (concluded s) :=
  ((ite (refl s) (released s)).trans (drain _)).trans (resume _)

end Served

end Sys2Proof.Machine
end

