-- ==== Sys2Proof/Laws/DataCache.lean ====
section
/-! SUPPORT. The bytes of the primary data cache after a write (spec/22_caches.md R352, R358). -/

namespace Sys2Proof.Machine

/-- Keys of lines differ. -/
theorem lineKey_inj {a b : Nat} {v w : Bool} : lineKey a v = lineKey b w ↔ a = b ∧ v = w := by
  unfold lineKey; cases v <;> cases w <;> simp <;> omega

/-- Keys of data words differ. -/
theorem dwordKey_inj {a b k j : Nat} {v w : Bool} (hk : k < 8) (hj : j < 8) :
    lineKey a v * 8 + k = lineKey b w * 8 + j ↔ (a = b ∧ v = w) ∧ k = j := by
  rw [← lineKey_inj (v := v)]; omega

/-- A read of a data word after a write of one. -/
theorem dword_set {s : State} {set set' k k' : Nat} {w w' : Bool} {x : DWordCell} (hs : sparseWf DWordCell.none s.caches.ddata = true)
    (hk : k < 8) (hk' : k' < 8) :
    (s.setDword set w k x).dword set' w' k' = if set' = set ∧ w' = w ∧ k' = k then x else s.dword set' w' k' := by
  unfold State.dword State.setDword State.setCaches
  dsimp only
  rw [sparseGet_set hs]
  simp only [dwordKey_inj hk' hk, and_assoc]

/-- A read of a byte of a word after a write of one. -/
theorem byte_setByte (be : Bool) (c : DWordCell) (k j : Nat) (b : Byte) (hk : k < 4) (hj : j < 4) :
    (c.setByte be k b).byte be j = if j = k then b else c.byte be j := by
  unfold DWordCell.setByte DWordCell.byte
  have hl : ∀ m, m < 4 → ∃ q, q < 4 ∧ byteLane be m = 8 * q := by
    intro m hm; unfold byteLane; cases be
    · exact ⟨m, hm, rfl⟩
    · exact ⟨3 - m, by omega, by simp; omega⟩
  have hne : byteLane be j = byteLane be k ↔ j = k := by unfold byteLane; cases be <;> simp <;> omega
  obtain ⟨q, hq, eq⟩ := hl k hk
  obtain ⟨r, hr, er⟩ := hl j hj
  have hqr : r = q ↔ j = k := by rw [← hne, eq, er]; omega
  dsimp only
  rw [eq, er]
  have hF : ∀ n, (0xFF#32).getLsbD n = decide (n < 8) := by
    intro n
    by_cases h : n < 32
    · have : ∀ m : Fin 32, (0xFF#32).getLsbD m.val = decide (m.val < 8) := by decide
      exact this ⟨n, h⟩
    · rw [BitVec.getLsbD_of_ge _ _ (by omega)]; simp; omega
  apply BitVec.eq_of_getLsbD_eq
  intro i hi
  rw [apply_ite (fun x : Byte => x.getLsbD i)]
  simp only [BitVec.getLsbD_extractLsb', hi, BitVec.getLsbD_or, BitVec.getLsbD_and, BitVec.getLsbD_not, BitVec.getLsbD_shiftLeft,
    BitVec.getLsbD_setWidth, hF, decide_true, Bool.true_and]
  by_cases hjk : j = k
  · rw [if_pos hjk]
    have := hqr.2 hjk; subst this
    simp [show 8 * r + i < 32 by omega, show 8 * r + i - 8 * r = i by omega, hi, show i < 32 by omega]
  · rw [if_neg hjk]
    have : r ≠ q := fun h => hjk (hqr.1 h)
    by_cases h1 : r < q
    · simp [show 8 * r + i < 8 * q by omega, show 8 * r + i < 32 by omega]
    · simp [show ¬ 8 * r + i < 8 * q by omega, show 8 * r + i < 32 by omega, show 8 ≤ 8 * r + i - 8 * q by omega]

/-- Every byte of the data cache after bytes of a line are written. -/
theorem dByte_writeBytes {set : Nat} {w : Bool} (l : List Byte) : ∀ (off : Nat) (s : State),
    sparseWf DWordCell.none s.caches.ddata = true → off + l.length ≤ 32 → ∀ set' w' off', off' < 32 →
    (dWriteBytes set w off l s).dByte set' w' off' =
      if set' = set ∧ w' = w ∧ off ≤ off' ∧ off' < off + l.length then l.getD (off' - off) 0#8 else s.dByte set' w' off' := by
  induction l with
  | nil => intro off s hs hl set' w' off' ho; unfold dWriteBytes; rw [if_neg (by simp only [List.length_nil]; omega)]
  | cons b l ih =>
    intro off s hs hl set' w' off' ho
    simp only [List.length_cons] at hl ⊢
    unfold dWriteBytes
    have hk : off / 4 < 8 := by omega
    rw [ih (off + 1) _ (sparseSet_wf hs) (by omega) set' w' off' ho]
    have e : (s.setDword set w (off / 4) ((s.dword set w (off / 4)).setByte s.bigEndianMem (off % 4) b)).dByte set' w' off'
        = if set' = set ∧ w' = w ∧ off' = off then b else s.dByte set' w' off' := by
      unfold State.dByte
      rw [dword_set hs hk (by omega)]
      show DWordCell.byte s.bigEndianMem _ _ = _
      by_cases h : set' = set ∧ w' = w ∧ off' / 4 = off / 4
      · rw [if_pos h, byte_setByte _ _ _ _ _ (Nat.mod_lt _ (by decide)) (Nat.mod_lt _ (by decide))]
        obtain ⟨rfl, rfl, h⟩ := h
        by_cases h2 : off' = off
        · subst h2; simp
        · rw [if_neg (by omega), if_neg (by tauto), h]
      · rw [if_neg h, if_neg]
        rintro ⟨rfl, rfl, rfl⟩; exact h ⟨rfl, rfl, rfl⟩
    rw [e]
    by_cases hw : set' = set ∧ w' = w
    · obtain ⟨rfl, rfl⟩ := hw
      simp only [true_and]
      rcases Nat.lt_trichotomy off' off with h | h | h
      · rw [if_neg (by omega), if_neg (by omega), if_neg (by omega)]
      · subst h; rw [if_neg (by omega), if_pos rfl, if_pos (by omega)]; simp
      · by_cases h3 : off' < off + (l.length + 1)
        · rw [if_pos (by omega), if_pos (by omega), show off' - off = (off' - (off + 1)) + 1 by omega]; rfl
        · rw [if_neg (by omega), if_neg (by omega), if_neg (by omega)]
    · rw [if_neg (by tauto), if_neg (by tauto), if_neg (by tauto)]

/-- Writing bytes of a line changes the data array only. -/
theorem dWriteBytes_frame (set : Nat) (w : Bool) (l : List Byte) : ∀ (off : Nat) (s : State),
    dWriteBytes set w off l s = { s with caches := { s.caches with ddata := (dWriteBytes set w off l s).caches.ddata } } := by
  induction l with
  | nil => intro off s; rfl
  | cons b l ih => intro off s; unfold dWriteBytes; rw [ih]; rfl

end Sys2Proof.Machine
end

