-- ==== Sys2Proof/Laws/Unaligned.lean ====
section
/-! SUPPORT. The unaligned loads and stores (spec/42_load_store.md R575 to R583): the values they merge and the spans they
touch, as numbers. -/

namespace Sys2Proof.Machine

/-- `n` bytes make a number below 256 to the `n`. -/
theorem orderedValue_lt (be : Bool) (n : Nat) (b : Nat → Byte) : orderedValue be n b < 256 ^ n := by
  induction n with
  | zero => cases be <;> simp [orderedValue]
  | succ n ih =>
    have hb := (b n).isLt
    cases be
    · rw [orderedValue_succ_false, pow_succ]; nlinarith
    · rw [orderedValue_succ_true, pow_succ]; nlinarith

/-- A number of bytes split in two. -/
theorem orderedValue_add (be : Bool) (m n : Nat) (b : Nat → Byte) : orderedValue be (m + n) b =
    if be then orderedValue be m b * 256 ^ n + orderedValue be n (fun i => b (m + i))
    else orderedValue be m b + 256 ^ m * orderedValue be n (fun i => b (m + i)) := by
  induction n with
  | zero => cases be <;> simp [orderedValue]
  | succ n ih =>
    cases be
    · simp only [Bool.false_eq_true, if_false] at ih ⊢
      rw [← Nat.add_assoc, orderedValue_succ_false, orderedValue_succ_false, ih]; ring
    · simp only [if_true] at ih ⊢
      rw [← Nat.add_assoc, orderedValue_succ_true, orderedValue_succ_true, ih]; ring

/-- The merge of a left form as a number. -/
theorem mergeLeft_toNat (n k v : Nat) (old : DWord) (hk : k < n) (hn : n ≤ 8) :
    mergeLeft n k (BitVec.ofNat 64 v) old = BitVec.ofNat 64 (v * 256 ^ (n - 1 - k) + old.toNat % 256 ^ (n - 1 - k)) := by
  unfold mergeLeft lowBytes
  have hp : ∀ m, (256 : Nat) ^ m = 2 ^ (8 * m) := fun m => by rw [pow_mul]; rfl
  apply BitVec.eq_of_toNat_eq
  have h64 : ∀ m, m ≤ 7 → 2 ^ (8 * m) - 1 < 2 ^ 64 := by
    intro m hm; have : (2 : Nat) ^ (8 * m) ≤ 2 ^ 64 := Nat.pow_le_pow_right (by decide) (by omega); omega
  rw [BitVec.toNat_or, BitVec.toNat_shiftLeft, BitVec.toNat_and, BitVec.toNat_ofNat, BitVec.toNat_ofNat, BitVec.toNat_ofNat,
    Nat.mod_eq_of_lt (h64 _ (by omega)), Nat.and_two_pow_sub_one_eq_mod, hp, Nat.shiftLeft_eq]
  have hlt : old.toNat % 2 ^ (8 * (n - 1 - k)) < 2 ^ (8 * (n - 1 - k)) := Nat.mod_lt _ (by positivity)
  have e1 : v % 2 ^ 64 * 2 ^ (8 * (n - 1 - k)) % 2 ^ 64 = 2 ^ (8 * (n - 1 - k)) * (v % 2 ^ (64 - 8 * (n - 1 - k))) := by
    rw [Nat.mod_mul_mod, Nat.mul_comm]
    conv_lhs => rw [show 64 = 8 * (n - 1 - k) + (64 - 8 * (n - 1 - k)) by omega, pow_add, Nat.mul_mod_mul_left]
  have e2 : 2 ^ (8 * (n - 1 - k)) * 2 ^ (64 - 8 * (n - 1 - k)) = 2 ^ 64 := by rw [← pow_add]; congr 1; omega
  have e3 : v % 2 ^ (64 - 8 * (n - 1 - k)) < 2 ^ (64 - 8 * (n - 1 - k)) := Nat.mod_lt _ (by positivity)
  have e4 : v * 2 ^ (8 * (n - 1 - k)) % 2 ^ 64 = 2 ^ (8 * (n - 1 - k)) * (v % 2 ^ (64 - 8 * (n - 1 - k))) := by
    rw [← e1, Nat.mod_mul_mod]
  have e5 : old.toNat % 2 ^ (8 * (n - 1 - k)) % 2 ^ 64 = old.toNat % 2 ^ (8 * (n - 1 - k)) :=
    Nat.mod_eq_of_lt (lt_of_lt_of_le hlt (Nat.pow_le_pow_right (by decide) (by omega)))
  rw [e1, ← Nat.two_pow_add_eq_or_of_lt hlt, Nat.add_mod (v * _), e4, e5]
  refine (Nat.mod_eq_of_lt ?_).symm
  rw [← e2]
  calc _ < 2 ^ (8 * (n - 1 - k)) * (v % 2 ^ (64 - 8 * (n - 1 - k))) + 2 ^ (8 * (n - 1 - k)) := by omega
    _ = 2 ^ (8 * (n - 1 - k)) * (v % 2 ^ (64 - 8 * (n - 1 - k)) + 1) := by ring
    _ ≤ _ := Nat.mul_le_mul_left _ e3

/-- The merge of a right form as a number. -/
theorem mergeRight_toNat (n k v : Nat) (old : DWord) (hk : k < n) (hn : n ≤ 8) (hv : v < 256 ^ (n - k)) :
    mergeRight n k (BitVec.ofNat 64 v) old = BitVec.ofNat 64 (old.toNat / 256 ^ (n - k) * 256 ^ (n - k) + v) := by
  unfold mergeRight lowBytes
  have hp : ∀ m, (256 : Nat) ^ m = 2 ^ (8 * m) := fun m => by rw [pow_mul]; rfl
  rw [hp] at hv ⊢
  have h64 : (2 : Nat) ^ (8 * (n - k)) ≤ 2 ^ 64 := Nat.pow_le_pow_right (by decide) (by omega)
  have ho := old.isLt
  have e : (old &&& ~~~(BitVec.ofNat 64 (2 ^ (8 * (n - k)) - 1))).toNat = old.toNat / 2 ^ (8 * (n - k)) * 2 ^ (8 * (n - k)) := by
    have : old &&& ~~~(BitVec.ofNat 64 (2 ^ (8 * (n - k)) - 1)) = (old >>> (8 * (n - k))) <<< (8 * (n - k)) := by
      apply BitVec.eq_of_getLsbD_eq
      intro i hi
      simp only [BitVec.getLsbD_and, BitVec.getLsbD_not, BitVec.getLsbD_shiftLeft, BitVec.getLsbD_ushiftRight, BitVec.getLsbD_ofNat, hi,
        decide_true, Bool.true_and, Nat.testBit_two_pow_sub_one]
      by_cases h : i < 8 * (n - k)
      · simp [h]
      · simp [h, show 8 * (n - k) + (i - 8 * (n - k)) = i by omega]
    rw [this, BitVec.toNat_shiftLeft, BitVec.toNat_ushiftRight, Nat.shiftRight_eq_div_pow, Nat.shiftLeft_eq, Nat.mod_eq_of_lt]
    exact lt_of_le_of_lt (Nat.div_mul_le_self _ _) ho
  apply BitVec.eq_of_toNat_eq
  rw [BitVec.toNat_or, e, BitVec.toNat_ofNat, BitVec.toNat_ofNat, Nat.mod_eq_of_lt (a := v) (by omega), Nat.mul_comm, ← Nat.two_pow_add_eq_or_of_lt hv]
  rw [Nat.mod_eq_of_lt]
  rcases Nat.lt_or_ge (n - k) 8 with h8 | h8
  · obtain ⟨c, hc⟩ : ∃ c, 2 ^ (8 * (n - k)) * c = 2 ^ 64 := ⟨2 ^ (64 - 8 * (n - k)), by rw [← pow_add]; congr 1; omega⟩
    have : old.toNat / 2 ^ (8 * (n - k)) < c := Nat.div_lt_of_lt_mul (by omega)
    nlinarith
  · have : n - k = 8 := by omega
    rw [this] at hv ⊢
    rw [Nat.div_eq_of_lt (by simpa using ho)]; simpa using hv

/-- The address of a span inside an aligned unit. -/
theorem spanAddr {pa : PAddr} {n lo : Nat} (hn : n ∈ [4, 8]) (hlo : lo < n) :
    (BitVec.ofNat 40 (pa.toNat / n * n + lo) = BitVec.ofNat 40 (pa.toNat / n * n) + BitVec.ofNat 40 lo) ∧
    (BitVec.ofNat 40 (pa.toNat / n * n + lo)).toNat = (BitVec.ofNat 40 (pa.toNat / n * n)).toNat + lo ∧
    (BitVec.ofNat 40 (pa.toNat / n * n + lo)).extractLsb' 3 37 = (BitVec.ofNat 40 (pa.toNat / n * n)).extractLsb' 3 37 := by
  have hp := pa.isLt
  refine ⟨BitVec.ofNat_add _ _, ?_, ?_⟩
  · simp only [BitVec.toNat_ofNat]
    simp only [List.mem_cons, List.not_mem_nil, or_false] at hn
    rcases hn with rfl | rfl <;> omega
  · apply BitVec.eq_of_toNat_eq
    simp only [BitVec.extractLsb'_toNat, BitVec.toNat_ofNat, Nat.shiftRight_eq_div_pow]
    simp only [List.mem_cons, List.not_mem_nil, or_false] at hn
    rcases hn with rfl | rfl <;> omega

/-- Sign-extension of the low bits of a number. -/
theorem signLow_ofNat (n k : Nat) (h : n ≤ 64) : signLow n (BitVec.ofNat 64 k) = sext64 (BitVec.ofNat n k) := by
  unfold signLow; congr 1
  apply BitVec.eq_of_toNat_eq
  simp only [BitVec.toNat_setWidth, BitVec.toNat_ofNat]
  exact Nat.mod_mod_of_dvd _ (Nat.pow_dvd_pow 2 h)

end Sys2Proof.Machine
end

