-- ==== Sys2Proof/Laws/CacheMiss.lean ====
section
/-! SUPPORT. Cached references that reach the secondary cache (spec/22_caches.md R355 to R358): the secondary tags and their
check bits, a reference whose block comes from memory, and a store that obtains ownership of its block. -/

namespace Sys2Proof.Machine

/-! ## Secondary tags with proper check bits -/

theorem eccBits_lt (rows : List Nat) (x : Nat) : eccBits rows x < 2 ^ rows.length := by
  induction rows with
  | nil => exact Nat.one_pos
  | cons r rows ih => unfold eccBits; rw [List.length_cons, pow_succ]; split <;> omega

/-- A tag with its proper check bits reads clean. -/
theorem check_of (tag : BitVec 22) (vi st : BitVec 2) :
    (STag.of tag vi st).check = .clean (STag.of tag vi st).bits.toNat := by
  unfold STag.check eccRead
  have h : (STag.of tag vi st).ecc.toNat = eccBits tagEccRows (STag.of tag vi st).bits.toNat := by
    show (BitVec.ofNat 7 (eccBits tagEccRows _)).toNat = _
    rw [BitVec.toNat_ofNat, Nat.mod_eq_of_lt (show _ < 2 ^ 7 from eccBits_lt tagEccRows _)]; rfl
  dsimp only
  rw [h, Nat.xor_self, if_pos rfl]

theorem ofBits_bits (t : STag) : STag.ofBits (BitVec.ofNat 26 t.bits.toNat) t.ecc = t := by
  have h : BitVec.ofNat 26 t.bits.toNat = t.bits := by simp
  rw [h]
  obtain ⟨tag, vi, st, ecc⟩ := t
  unfold STag.ofBits STag.bits
  simp only [STag.mk.injEq, and_true]
  have l1 := tag.isLt; have l2 := vi.isLt; have l3 := st.isLt
  refine ⟨?_, ?_, ?_⟩ <;>
    (apply BitVec.eq_of_toNat_eq
     simp only [BitVec.extractLsb'_toNat, BitVec.toNat_cast, append_toNat, Nat.shiftRight_eq_div_pow]
     omega)

theorem ctag_proper {s : State} {set : Nat} {w : Bool} (h : properTag (s.stag set w)) : s.ctag set w = s.stag set w := by
  unfold State.ctag
  rw [h, check_of]; exact ofBits_bits _

theorem properTag_of (tag : BitVec 22) (vi st : BitVec 2) : properTag (STag.of tag vi st) := rfl

theorem readSTag_proper {s : State} {pa : PAddr} {set : Nat} {w : Bool} (h : properTag (s.stag set w)) :
    readSTag pa set w s = ((s.stag set w, false), s) := by
  unfold readSTag
  dsimp only
  have h2 : (s.stag set w).check = .clean (s.stag set w).bits.toNat := by rw [h]; exact check_of _ _ _
  rw [h2]

/-- The lookup of a set whose tags have their proper check bits. -/
theorem lookupSecondary_proper {s : State} {pa : PAddr} (h : ∀ w, properTag (s.stag (sSet s.hw pa) w)) :
    lookupSecondary pa s = (((if (s.stag (sSet s.hw pa) false).tag = stagOf pa ∧ (s.stag (sSet s.hw pa) false).st ≠ 0#2
      then some false else if (s.stag (sSet s.hw pa) true).tag = stagOf pa ∧ (s.stag (sSet s.hw pa) true).st ≠ 0#2
      then some true else none), false), s) := by
  unfold lookupSecondary
  dsimp only
  rw [readSTag_proper (h false)]
  dsimp only
  rw [readSTag_proper (h true)]
  rfl

/-! ## Memory's bytes on their way into a line (R236, R353) -/

/-- The byte in place `i` of an ordered doubleword. -/
theorem byte_of_ordered (be : Bool) (b : Nat → Byte) (i : Nat) (hi : i < 8) :
    (BitVec.ofNat 64 (orderedValue be 8 b)).extractLsb' (8 * (if be then 7 - i else i)) 8 = b i := by
  have l := fun k => (b k).isLt
  have l0 := l 0; have l1 := l 1; have l2 := l 2; have l3 := l 3; have l4 := l 4; have l5 := l 5; have l6 := l 6; have l7 := l 7
  apply BitVec.eq_of_toNat_eq
  rw [BitVec.extractLsb'_toNat, BitVec.toNat_ofNat, Nat.shiftRight_eq_div_pow]
  cases be
  · simp only [orderedValue_succ_false]
    simp only [orderedValue, List.range_zero, List.map_nil, List.sum_nil, Bool.false_eq_true, if_false]
    obtain rfl | rfl | rfl | rfl | rfl | rfl | rfl | rfl : i = 0 ∨ i = 1 ∨ i = 2 ∨ i = 3 ∨ i = 4 ∨ i = 5 ∨ i = 6 ∨ i = 7 := by
      omega
    all_goals norm_num <;> omega
  · simp only [orderedValue_succ_true]
    simp only [orderedValue, List.range_zero, List.map_nil, List.sum_nil, if_true]
    obtain rfl | rfl | rfl | rfl | rfl | rfl | rfl | rfl : i = 0 ∨ i = 1 ∨ i = 2 ∨ i = 3 ∨ i = 4 ∨ i = 5 ∨ i = 6 ∨ i = 7 := by
      omega
    all_goals norm_num <;> omega

/-- Byte `k` of word `j` of a doubleword read from memory. -/
theorem byte_of_dword (be : Bool) (rd : Nat → Byte) (a j k : Nat) (hj : j < 2) (hk : k < 4) :
    (DWordCell.of ((dwordWords be (valueOfBytes be (readBytes rd a 8))).getD j 0#32)).byte be k = rd (a + (4 * j + k)) := by
  rw [valueOfBytes_readBytes, ← byte_of_ordered be (fun i => rd (a + i)) (4 * j + k) (by omega)]
  generalize BitVec.ofNat 64 (orderedValue be 8 fun i => rd (a + i)) = d
  unfold DWordCell.of DWordCell.byte dwordWords byteLane
  obtain rfl | rfl : j = 0 ∨ j = 1 := by omega
  all_goals
    cases be <;> apply BitVec.eq_of_getLsbD_eq <;> intro i hi <;>
      simp only [Bool.false_eq_true, if_false, if_true, List.getD_cons_zero, List.getD_cons_succ, BitVec.getLsbD_extractLsb', hi,
        decide_true, Bool.true_and]
  all_goals
    rw [decide_eq_true (by omega), Bool.true_and]
    congr 1; omega

/-- A word written with its parity reads good. -/
theorem byteBad_of (be : Bool) (w : Word) (k : Nat) (hk : k < 4) : (DWordCell.of w).byteBad be k = false := by
  have e : ∀ (p q r t : Bool) (i : Nat), i < 4 → (BitVec.ofBool p ++ BitVec.ofBool q ++ BitVec.ofBool r ++ BitVec.ofBool t).getLsbD i
      = if i = 0 then t else if i = 1 then r else if i = 2 then q else p := by decide
  unfold DWordCell.byteBad DWordCell.byte DWordCell.of wordParity
  dsimp only
  have h : byteLane be k / 8 < 4 := by unfold byteLane; cases be <;> simp only [Bool.false_eq_true, if_false, if_true] <;> omega
  rw [e _ _ _ _ _ h]
  unfold byteLane
  obtain rfl | rfl | rfl | rfl : k = 0 ∨ k = 1 ∨ k = 2 ∨ k = 3 := by omega
  all_goals cases be <;> simp

/-- Doubleword `i` of memory from `a` on. -/
theorem physDwords_getD {s : State} (i : Nat) : ∀ (a n : Nat), i < n →
    (s.physDwords a n).getD i 0#64 = valueOfBytes s.bigEndianMem (readBytes s.physByte (a + 8 * i) 8) := by
  induction i with
  | zero => intro a n h; cases n with
    | zero => omega
    | succ n => rfl
  | succ i ih =>
    intro a n h
    cases n with
    | zero => omega
    | succ n =>
      show (State.physDwords s (a + 8) n).getD i 0#64 = _
      rw [ih (a + 8) n (by omega), show a + 8 + 8 * i = a + 8 * (i + 1) by ring]

theorem physDwords_length {s : State} : ∀ (n a : Nat), (s.physDwords a n).length = n := by
  intro n; induction n with
  | zero => intro a; rfl
  | succ n ih => intro a; show _ + 1 = _; rw [ih]

/-- Quadword `i` of a list of doublewords. -/
theorem quadsOfDwords_getD : ∀ (n : Nat) (ds : List DWord), ds.length = 2 * n →
    (quadsOfDwords ds).length = n ∧
      ∀ i, i < n → (quadsOfDwords ds).getD i 0#128 = ds.getD (2 * i) 0#64 ++ ds.getD (2 * i + 1) 0#64 := by
  intro n
  induction n with
  | zero =>
    intro ds h
    cases ds with
    | nil => exact ⟨rfl, fun i hi => absurd hi (Nat.not_lt_zero i)⟩
    | cons d ds => cases h
  | succ n ih =>
    intro ds h
    match ds, h with
    | d0 :: d1 :: ds, h =>
      obtain ⟨h1, h2⟩ := ih ds (by simp only [List.length_cons] at h; omega)
      refine ⟨congrArg (· + 1) h1, fun i hi => ?_⟩
      cases i with
      | zero => rfl
      | succ i =>
        show (quadsOfDwords ds).getD i 0#128 = _
        rw [h2 i (by omega), show 2 * (i + 1) = 2 * i + 1 + 1 by ring]
        rfl

/-- The quadwords that come in without an error. -/
theorem incomingQuads_zero : ∀ (qs : List (BitVec 128)) (k : Nat), incomingQuads 0#16 k qs = qs.map fun q => (q, false) := by
  intro qs; induction qs with
  | nil => intro k; rfl
  | cons q qs ih => intro k; unfold incomingQuads; rw [ih]; simp

/-! ## The arrays after a block and a line are filled -/

theorem squadKey_inj {a b k j : Nat} {v w : Bool} (hk : k < 8) (hj : j < 8) :
    lineKey a v * 8 + k = lineKey b w * 8 + j ↔ (a = b ∧ v = w) ∧ k = j := dwordKey_inj hk hj

theorem squad_set {s : State} {set set' k k' : Nat} {w w' : Bool} {x : SQuad}
    (hs : sparseWf SQuad.none s.caches.sdata = true) (hk : k < 8) (hk' : k' < 8) :
    (s.setSquad set w k x).squad set' w' k' = if set' = set ∧ w' = w ∧ k' = k then x else s.squad set' w' k' := by
  unfold State.squad State.setSquad State.setCaches
  dsimp only
  rw [sparseGet_set hs]
  simp only [squadKey_inj hk' hk, and_assoc]

theorem writeQuads_frame (set : Nat) (w : Bool) (qs : List (BitVec 128 × Bool)) : ∀ (k : Nat) (s : State),
    writeQuads set w k qs s = { s with caches := { s.caches with sdata := (writeQuads set w k qs s).caches.sdata } } := by
  induction qs with
  | nil => intro k s; rfl
  | cons q qs ih => intro k s; unfold writeQuads; rw [ih]; rfl

/-- The quadwords of the secondary cache after some of a block are written. -/
theorem writeQuads_squad {set : Nat} {w : Bool} (qs : List (BitVec 128 × Bool)) : ∀ (k : Nat) (s : State),
    sparseWf SQuad.none s.caches.sdata = true → k + qs.length ≤ 8 → ∀ set' w' j, j < 8 →
    (writeQuads set w k qs s).squad set' w' j =
      if set' = set ∧ w' = w ∧ k ≤ j ∧ j < k + qs.length
        then (if (qs.getD (j - k) (0#128, false)).2 then SQuad.corrupt (qs.getD (j - k) (0#128, false)).1
          else SQuad.of (qs.getD (j - k) (0#128, false)).1)
        else s.squad set' w' j := by
  induction qs with
  | nil => intro k s hs hl set' w' j hj; unfold writeQuads; rw [if_neg (by simp only [List.length_nil]; omega)]
  | cons q qs ih =>
    intro k s hs hl set' w' j hj
    simp only [List.length_cons] at hl ⊢
    unfold writeQuads
    rw [ih (k + 1) _ (sparseSet_wf hs) (by omega) set' w' j hj, squad_set hs (by omega) hj]
    by_cases hw : set' = set ∧ w' = w
    · obtain ⟨rfl, rfl⟩ := hw
      simp only [true_and]
      rcases Nat.lt_trichotomy j k with h | h | h
      · rw [if_neg (by omega), if_neg (by omega), if_neg (by omega)]
      · subst h
        rw [if_neg (show ¬ (j + 1 ≤ j ∧ _) by omega), if_pos rfl, if_pos (show j ≤ j ∧ _ by omega), Nat.sub_self]; rfl
      · by_cases h3 : j < k + (qs.length + 1)
        · rw [if_pos (show k + 1 ≤ j ∧ _ by omega), if_pos (show k ≤ j ∧ _ by omega), show j - k = (j - (k + 1)) + 1 by omega]; rfl
        · rw [if_neg (show ¬ (k + 1 ≤ j ∧ _) by omega), if_neg (by omega), if_neg (by omega)]
    · rw [if_neg (by tauto), if_neg (by tauto), if_neg (by tauto)]

theorem fillLine_frame (set : Nat) (w : Bool) (xs : List Word) : ∀ (k : Nat) (s : State),
    fillLine set w k xs s = { s with caches := { s.caches with ddata := (fillLine set w k xs s).caches.ddata } } := by
  induction xs with
  | nil => intro k s; rfl
  | cons x xs ih => intro k s; unfold fillLine; rw [ih]; rfl

/-- The words of the data cache after a line is filled. -/
theorem fillLine_dword {set : Nat} {w : Bool} (xs : List Word) : ∀ (k : Nat) (s : State),
    sparseWf DWordCell.none s.caches.ddata = true → k + xs.length ≤ 8 → ∀ set' w' j, j < 8 →
    (fillLine set w k xs s).dword set' w' j =
      if set' = set ∧ w' = w ∧ k ≤ j ∧ j < k + xs.length then DWordCell.of (xs.getD (j - k) 0#32)
        else s.dword set' w' j := by
  induction xs with
  | nil => intro k s hs hl set' w' j hj; unfold fillLine; rw [if_neg (by simp only [List.length_nil]; omega)]
  | cons x xs ih =>
    intro k s hs hl set' w' j hj
    simp only [List.length_cons] at hl ⊢
    unfold fillLine
    rw [ih (k + 1) _ (sparseSet_wf hs) (by omega) set' w' j hj, dword_set hs (by omega) hj]
    by_cases hw : set' = set ∧ w' = w
    · obtain ⟨rfl, rfl⟩ := hw
      simp only [true_and]
      rcases Nat.lt_trichotomy j k with h | h | h
      · rw [if_neg (by omega), if_neg (by omega), if_neg (by omega)]
      · subst h; rw [if_neg (by omega), if_pos rfl, if_pos (by omega), Nat.sub_self]; rfl
      · by_cases h3 : j < k + (xs.length + 1)
        · rw [if_pos (by omega), if_pos (by omega), show j - k = (j - (k + 1)) + 1 by omega]; rfl
        · rw [if_neg (by omega), if_neg (by omega), if_neg (by omega)]
    · rw [if_neg (by tauto), if_neg (by tauto), if_neg (by tauto)]

/-! ## A load whose block comes from memory -/

theorem dHit_empty {s : State} {va : DWord} {pa : PAddr} (h : ∀ w, (s.dtag (dSet va) w).st = 0#2) : dHit s va pa = none := by
  unfold dHit; dsimp only; rw [if_neg (by simp [h]), if_neg (by simp [h])]

theorem blockBad_zero (h : Hw) : blockBad h 0#16 = false := by unfold blockBad; simp

theorem writeQuads_boundary (set : Nat) (w : Bool) (x : Ext) (ev : CacheEvents) (sc : Sctp) (qs : List (BitVec 128 × Bool)) : ∀ (k : Nat) (s : State),
    writeQuads set w k qs { s with ext := x, events := ev, sctp := sc } = { writeQuads set w k qs s with ext := x, events := ev, sctp := sc } := by
  induction qs with
  | nil => intro k s; rfl
  | cons q qs ih => intro k s; exact ih (k + 1) (s.setSquad set w k (if q.2 then SQuad.corrupt q.1 else SQuad.of q.1))

theorem physDwords_boundary (s : State) (x : Ext) (ev : CacheEvents) (sc : Sctp) : ∀ (n a : Nat),
    State.physDwords { s with ext := x, events := ev, sctp := sc } a n = s.physDwords a n := by
  intro n; induction n with
  | zero => intro a; rfl
  | succ n ih => intro a; unfold State.physDwords; rw [ih]; rfl

/-- A block response of good data that memory gives. -/
def goodReply : Reply := { completion := .ack, st := 0#2, bad := 0#16, withData := true }

theorem blockDwords_good (pa : PAddr) (s : State) :
    blockDwords goodReply pa s = s.physDwords (s.hw.blockBase pa).toNat (2 * sQuads s.hw) := rfl

theorem fillSecondary_good (st0 st vi : BitVec 2) (pa : PAddr) (set : Nat) (w : Bool) (s : State) :
    fillSecondary { completion := .ack, st := st0, bad := 0#16, withData := true } st vi pa set w s =
      fillSecondary goodReply st vi pa set w s := rfl

theorem fillSecondary_boundary (st vi : BitVec 2) (pa : PAddr) (set : Nat) (w : Bool) (s : State) (x : Ext) (ev : CacheEvents) (sc : Sctp) :
    fillSecondary goodReply st vi pa set w { s with ext := x, events := ev, sctp := sc } =
      { fillSecondary goodReply st vi pa set w s with ext := x, events := ev, sctp := sc } := by
  unfold fillSecondary
  dsimp only
  rw [blockDwords_good, blockDwords_good, physDwords_boundary]
  simp only [show goodReply.bad = 0#16 from rfl, blockBad_zero, Bool.false_eq_true, if_false]
  exact writeQuads_boundary set w x ev sc _ 0 (s.setStag set w (STag.of (stagOf pa) vi st))

/-- The way a block is in: after a miss whose block comes from memory, the reference goes on with what the arrays then hold. -/
theorem secondaryAccess_miss {s : State} {a : CReq} {v : Bool} {st : BitVec 2} (h : BlockMiss s a.pa)
    (hv : s.mru (mruIndex s a.pa) = v) (hst : responseState (readCommand a) s.hw.readState = st) :
    ∃ (ev : CacheEvents) (sc : Sctp), secondaryAccess a s =
      ownIfNeeded false a (sSet s.hw a.pa) { way := v, fresh := true, missed := true }
        { fillSecondary goodReply st (vindexOf a.va) a.pa (sSet s.hw a.pa) v s with
          ext := { s.ext with bus := .blockRead 0#3 a.pa (readCommand a) a.cause 0#2 v :: s.ext.bus }
          events := ev
          sctp := sc } := by
  have hs := h.secondary
  have hf := h.free
  have hr := h.answered
  have hb : blockUnmapped s (s.hw.blockBase a.pa).toNat = false := by
    unfold blockUnmapped
    have := h.ram _ le_rfl (by have := Nat.two_pow_pos s.hw.blkLog; omega)
    unfold State.physAt at this
    rw [this]; rfl
  unfold secondaryAccess pendingFor
  rw [hf.answered, List.find?_nil]
  dsimp only
  rw [lookupSecondary_proper fun w => (hs w).1]
  simp only [(hs false).2, (hs true).2, ne_eq, not_true_eq_false, and_false, if_false]
  rw [errGate_good, Res.bind_ok]
  show ∃ ev sc, missSecondary _ _ _ = _
  unfold missSecondary
  rw [makeRoom_free hf, Res.bind_ok]
  dsimp only
  have h1 : evictionPending a.pa s = false := by unfold evictionPending; rw [hf.issued]; rfl
  have h2 : outgoingFull s = false := by unfold outgoingFull; rw [hf.issued]; rfl
  rw [h1, h2]
  simp only [Bool.or_self, Bool.false_eq_true, if_false]
  rw [h1, h2, coherencyPending_free hf]
  simp only [Bool.not_true, Bool.or_self, Bool.false_eq_true, if_false]
  obtain ⟨ev, sc, hn⟩ : ∃ ev sc, noteMiss a s = { s with events := ev, sctp := sc } := by
    unfold noteMiss
    split
    · exact ⟨_, s.sctp, rfl⟩
    · dsimp only
      split
      · exact ⟨_, s.sctp, rfl⟩
      · exact ⟨_, _, rfl⟩
  rw [hn]
  have hc : ∀ w, (s.ctag (sSet s.hw a.pa) w).st = 0#2 := fun w => by rw [ctag_proper (hs w).1]; exact (hs w).2
  have h3 : victimSecondary a.pa (sSet s.hw a.pa) { s with events := ev, sctp := sc } =
      (v, { s with events := ev, sctp := sc }) := by
    unfold victimSecondary
    rw [if_pos]; · exact congrArg (·, _) hv
    exact hc _
  rw [h3]
  dsimp only
  have h4 : (State.ctag { s with events := ev, sctp := sc } (sSet s.hw a.pa) v).st = 0#2 := hc v
  rw [h4]
  have hn0 : State.nextNumber { s with events := ev, sctp := sc } = 0#3 := nextNumber_free (hf.of_ext rfl)
  rw [hn0]
  have h5 : ∀ t : State, t.caches = s.caches → evictSecondary true (sSet s.hw a.pa) v t = t := by
    intro t ht
    have : (t.ctag (sSet s.hw a.pa) v).st = 0#2 := by rw [← hc v]; unfold State.ctag State.stag; rw [ht]
    unfold evictSecondary; rw [if_pos this]
  generalize hq0 : request (.blockRead (readEntry a v 0#3).rq a.pa (readEntry a v 0#3).cmd a.cause 0#2 v) (readEntry a v 0#3)
    { s with events := ev, sctp := sc } = q
  have q1 : q.caches = s.caches := by rw [← hq0]; rfl
  rw [h5 q q1]
  have h6 : blockUnmapped q (q.hw.blockBase (readEntry a v 0#3).pa).toNat = false := by rw [← hq0]; exact hb
  have hq : q.ext.replies = [] := by rw [← hq0]; exact hr
  have e1 : retire (readEntry a v 0#3) q =
    { s with ext := { s.ext with bus := .blockRead 0#3 a.pa (readCommand a) a.cause 0#2 v :: s.ext.bus }, events := ev, sctp := sc } := by
    rw [← hq0]
    unfold retire request State.emit
    simp [hf.answered, readEntry]
  have e2 : q.hw.readState = s.hw.readState := by rw [← hq0]; rfl
  unfold settle
  rw [receive_default _ _ hq]
  unfold answer
  dsimp only
  rw [h6, e1]
  simp only [Bool.and_false, Bool.false_eq_true, if_false]
  have h7 : ∀ t : State, t.caches = s.caches → vacate a.pa (sSet s.hw a.pa) v t = t := by
    intro t ht
    have : (t.ctag (sSet s.hw a.pa) v).st = 0#2 := by rw [← hc v]; unfold State.ctag State.stag; rw [ht]
    unfold vacate; dsimp only; rw [if_neg (by rw [this]; simp)]
    exact h5 t ht
  have h8 : ((readEntry a v 0#3).isRead && (readEntry a v 0#3).buffered.isNone) = true := rfl
  rw [h8]
  simp only [if_true]
  unfold acceptData
  dsimp only
  rw [show (readEntry a v 0#3).way = v from rfl, show (readEntry a v 0#3).pa = a.pa from rfl]
  rw [h7 { s with ext := { s.ext with bus := .blockRead 0#3 a.pa (readCommand a) a.cause 0#2 v :: s.ext.bus }, events := ev, sctp := sc } rfl]
  rw [blockBad_zero, fillSecondary_good, fillSecondary_boundary, e2, show responseState (readEntry a v 0#3).cmd s.hw.readState = st from hst]
  unfold afterReply
  dsimp only
  rw [errGate_good, Res.bind_ok]
  exact ⟨_, _, rfl⟩

theorem goodReply_bad : goodReply.bad = 0#16 := rfl

theorem fillSecondary_frame (st vi : BitVec 2) (pa : PAddr) (set : Nat) (w : Bool) (s : State) :
    fillSecondary goodReply st vi pa set w s = { s with caches := (fillSecondary goodReply st vi pa set w s).caches } := by
  unfold fillSecondary
  dsimp only
  simp only [goodReply_bad, blockBad_zero, Bool.false_eq_true, if_false]
  rw [writeQuads_frame]; rfl

theorem fillSecondary_caches (st vi : BitVec 2) (pa : PAddr) (set : Nat) (w : Bool) (s : State) :
    (fillSecondary goodReply st vi pa set w s).caches =
      { (s.setStag set w (STag.of (stagOf pa) vi st)).caches with sdata := (fillSecondary goodReply st vi pa set w s).caches.sdata } := by
  unfold fillSecondary
  dsimp only
  simp only [goodReply_bad, blockBad_zero, Bool.false_eq_true, if_false]
  rw [writeQuads_frame]

/-- The state with the line of `pa` in way 0 of its set, filled from secondary way `v`. -/
def fillD (a : CReq) (v : Bool) (s : State) : State :=
  (fillLine (dSet a.va) false 0 (quadsWords s.bigEndianMem (rawQuads s (sSet s.hw a.pa) v (quadOf s.hw (alignDown 5 a.pa)) 2)) s).setDtag
    (dSet a.va) false (DTag.of (ptag a.pa) (s.ctag (sSet s.hw a.pa) v).st 0#3 v)

theorem refillD_fresh {s : State} {a : CReq} {v : Bool} (hd : ∀ w, (s.dtag (dSet a.va) w).st = 0#2) (hv : s.ext.victims = []) :
    refillD a { way := v, fresh := true, missed := true } s = .ok (some false) (recordMiss a true (fillD a v s)) := by
  unfold refillD
  have h1 : victimPrimary ((s.dtag (dSet a.va) false).st != 0#2) ((s.dtag (dSet a.va) true).st != 0#2) (s.dlru (dSet a.va)) s = (false, s) := by
    unfold victimPrimary; rw [hv, hd, hd]; rfl
  dsimp only
  rw [h1]
  dsimp only
  have h2 : writeBackD (dSet a.va) false s = s := by unfold writeBackD; dsimp only; rw [if_neg (by simp [hd])]
  rw [h2]
  unfold refillQuads
  simp only [if_true]
  rw [errGate_good, Res.bind_ok]
  unfold fillD
  rw [fillLine_frame]
  rfl


theorem fillD_frame (a : CReq) (v : Bool) (s : State) : fillD a v s = { s with caches := (fillD a v s).caches } := by
  unfold fillD; rw [fillLine_frame]; rfl

/-- The R12000's record of a miss is in CP0. -/
theorem recordMiss_frame (a : CReq) (missed : Bool) (s : State) :
    ∃ m, recordMiss a missed s = { s with cp0 := { s.cp0 with perf := { s.cp0.perf with missAddr := m } } } := by
  unfold recordMiss
  split
  · exact ⟨_, rfl⟩
  · exact ⟨s.cp0.perf.missAddr, rfl⟩

/-- Entering the SCTP logic changes the counts and its record only. -/
theorem enterSctp_frame (a : CReq) (f : CacheEvents → CacheEvents) (s : State) :
    ∃ ev sc, enterSctp a f s = { s with events := ev, sctp := sc } := by
  unfold enterSctp
  (repeat' split) <;> exact ⟨_, _, rfl⟩

theorem blkLog_cases (h : Hw) : h.blkLog = 6 ∨ h.blkLog = 7 := by unfold Hw.blkLog; split <;> simp

theorem shl_shr_toNat (pa : PAddr) (k : Nat) : ((pa >>> k) <<< k).toNat = pa.toNat / 2 ^ k * 2 ^ k := by
  rw [BitVec.toNat_shiftLeft, BitVec.toNat_ushiftRight, Nat.shiftRight_eq_div_pow, Nat.shiftLeft_eq]
  have := pa.isLt
  apply Nat.mod_eq_of_lt
  calc _ ≤ pa.toNat := Nat.div_mul_le_self _ _
    _ < _ := this

theorem blockBase_toNat (h : Hw) (pa : PAddr) : (h.blockBase pa).toNat = pa.toNat / 2 ^ h.blkLog * 2 ^ h.blkLog := by
  unfold Hw.blockBase; exact shl_shr_toNat _ _

/-- The line's quadwords within its block. -/
theorem line_quad (h : Hw) (pa : PAddr) :
    quadOf h (alignDown 5 pa) + 1 < sQuads h ∧ sQuads h ≤ 8 ∧
      (h.blockBase pa).toNat + 16 * quadOf h (alignDown 5 pa) = pa.toNat / 32 * 32 := by
  rw [blockBase_toNat]
  unfold quadOf sQuads
  have : (alignDown 5 pa).toNat = pa.toNat / 32 * 32 := shl_shr_toNat pa 5
  rw [this]
  rcases blkLog_cases h with h | h <;> rw [h] <;> simp only [Nat.reduceSub, Nat.reducePow] <;> omega

theorem quadDwords_append (a b : DWord) : quadDwords (a ++ b) = [a, b] := by
  unfold quadDwords
  have la := a.isLt; have lb := b.isLt
  refine congrArg₂ (fun x y => [x, y]) ?_ ?_ <;>
    (apply BitVec.eq_of_toNat_eq
     rw [BitVec.extractLsb'_toNat, append_toNat, Nat.shiftRight_eq_div_pow]
     omega)

theorem dwordWords_pair (be : Bool) (d : DWord) : dwordWords be d = [(dwordWords be d).getD 0 0#32, (dwordWords be d).getD 1 0#32] := by
  unfold dwordWords; cases be <;> rfl

/-! ## What the arrays hold of a block that came from memory -/

/-- The RAM that a block comes from. -/
theorem BlockMiss.byte {s : State} {pa : PAddr} (h : BlockMiss s pa) {a : Nat} (h1 : (s.hw.blockBase pa).toNat ≤ a)
    (h2 : a < (s.hw.blockBase pa).toNat + 16 * sQuads s.hw) : s.physByte a = Memory.read s.mem a := by
  have : 16 * sQuads s.hw = 2 ^ s.hw.blkLog := by unfold sQuads; rcases blkLog_cases s.hw with h | h <;> rw [h] <;> decide
  unfold State.physByte
  rw [h.ram _ h1 (by omega)]

/-- A doubleword of the block. -/
theorem BlockMiss.dword {s : State} {pa : PAddr} (h : BlockMiss s pa) {a : Nat} (h1 : (s.hw.blockBase pa).toNat ≤ a)
    (h2 : a + 8 ≤ (s.hw.blockBase pa).toNat + 16 * sQuads s.hw) : valueOfBytes s.bigEndianMem (readBytes s.physByte a 8) =
      BitVec.ofNat 64 (orderedValue s.bigEndianMem 8 fun k => Memory.read s.mem (a + k)) := by
  rw [show readBytes s.physByte a 8 = readBytes (Memory.read s.mem) a 8 from ?_, valueOfBytes_readBytes]
  rw [readBytes_eq_map, readBytes_eq_map]
  exact List.map_congr_left fun k hk => h.byte (by omega) (by have := List.mem_range.1 hk; omega)

theorem sQuads_le (h : Hw) : sQuads h ≤ 8 := by unfold sQuads; rcases blkLog_cases h with h | h <;> rw [h] <;> decide

/-- The secondary cache after a block came from memory. -/
theorem fill_squad {s : State} {st vi : BitVec 2} {pa : PAddr} {v : Bool} (h : BlockMiss s pa)
    (hs : sparseWf SQuad.none s.caches.sdata = true) (set : Nat) (way : Bool) {k : Nat} (hk : k < 8) :
    (fillSecondary goodReply st vi pa (sSet s.hw pa) v s).squad set way k =
      if set = sSet s.hw pa ∧ way = v ∧ k < sQuads s.hw then SQuad.of (memoryQuad s ((s.hw.blockBase pa).toNat + 16 * k))
      else s.squad set way k := by
  have h8 := sQuads_le s.hw
  obtain ⟨hl, hq⟩ := quadsOfDwords_getD (sQuads s.hw) (s.physDwords (s.hw.blockBase pa).toNat (2 * sQuads s.hw)) (physDwords_length _ _)
  unfold fillSecondary
  dsimp only
  simp only [goodReply_bad, blockDwords_good, blockBad_zero, Bool.false_eq_true, if_false, incomingQuads_zero]
  rw [writeQuads_squad _ 0 (s.setStag (sSet s.hw pa) v (STag.of (stagOf pa) vi st)) hs (by simp only [List.length_map, hl]; omega)
    set way k hk]
  simp only [List.length_map, hl, Nat.zero_le, true_and, Nat.zero_add, Nat.sub_zero]
  by_cases hc : set = sSet s.hw pa ∧ way = v ∧ k < sQuads s.hw
  · rw [if_pos hc, if_pos hc]
    have : (((quadsOfDwords (s.physDwords (s.hw.blockBase pa).toNat (2 * sQuads s.hw))).map fun q => (q, false)).getD k (0#128, false))
        = ((quadsOfDwords (s.physDwords (s.hw.blockBase pa).toNat (2 * sQuads s.hw))).getD k 0#128, false) := by
      rw [List.getD_eq_getElem?_getD, List.getD_eq_getElem?_getD, List.getElem?_map]
      cases (quadsOfDwords (s.physDwords (s.hw.blockBase pa).toNat (2 * sQuads s.hw)))[k]? <;> rfl
    rw [this]
    simp only [Bool.false_eq_true, if_false]
    rw [hq k hc.2.2, physDwords_getD _ _ _ (by omega), physDwords_getD _ _ _ (by omega)]
    rw [show ∀ b : Nat, b + 8 * (2 * k) = b + 16 * k from fun b => by ring,
      show ∀ b : Nat, b + 8 * (2 * k + 1) = b + 16 * k + 8 from fun b => by ring]
    rw [h.dword (by omega) (by omega), h.dword (by omega) (by omega)]
    rfl
  · rw [if_neg hc, if_neg hc]; rfl

/-- What a block that came from memory leaves in the secondary cache. -/
theorem fill_block {s : State} {st : BitVec 2} {va : DWord} {pa : PAddr} {v : Bool} (h : BlockMiss s pa) (hwf : s.caches.wf = true) :
    blockFilled va pa v st s (fillSecondary goodReply st (vindexOf va) pa (sSet s.hw pa) v s) := by
  unfold Caches.wf at hwf
  simp only [Bool.and_eq_true] at hwf
  have hF := fillSecondary_caches st (vindexOf va) pa (sSet s.hw pa) v s
  refine ⟨fun set way => ?_, fun set way k hk => fill_squad h hwf.1.2 set way hk, by rw [hF]; rfl⟩
  unfold State.stag
  rw [hF]
  show sparseGet _ (sparseSet STag.none s.caches.stag (lineKey _ _) _) _ = _
  rw [sparseGet_set hwf.1.1.2]
  simp only [lineKey_inj]

/-- The words of quadwords that hold memory's doublewords. -/
theorem quad_words {u : State} {set : Nat} {v : Bool} (be : Bool) (m : Nat → DWord) : ∀ (n q b : Nat),
    (∀ k, k < n → (u.squad set v (q + k)).data = m (b + 16 * k) ++ m (b + 16 * k + 8)) →
    (quadsWords be (rawQuads u set v q n)).length = 4 * n ∧
      ∀ k, k < 4 * n → (quadsWords be (rawQuads u set v q n)).getD k 0#32 = (dwordWords be (m (b + 8 * (k / 2)))).getD (k % 2) 0#32 := by
  intro n
  induction n with
  | zero => intro q b h; exact ⟨rfl, fun k hk => absurd hk (Nat.not_lt_zero k)⟩
  | succ n ih =>
    intro q b h
    obtain ⟨h1, h2⟩ := ih (q + 1) (b + 16) (fun k hk => by
      rw [show q + 1 + k = q + (k + 1) by ring, h (k + 1) (by omega), show b + 16 + 16 * k = b + 16 * (k + 1) by ring])
    have h0 := h 0 (by omega)
    have e : quadsWords be (rawQuads u set v q (n + 1)) =
        [(dwordWords be (m b)).getD 0 0#32, (dwordWords be (m b)).getD 1 0#32, (dwordWords be (m (b + 8))).getD 0 0#32,
          (dwordWords be (m (b + 8))).getD 1 0#32] ++ quadsWords be (rawQuads u set v (q + 1) n) := by
      show (quadDwords (u.squad set v q).data).flatMap (dwordWords be) ++ _ = _
      rw [show q = q + 0 from rfl, h0, quadDwords_append]
      simp only [List.flatMap_cons, List.flatMap_nil, List.append_nil]
      conv_lhs => rw [dwordWords_pair be (m (b + 16 * 0)), dwordWords_pair be (m (b + 16 * 0 + 8))]
      rfl
    rw [e]
    refine ⟨by rw [List.length_append, h1]; show 4 + 4 * n = _; ring, fun k hk => ?_⟩
    rw [List.getD_eq_getElem?_getD]
    by_cases hk4 : k < 4
    · rw [List.getElem?_append_left (by exact hk4)]
      obtain rfl | rfl | rfl | rfl : k = 0 ∨ k = 1 ∨ k = 2 ∨ k = 3 := by omega
      all_goals rfl
    · rw [List.getElem?_append_right (by show 4 ≤ k; omega), ← List.getD_eq_getElem?_getD]
      show (quadsWords be (rawQuads u set v (q + 1) n)).getD (k - 4) 0#32 = _
      rw [h2 (k - 4) (by omega), show b + 16 + 8 * ((k - 4) / 2) = b + 8 * (k / 2) by omega, show (k - 4) % 2 = k % 2 by omega]

/-- The quadwords of a line or block of the primary caches within the block they came in. -/
theorem blockFilled.quads {s u : State} {va : DWord} {pa : PAddr} {v : Bool} {st : BitVec 2} (h : blockFilled va pa v st s u)
    {q b n : Nat} (hb : (s.hw.blockBase pa).toNat + 16 * q = b) (hn : q + n ≤ sQuads s.hw) :
    ∀ k, k < n → (u.squad (sSet s.hw pa) v (q + k)).data =
      BitVec.ofNat 64 (orderedValue s.bigEndianMem 8 fun i => Memory.read s.mem (b + 16 * k + i)) ++
        BitVec.ofNat 64 (orderedValue s.bigEndianMem 8 fun i => Memory.read s.mem (b + 16 * k + 8 + i)) := by
  intro k hk
  have := sQuads_le s.hw
  rw [h.2.1 _ _ _ (by omega), if_pos ⟨rfl, rfl, by omega⟩, ← hb]
  show memoryQuad s _ = _
  rw [show (s.hw.blockBase pa).toNat + 16 * (q + k) = (s.hw.blockBase pa).toNat + 16 * q + 16 * k by ring]
  rfl

/-- Byte `off` of a line that came from memory. -/
theorem fillD_dByte {s u : State} {a : CReq} {v : Bool} {st : BitVec 2} (hw : u.hw = s.hw)
    (hd : sparseWf DWordCell.none u.caches.ddata = true) (h : blockFilled a.va a.pa v st s u) {set : Nat} {way : Bool} {off : Nat}
    (ho : off < 32) : (fillD a v u).dByte set way off =
      if set = dSet a.va ∧ way = false then Memory.read s.mem (a.pa.toNat / 32 * 32 + off) else u.dByte set way off := by
  obtain ⟨l1, l2, l3⟩ := line_quad s.hw a.pa
  have e2 : u.bigEndianMem = s.bigEndianMem := by unfold State.bigEndianMem; rw [hw]
  obtain ⟨w1, w2⟩ := quad_words (u := u) s.bigEndianMem
    (fun b => BitVec.ofNat 64 (orderedValue s.bigEndianMem 8 fun i => Memory.read s.mem (b + i))) 2 _ _
    (h.quads (q := quadOf s.hw (alignDown 5 a.pa)) (n := 2) l3 (by omega))
  unfold fillD State.dByte
  rw [hw, e2]
  show ((fillLine _ _ _ _ _).dword _ _ _).byte _ _ = _
  rw [fillLine_dword _ 0 u hd (by rw [w1]) set way (off / 4) (by omega), w1]
  have e3 : (State.setDtag (fillLine (dSet a.va) false 0 (quadsWords s.bigEndianMem (rawQuads u (sSet s.hw a.pa) v (quadOf s.hw (alignDown 5 a.pa)) 2)) u) (dSet a.va) false (DTag.of (ptag a.pa) (u.ctag (sSet s.hw a.pa) v).st 0#3 v)).bigEndianMem = s.bigEndianMem := by
    show State.bigEndianMem (fillLine _ _ _ _ _) = _
    rw [fillLine_frame, ← e2]; rfl
  rw [e3]
  by_cases h : set = dSet a.va ∧ way = false
  · obtain ⟨rfl, rfl⟩ := h
    rw [if_pos ⟨rfl, rfl, Nat.zero_le _, by omega⟩, if_pos ⟨rfl, rfl⟩, Nat.sub_zero, w2 _ (by omega),
      ← valueOfBytes_readBytes s.bigEndianMem (Memory.read s.mem), byte_of_dword _ _ _ _ _ (Nat.mod_lt _ (by decide)) (Nat.mod_lt _ (by decide))]
    congr 1; omega
  · rw [if_neg (by tauto), if_neg h]

/-- The words of a line that came from memory have their parity. -/
theorem fillD_good {u : State} {a : CReq} {v : Bool} (hd : sparseWf DWordCell.none u.caches.ddata = true) {k : Nat} (hk : k < 8) :
    ∃ x, (fillD a v u).dword (dSet a.va) false k = DWordCell.of x := by
  have hl : (quadsWords u.bigEndianMem (rawQuads u (sSet u.hw a.pa) v (quadOf u.hw (alignDown 5 a.pa)) 2)).length = 8 := by
    unfold rawQuads rawQuads rawQuads quadsWords quadsWords quadsWords quadDwords dwordWords
    cases u.bigEndianMem <;> rfl
  have e : (fillD a v u).dword (dSet a.va) false k = (fillLine (dSet a.va) false 0
      (quadsWords u.bigEndianMem (rawQuads u (sSet u.hw a.pa) v (quadOf u.hw (alignDown 5 a.pa)) 2)) u).dword (dSet a.va) false k := rfl
  rw [e, fillLine_dword _ 0 u hd (by rw [hl]) _ _ k hk, if_pos ⟨rfl, rfl, Nat.zero_le _, by rw [hl]; omega⟩]
  exact ⟨_, rfl⟩

theorem dBytesBad_good {s : State} {set : Nat} {w : Bool} (h : ∀ k, k < 8 → ∃ x, s.dword set w k = DWordCell.of x) (n : Nat) : ∀ off, off + n ≤ 32 →
    dBytesBad s set w off n = false := by
  induction n with
  | zero => intro off _; rfl
  | succ n ih =>
    intro off ho
    obtain ⟨x, hx⟩ := h (off / 4) (by omega)
    unfold dBytesBad
    rw [ih (off + 1) (by omega), hx, byteBad_of _ _ _ (Nat.mod_lt _ (by decide))]; rfl

theorem fillLine_wf (set : Nat) (w : Bool) (xs : List Word) : ∀ (k : Nat) (s : State),
    sparseWf DWordCell.none s.caches.ddata = true → sparseWf DWordCell.none (fillLine set w k xs s).caches.ddata = true := by
  induction xs with
  | nil => intro k s h; exact h
  | cons x xs ih => intro k s h; exact ih (k + 1) (s.setDword set w k (DWordCell.of x)) (sparseSet_wf h)

theorem fillD_caches (a : CReq) (v : Bool) (s : State) : (fillD a v s).caches =
    { s.caches with ddata := (fillD a v s).caches.ddata
                    dtag := sparseSet DTag.none s.caches.dtag (lineKey (dSet a.va) false) (DTag.of (ptag a.pa) (s.ctag (sSet s.hw a.pa) v).st 0#3 v) } := by
  unfold fillD
  rw [fillLine_frame]; rfl

/-! ## A store that obtains ownership of its block -/

/-- One way of one set takes the state of its block. -/
def syncWay (st : BitVec 2) (pa : PAddr) (set : Nat) (w : Bool) (s : State) : State :=
  if (s.dtag set w).tag = ptag pa ∧ (s.dtag set w).st ≠ 0#2 then
    s.setDtag set w (DTag.of (s.dtag set w).tag st (s.dtag set w).mod (s.dtag set w).way)
  else s

/-- `t` is `s` but for lines of the data cache, valid ones, that take the state `st`. -/
structure Synced (st : BitVec 2) (s t : State) : Prop where
  frame : t = { s with caches := { s.caches with dtag := t.caches.dtag } }
  wf    : sparseWf DTag.none s.caches.dtag = true → sparseWf DTag.none t.caches.dtag = true
  tags  : sparseWf DTag.none s.caches.dtag = true → ∀ set way, t.dtag set way = s.dtag set way ∨ (s.dtag set way).st ≠ 0#2 ∧
    t.dtag set way = DTag.of (s.dtag set way).tag st (s.dtag set way).mod (s.dtag set way).way

theorem dtag_set {s : State} {set set' : Nat} {w w' : Bool} {x : DTag} (hs : sparseWf DTag.none s.caches.dtag = true) :
    (s.setDtag set w x).dtag set' w' = if set' = set ∧ w' = w then x else s.dtag set' w' := by
  unfold State.dtag State.setDtag State.setCaches
  dsimp only
  rw [sparseGet_set hs]
  simp only [lineKey_inj]

theorem Synced.refl (st : BitVec 2) (s : State) : Synced st s s := ⟨rfl, id, fun _ _ _ => .inl rfl⟩

theorem Synced.trans {st : BitVec 2} {s t u : State} (h : Synced st s t) (k : Synced st t u) : Synced st s u where
  frame := by rw [k.frame, h.frame]
  wf := fun hw => k.wf (h.wf hw)
  tags := fun hw set way => by
    rcases k.tags (h.wf hw) set way with e | ⟨e1, e2⟩ <;> rcases h.tags hw set way with f | ⟨f1, f2⟩
    · exact .inl (e.trans f)
    · exact .inr ⟨f1, e.trans f2⟩
    · rw [f] at e1 e2; exact .inr ⟨e1, e2⟩
    · rw [f2] at e2; exact .inr ⟨f1, e2⟩

theorem Synced.way (st : BitVec 2) (pa : PAddr) (set : Nat) (w : Bool) (s : State) : Synced st s (syncWay st pa set w s) := by
  unfold syncWay
  split
  · next h =>
    refine ⟨rfl, fun hw => sparseSet_wf hw, fun hw set' way => ?_⟩
    rw [dtag_set hw]
    split
    · next e => obtain ⟨rfl, rfl⟩ := e; exact .inr ⟨h.2, rfl⟩
    · exact .inl rfl
  · exact .refl st s

theorem syncPrimary_synced (st vi : BitVec 2) (n : Nat) : ∀ (pa : PAddr) (s : State), Synced st s (syncPrimary st vi pa n s) := by
  induction n with
  | zero => intro pa s; exact .refl st s
  | succ n ih =>
    intro pa s
    exact ((Synced.way st pa (dSetAt vi pa) false s).trans (.way st pa (dSetAt vi pa) true _)).trans (ih _ _)


theorem stag_set {s : State} {set set' : Nat} {w w' : Bool} {x : STag} (hs : sparseWf STag.none s.caches.stag = true) :
    (s.setStag set w x).stag set' w' = if set' = set ∧ w' = w then x else s.stag set' w' := by
  unfold State.stag State.setStag State.setCaches
  dsimp only
  rw [sparseGet_set hs]
  simp only [lineKey_inj]

/-- A block given the state `st`. -/
theorem setBlockState_synced {s : State} {tag : BitVec 22} {vi st0 st : BitVec 2} {set : Nat} {w : Bool} (h : s.stag set w = STag.of tag vi st0) :
    Synced st (s.setStag set w (STag.of tag vi st)) (setBlockState st set w s) := by
  unfold setBlockState
  rw [ctag_proper (by rw [h]; exact properTag_of _ _ _), h]
  exact syncPrimary_synced _ _ _ _ _

/-- The lookup of a block that one way holds. -/
theorem lookupSecondary_here {s : State} {va : DWord} {pa : PAddr} {v : Bool} {st : BitVec 2} (h : InSecondary s va pa v st) (hst : st ≠ 0#2) :
    lookupSecondary pa s = ((some v, false), s) := by
  have hp : ∀ w, properTag (s.stag (sSet s.hw pa) w) := by
    intro w
    rcases Bool.eq_false_or_eq_true (w == v) with e | e
    · rw [beq_iff_eq] at e; subst e; rw [h.here]; exact properTag_of _ _ _
    · have : w = !v := by revert e; cases w <;> cases v <;> decide
      subst this; exact h.proper
  rw [lookupSecondary_proper hp]
  have h1 := h.here; have h2 := h.alone
  cases v
  · rw [h1, if_pos ⟨rfl, hst⟩]
  · rw [if_neg (fun ⟨e, f⟩ => f (h2 e)), h1, if_pos ⟨rfl, hst⟩]

theorem ownSecondary_clean {counted : Bool} {a : CReq} {set : Nat} {x : SWay} {s : State} (h : (s.ctag set x.way).st = 2#2) :
    ownSecondary counted a set x s = .ok (some x) (claim a set x.way (s.count fun e => { e with upClean := e.upClean + counted.toNat })) := by
  unfold ownSecondary
  split
  · next h1 => rw [h] at h1; exact absurd h1 (by decide)
  · rfl
  · next h1 h2 => exact absurd h h2

theorem use_free {a : CReq} {s : State} (h : s.ext.forwarded = []) : use a s = s := by
  unfold use
  split
  · rfl
  · rw [h]
    show ({ s with ext := { s.ext with forwarded := [] } } : State) = s
    rw [← h]

/-- The block of a reference is DirtyExclusive in way `v`: its tag, and valid lines of the data cache. -/
structure Owned (a : CReq) (v : Bool) (s t : State) : Prop where
  frame : t = { s with ext := t.ext, events := t.events, caches := { s.caches with dtag := t.caches.dtag, stag := t.caches.stag } }
  wf    : sparseWf DTag.none s.caches.dtag = true → sparseWf DTag.none t.caches.dtag = true
  stag  : ∀ set way, t.stag set way = if set = sSet s.hw a.pa ∧ way = v then STag.of (stagOf a.pa) (vindexOf a.va) 3#2 else s.stag set way
  tags  : sparseWf DTag.none s.caches.dtag = true → ∀ set way, t.dtag set way = s.dtag set way ∨ (s.dtag set way).st ≠ 0#2 ∧
    t.dtag set way = DTag.of (s.dtag set way).tag 3#2 (s.dtag set way).mod (s.dtag set way).way

/-- The block takes the state DirtyExclusive. -/
theorem Owned.of_synced {a : CReq} {v : Bool} {s m t : State} (hm : m = { s with ext := m.ext, events := m.events })
    (hs : sparseWf STag.none s.caches.stag = true)
    (h : Synced 3#2 (m.setStag (sSet s.hw a.pa) v (STag.of (stagOf a.pa) (vindexOf a.va) 3#2)) t) : Owned a v s t where
  frame := by
    have e := h.frame
    rw [e, hm]; rfl
  wf := fun w => h.wf (by rw [hm]; exact w)
  stag := fun set way => by
    rw [h.frame]
    show State.stag (m.setStag _ _ _) _ _ = _
    rw [stag_set (by rw [hm]; exact hs), hm]; rfl
  tags := fun w => by
    have := h.tags (by rw [hm]; exact w)
    rw [hm] at this; exact this

/-- A reference for ownership obtains it of a block that is in way `v`: a Shared one is upgraded on the System interface. -/
theorem ownIfNeeded_own {s : State} {a : CReq} {v f m counted : Bool} {st : BitVec 2} (hx : a.excl = true) (hup : a.upState = 3#2)
    (hpf : a.pref = false) (h : s.stag (sSet s.hw a.pa) v = STag.of (stagOf a.pa) (vindexOf a.va) st) (h0 : st ≠ 0#2)
    (hr : st = 1#2 → s.ext.replies = []) (hf : s.busFree) (hwf : sparseWf STag.none s.caches.stag = true) :
    ∃ t : State, Owned a v s t ∧
      t.ext = (if st = 1#2 then { s.ext with bus := .upgrade 0#3 a.pa a.upCause 1#2 v :: s.ext.bus } else s.ext) ∧
      ownIfNeeded counted a (sSet s.hw a.pa) { way := v, fresh := f, missed := m } s = .ok (some { way := v, fresh := f, missed := m }) t := by
  have hc : s.ctag (sSet s.hw a.pa) v = STag.of (stagOf a.pa) (vindexOf a.va) st := by
    rw [ctag_proper (by rw [h]; exact properTag_of _ _ _), h]
  unfold ownIfNeeded
  rw [hx]
  simp only [if_true]
  have cases : st = 1#2 ∨ st = 2#2 ∨ st = 3#2 := by revert h0; clear h hr hc; revert st; decide
  rcases cases with rfl | rfl | rfl
  · unfold ownSecondary
    dsimp only
    rw [hc]
    rw [show (STag.of (stagOf a.pa) (vindexOf a.va) 1#2).st = 1#2 from rfl]
    rw [makeRoom_free hf, Res.bind_ok, coherencyPending_free hf,
      show sharedHere a (sSet s.hw a.pa) v s = true by
        unfold sharedHere; rw [hc]
        exact Bool.and_eq_true_iff.2 ⟨beq_self_eq_true' _, beq_self_eq_true' _⟩]
    simp only [Bool.not_true, Bool.or_self, Bool.false_eq_true, if_false]
    obtain ⟨r, hr1⟩ : ∃ r, r = s.count (fun e => { e with upShared := e.upShared + 1 }) := ⟨_, rfl⟩
    rw [← hr1]
    have r0 : r = { s with events := r.events } := by rw [hr1]; rfl
    have r3 : r.busFree := by rw [r0]; exact hf.of_ext rfl
    rw [nextNumber_free r3]
    have e1 : retire (upgradeEntry a v 0#3) (request (.upgrade (upgradeEntry a v 0#3).rq a.pa a.upCause 1#2 v) (upgradeEntry a v 0#3) r) =
      { r with ext := { r.ext with bus := .upgrade 0#3 a.pa a.upCause 1#2 v :: r.ext.bus } } := by
      unfold retire request State.emit; simp [r3.answered, upgradeEntry]
    have e2 : (request (.upgrade (upgradeEntry a v 0#3).rq a.pa a.upCause 1#2 v) (upgradeEntry a v 0#3) r).ext.replies = [] := by
      show r.ext.replies = []; rw [r0]; exact hr rfl
    generalize request (.upgrade (upgradeEntry a v 0#3).rq a.pa a.upCause 1#2 v) (upgradeEntry a v 0#3) r = p at *
    unfold settle
    rw [show ((upgradeEntry a v 0#3).isRead && (upgradeEntry a v 0#3).buffered.isNone) = false from rfl, receive_default _ _ e2]
    unfold answer
    dsimp only
    rw [show (upgradeEntry a v 0#3).isRead = false from rfl, show (upgradeEntry a v 0#3).buffered = none from rfl]
    simp only [Bool.false_and, Bool.false_eq_true, if_false]
    rw [e1]
    generalize hm : ({ r with ext := { r.ext with bus := .upgrade 0#3 a.pa a.upCause 1#2 v :: r.ext.bus } } : State) = m
    have mF : m = { s with ext := m.ext, events := m.events } := by rw [← hm, r0]
    have m2 : m.stag (sSet s.hw a.pa) v = STag.of (stagOf a.pa) (vindexOf a.va) 1#2 := by rw [mF]; exact h
    have m3 : m.ctag (sSet s.hw a.pa) v = STag.of (stagOf a.pa) (vindexOf a.va) 1#2 := by rw [ctag_proper (by rw [m2]; exact properTag_of _ _ _), m2]
    have m4 : m.hw = s.hw := by rw [mF]
    unfold acceptUpgrade
    rw [show (upgradeEntry a v 0#3).pa = a.pa from rfl, show (upgradeEntry a v 0#3).way = v from rfl, show (upgradeEntry a v 0#3).upState = 3#2 from hup, m4]
    dsimp only
    rw [m3, if_pos (show (STag.of (stagOf a.pa) (vindexOf a.va) 1#2).tag = stagOf a.pa ∧ (STag.of (stagOf a.pa) (vindexOf a.va) 1#2).st = 1#2 from ⟨rfl, rfl⟩)]
    unfold afterReply
    dsimp only
    rw [errGate_good, Res.bind_ok]
    have hS := setBlockState_synced (s := m) (st := 3#2) m2
    generalize setBlockState 3#2 (sSet s.hw a.pa) v m = t at hS
    have hO := Owned.of_synced mF hwf hS
    refine ⟨t, hO, ?_, ?_⟩
    · rw [if_pos trivial, hS.frame]
      show m.ext = _
      rw [← hm, r0]
    · have t1 : t.stag (sSet s.hw a.pa) v = STag.of (stagOf a.pa) (vindexOf a.va) 3#2 := by rw [hO.stag, if_pos ⟨rfl, rfl⟩]
      unfold claim
      rw [ctag_proper (by rw [t1]; exact properTag_of _ _ _), t1, if_neg (by rintro ⟨_, h⟩; exact h rfl)]
      rw [Bool.or_false]
  · rw [ownSecondary_clean (by dsimp only; rw [hc]; rfl)]
    obtain ⟨r, hr1⟩ : ∃ r, r = s.count (fun e => { e with upClean := e.upClean + counted.toNat }) := ⟨_, rfl⟩
    rw [← hr1]
    have r0 : r = { s with ext := r.ext, events := r.events } := by rw [hr1]; rfl
    have r1 : r.stag (sSet s.hw a.pa) v = STag.of (stagOf a.pa) (vindexOf a.va) 2#2 := by rw [r0]; exact h
    have r2 : r.ctag (sSet s.hw a.pa) v = STag.of (stagOf a.pa) (vindexOf a.va) 2#2 := by rw [r0]; exact hc
    have hS := setBlockState_synced (s := r) (st := 3#2) r1
    refine ⟨setBlockState 3#2 (sSet s.hw a.pa) v r, Owned.of_synced r0 hwf hS, ?_, ?_⟩
    · rw [if_neg (by decide), hS.frame]
      show r.ext = _
      rw [hr1]; rfl
    · dsimp only
      unfold claim
      rw [r2, if_pos (show a.pref = false ∧ (STag.of (stagOf a.pa) (vindexOf a.va) 2#2).st ≠ 3#2 from ⟨hpf, by show (2#2 : BitVec 2) ≠ _; decide⟩)]
  · refine ⟨s, ⟨rfl, id, fun set way => ?_, fun _ _ _ => .inl rfl⟩, (if_neg (by decide)).symm, ?_⟩
    · split
      · next e => rw [e.1, e.2, h]
      · rfl
    · unfold ownSecondary
      dsimp only
      rw [hc]
      rfl

/-- A store's reference to a block that is not DirtyExclusive yet: it becomes so. -/
theorem secondaryAccess_own {s : State} {a : CReq} {v : Bool} {st : BitVec 2} (hx : a.excl = true) (hup : a.upState = 3#2) (hpf : a.pref = false)
    (h : InSecondary s a.va a.pa v st) (hst : st = 1#2 ∧ s.ext.replies = [] ∨ st = 2#2) (hf : s.busFree)
    (hwf : sparseWf STag.none s.caches.stag = true) :
    ∃ (ev : CacheEvents) (t : State), Owned a v { s.setMru (mruIndex s a.pa) v with events := ev } t ∧
      t.ext = (if st = 1#2 then { s.ext with bus := .upgrade 0#3 a.pa a.upCause 1#2 v :: s.ext.bus } else s.ext) ∧
      secondaryAccess a s = .ok (some { way := v, fresh := false, missed := false }) t := by
  have hst0 : st ≠ 0#2 := by rcases hst with ⟨h, _⟩ | h <;> rw [h] <;> decide
  unfold secondaryAccess pendingFor
  rw [hf.answered, List.find?_nil]
  dsimp only
  rw [lookupSecondary_here h hst0]
  simp only
  rw [errGate_good, Res.bind_ok]
  show ∃ ev t, _ ∧ _ ∧ hitSecondary _ _ _ _ = _
  unfold hitSecondary
  dsimp only
  rw [use_free (s := State.count s _) hf.used]
  suffices H : ∀ ce : CacheEvents → CacheEvents, ∃ (ev : CacheEvents) (t : State),
      Owned a v { s.setMru (mruIndex s a.pa) v with events := ev } t ∧
      t.ext = (if st = 1#2 then { s.ext with bus := .upgrade 0#3 a.pa a.upCause 1#2 v :: s.ext.bus } else s.ext) ∧
      ownIfNeeded true a (sSet s.hw a.pa) { way := v, fresh := false, missed := false }
        (reindexSecondary a (sSet s.hw a.pa) v ((s.count ce).setMru (mruIndex (s.count ce) a.pa) v)) = .ok (some { way := v, fresh := false, missed := false }) t from H _
  intro ce
  have e0 : (s.count ce).setMru (mruIndex (s.count ce) a.pa) v = { s.setMru (mruIndex s a.pa) v with events := ce s.events } := rfl
  rw [e0]
  generalize hq : ({ s.setMru (mruIndex s a.pa) v with events := ce s.events } : State) = q
  have q6 : q.hw = s.hw := by rw [← hq]; rfl
  have q4 : q.ext = s.ext := by rw [← hq]; rfl
  have q1 : q.stag (sSet q.hw a.pa) v = STag.of (stagOf a.pa) (vindexOf a.va) st := by rw [← hq]; exact h.here
  have q2 : q.ctag (sSet s.hw a.pa) v = STag.of (stagOf a.pa) (vindexOf a.va) st := by
    rw [q6] at q1
    rw [ctag_proper (by rw [q1]; exact properTag_of _ _ _), q1]
  unfold reindexSecondary
  rw [q2]
  rw [if_pos (show (STag.of (stagOf a.pa) (vindexOf a.va) st).vindex = vindexOf a.va from rfl)]
  obtain ⟨t, hO, he, h⟩ := ownIfNeeded_own (s := q) (f := false) (m := false) (counted := true) hx hup hpf q1 hst0
    (fun h => by rw [q4]; rcases hst with h' | h'; exacts [h'.2, absurd (h.symm.trans h') (by decide)])
    (hf.of_ext q4) (by rw [← hq]; exact hwf)
  rw [q6] at h
  exact ⟨ce s.events, t, hq ▸ hO, by rw [he, q4], h⟩

/-- A line that hits still hits when valid lines become DirtyExclusive. -/
theorem Owned.hit {a : CReq} {v : Bool} {s t : State} (h : Owned a v s t) (hw : sparseWf DTag.none s.caches.dtag = true)
    (va : DWord) (pa : PAddr) : dHit t va pa = dHit s va pa := by
  have e : ∀ w, ((t.dtag (dSet va) w).tag = ptag pa ∧ (t.dtag (dSet va) w).st ≠ 0#2) ↔ ((s.dtag (dSet va) w).tag = ptag pa ∧ (s.dtag (dSet va) w).st ≠ 0#2) := by
    intro w
    rcases h.tags hw (dSet va) w with e | ⟨e1, e2⟩
    · rw [e]
    · rw [e2]; exact ⟨fun h => ⟨h.1, e1⟩, fun h => ⟨h.1, by show (3#2 : BitVec 2) ≠ 0#2; decide⟩⟩
  unfold dHit
  dsimp only
  simp only [e]

/-- A store's reference that hits a line of a block to be owned. -/
theorem dAccess_own {s : State} {a : CReq} {w v : Bool} {st : BitVec 2} (hx : a.excl = true) (hup : a.upState = 3#2) (hpf : a.pref = false)
    (ht : (checkDTags a.va s).1 = false) (hr : dRefilling s a.va a.pa = false) (hh : dHit s a.va a.pa = some w)
    (hn : (s.dtag (dSet a.va) w).st ≠ 3#2)
    (h : InSecondary s a.va a.pa v st) (hst : st = 1#2 ∧ s.ext.replies = [] ∨ st = 2#2) (hf : s.busFree) (hwf : s.caches.wf = true) :
    ∃ (ev : CacheEvents) (sc : Sctp) (t : State),
      Owned a v { (s.setDlru (dSet a.va) (!w)).setMru (mruIndex s a.pa) v with events := ev, sctp := sc } t ∧
      t.ext = (if st = 1#2 then { s.ext with bus := .upgrade 0#3 a.pa a.upCause 1#2 v :: s.ext.bus } else s.ext) ∧
      dAccess a s = .ok (some w) t := by
  unfold Caches.wf at hwf
  simp only [Bool.and_eq_true] at hwf
  obtain ⟨ev0, sc, h0⟩ := enterSctp_frame a (fun e => { e with dcClean := e.dcClean + 1 }) (s.setDlru (dSet a.va) (!w))
  obtain ⟨ev, t, hS, he, e⟩ := secondaryAccess_own (s := { s.setDlru (dSet a.va) (!w) with events := ev0, sctp := sc }) (a := a) hx hup hpf
    ⟨h.here, h.proper, h.alone⟩ hst (hf.of_ext rfl) hwf.1.1.2
  refine ⟨ev, sc, t, hS, he, ?_⟩
  unfold dAccess
  rw [checkDTags_good ht]
  dsimp only
  rw [errGate_good, Res.bind_ok, if_neg (by rw [hr]; decide), hh]
  dsimp only
  rw [if_pos ⟨hx, hn⟩, h0, e, Res.bind_ok]
  dsimp only
  have : dHit t a.va a.pa = some w := by
    rw [hS.hit hwf.1.1.1.1.1.2]
    exact hh
  rw [this]

/-! ## A reference whose line comes from memory -/

/-- A reference brought its line from memory into way 0 of its set; the block is in way `v` in the state `st`. -/
structure Brought (a : CReq) (v : Bool) (st : BitVec 2) (s u : State) : Prop where
  frame  : u = { s with cp0 := { s.cp0 with perf := { s.cp0.perf with missAddr := u.cp0.perf.missAddr } }
                        ext := u.ext, caches := u.caches, events := u.events, sctp := u.sctp }
  line   : u.dtag (dSet a.va) false = DTag.of (ptag a.pa) st 0#3 v
  others : ∀ set way, ¬ (set = dSet a.va ∧ way = false) → u.dtag set way = s.dtag set way ∨ a.excl = true ∧
    (s.dtag set way).st ≠ 0#2 ∧ u.dtag set way = DTag.of (s.dtag set way).tag 3#2 (s.dtag set way).mod (s.dtag set way).way
  bytes  : ∀ set way off, off < 32 → u.dByte set way off = if set = dSet a.va ∧ way = false
    then Memory.read s.mem (a.pa.toNat / 32 * 32 + off) else s.dByte set way off
  good   : ∀ k, k < 8 → ∃ x, u.dword (dSet a.va) false k = DWordCell.of x
  dlru   : ∀ set, u.dlru set = if set = dSet a.va then true else s.dlru set
  block  : blockFilled a.va a.pa v st s u
  same   : u.caches.itag = s.caches.itag ∧ u.caches.idata = s.caches.idata ∧ u.caches.ilru = s.caches.ilru
  wfTag  : sparseWf DTag.none u.caches.dtag = true
  wfData : sparseWf DWordCell.none u.caches.ddata = true

/-- The requests of a reference that misses: the block read, and for ownership of a block that comes Shared an upgrade. -/
def missRequests (a : CReq) (v : Bool) (st : BitVec 2) (bus : List BusReq) : List BusReq :=
  if a.excl = true ∧ st = 1#2 then
    .upgrade 0#3 a.pa a.upCause 1#2 v :: .blockRead 0#3 a.pa (readCommand a) a.cause 0#2 v :: bus
  else .blockRead 0#3 a.pa (readCommand a) a.cause 0#2 v :: bus

/-- The block arrives and the reference has it as it needs it; the primary caches are as they were but for states of valid
lines. -/
theorem secondaryAccess_brings {s : State} {a : CReq} {v : Bool} {st : BitVec 2} (h : BlockMiss s a.pa) (hwf : s.caches.wf = true)
    (hv : s.mru (mruIndex s a.pa) = v) (hst : responseState (readCommand a) s.hw.readState = st) (h0 : st ≠ 0#2)
    (hx : a.excl = true → a.upState = 3#2 ∧ a.pref = false) :
    ∃ t : State, secondaryAccess a s = .ok (some { way := v, fresh := true, missed := true }) t ∧
      t = { s with ext := t.ext, events := t.events, sctp := t.sctp
                   caches := { s.caches with dtag := t.caches.dtag, stag := t.caches.stag, sdata := t.caches.sdata } } ∧
      t.ext = { s.ext with bus := missRequests a v st s.ext.bus } ∧
      blockFilled a.va a.pa v (if a.excl then 3#2 else st) s t ∧ (a.excl = false → t.caches.dtag = s.caches.dtag) ∧
      sparseWf DTag.none t.caches.dtag = true ∧
      ∀ set way, t.dtag set way = s.dtag set way ∨ a.excl = true ∧
        (s.dtag set way).st ≠ 0#2 ∧ t.dtag set way = DTag.of (s.dtag set way).tag 3#2 (s.dtag set way).mod (s.dtag set way).way := by
  obtain ⟨ev, sc, e⟩ := secondaryAccess_miss h hv hst
  have hB := fill_block (st := st) (va := a.va) (v := v) h hwf
  have hC := fillSecondary_caches st (vindexOf a.va) a.pa (sSet s.hw a.pa) v s
  have hF := fillSecondary_frame st (vindexOf a.va) a.pa (sSet s.hw a.pa) v s
  generalize fillSecondary goodReply st (vindexOf a.va) a.pa (sSet s.hw a.pa) v s = f at *
  unfold Caches.wf at hwf
  simp only [Bool.and_eq_true] at hwf
  have hD : f.caches.dtag = s.caches.dtag := by rw [hC]; rfl
  generalize hg : ({ f with ext := { s.ext with bus := .blockRead 0#3 a.pa (readCommand a) a.cause 0#2 v :: s.ext.bus }, events := ev, sctp := sc } : State) = g at e
  have gF : g = { s with ext := g.ext, events := g.events, sctp := g.sctp, caches := { s.caches with stag := g.caches.stag, sdata := g.caches.sdata } } := by
    rw [← hg, hF, hC]; rfl
  have gE : g.ext = { s.ext with bus := .blockRead 0#3 a.pa (readCommand a) a.cause 0#2 v :: s.ext.bus } := by rw [← hg]
  have gB : blockFilled a.va a.pa v st s g := by rw [← hg]; exact hB
  have gH : g.hw = s.hw := by rw [gF]
  cases hxe : a.excl
  · refine ⟨g, by rw [e]; unfold ownIfNeeded; rw [hxe]; rfl, ?_, ?_, gB, fun _ => by rw [gF], ?_, fun set way => .inl ?_⟩
    · rw [gF]
    · rw [gE, missRequests, if_neg (by rw [hxe]; simp)]
    · rw [gF]; exact hwf.1.1.1.1.1.2
    · rw [gF]; rfl
  · have g1 : g.stag (sSet g.hw a.pa) v = STag.of (stagOf a.pa) (vindexOf a.va) st := by rw [gH, gB.1, if_pos ⟨rfl, rfl⟩]
    have gW : sparseWf STag.none g.caches.stag = true := by
      rw [← hg]; show sparseWf _ f.caches.stag = true; rw [hC]; exact sparseSet_wf hwf.1.1.2
    have gU : g.busFree := by
      have := h.free
      exact ⟨by rw [gE]; exact this.issued, by rw [gE]; exact this.queued, by rw [gE]; exact this.gathered, by rw [gE]; exact this.answered,
        by rw [gE]; exact this.external, by rw [gE]; exact this.used, by rw [gE]; exact this.reads, by rw [gE]; exact this.writes⟩
    obtain ⟨t, hO, he, ho⟩ := ownIfNeeded_own (s := g) (f := true) (m := true) (counted := false) hxe (hx hxe).1 (hx hxe).2 g1 h0
      (fun _ => by rw [gE]; exact h.answered) gU gW
    rw [gH] at ho
    have gD : sparseWf DTag.none g.caches.dtag = true := by rw [gF]; exact hwf.1.1.1.1.1.2
    refine ⟨t, e.trans ho, ?_, ?_, ⟨fun set way => ?_, fun set way k hk => ?_, ?_⟩, (fun q => by cases q), hO.wf gD, fun set way => ?_⟩
    · rw [hO.frame, gF]
    · rw [he, gE]
      by_cases h1 : st = 1#2
      · rw [if_pos h1, missRequests, if_pos ⟨hxe, h1⟩]
      · rw [if_neg h1, missRequests, if_neg (by tauto)]
    · rw [hO.stag, gH]
      split
      · rfl
      · next hn => rw [gB.1, if_neg hn]
    · rw [← gB.2.1 set way k hk, hO.frame]; rfl
    · rw [hO.frame]; exact gB.2.2
    · rcases hO.tags gD set way with q | ⟨q1, q2⟩
      · left; rw [q, gF]; rfl
      · right
        have : g.dtag set way = s.dtag set way := by rw [gF]; rfl
        rw [this] at q1 q2; exact ⟨rfl, q1, q2⟩

theorem responseState_ne {cmd : BitVec 3} {st : BitVec 2} : responseState cmd st ≠ 0#2 := by
  unfold responseState
  split
  · decide
  · next h => split <;> [decide; exact h]

/-- A data reference that misses both caches. -/
theorem dAccess_brings {s : State} {a : CReq} {v : Bool} {st : BitVec 2} (h : BlockMiss s a.pa) (hwf : s.caches.wf = true)
    (ht : (checkDTags a.va s).1 = false) (hr : dRefilling s a.va a.pa = false) (hd : ∀ w, (s.dtag (dSet a.va) w).st = 0#2)
    (hv : s.mru (mruIndex s a.pa) = v) (hst : responseState (readCommand a) s.hw.readState = st)
    (hx : a.excl = true → a.upState = 3#2 ∧ a.pref = false) :
    ∃ u : State, dAccess a s = .ok (some false) u ∧ Brought a v (if a.excl then 3#2 else st) s u ∧
      u.ext = { s.ext with bus := missRequests a v st s.ext.bus } := by
  have w0 := hwf
  unfold Caches.wf at w0
  simp only [Bool.and_eq_true] at w0
  unfold dAccess
  rw [checkDTags_good ht]
  dsimp only
  rw [errGate_good, Res.bind_ok, if_neg (by rw [hr]; decide), dHit_empty hd]
  dsimp only
  unfold dMiss
  dsimp only
  obtain ⟨ev0, sc0, h0⟩ := enterSctp_frame a (fun e => { e with dcMiss := e.dcMiss + 1 }) s
  rw [h0]
  obtain ⟨t, e, tF, tE, tB, -, tW, tD⟩ := secondaryAccess_brings (s := { s with events := ev0, sctp := sc0 }) (a := a) (v := v) (st := st)
    ⟨h.secondary, h.free.of_ext rfl, h.answered, h.choice, h.ram⟩ hwf hv hst (hst ▸ responseState_ne) hx
  rw [e, Res.bind_ok]
  dsimp only
  obtain ⟨ce, hce⟩ : ∃ ce : CacheEvents, State.count t (fun e => { e with prefFills := e.prefFills + (Option.isSome (some ({ way := v, fresh := true, missed := true } : SWay)) || e.scMissD != s.events.scMissD).toNat })
    = { t with events := ce } := ⟨_, rfl⟩
  rw [hce]
  generalize hst2 : (if a.excl then 3#2 else st : BitVec 2) = st2 at *
  have tF' : t = { s with ext := t.ext, events := t.events, sctp := t.sctp
                          caches := { s.caches with dtag := t.caches.dtag, stag := t.caches.stag, sdata := t.caches.sdata } } := tF
  have tB' : blockFilled a.va a.pa v st2 s t := tB
  have tD' : ∀ set way, t.dtag set way = s.dtag set way ∨ a.excl = true ∧
        (s.dtag set way).st ≠ 0#2 ∧ t.dtag set way = DTag.of (s.dtag set way).tag 3#2 (s.dtag set way).mod (s.dtag set way).way := tD
  have tH : t.hw = s.hw := by rw [tF']
  have tdd : t.caches.ddata = s.caches.ddata := by rw [tF']
  have td0 : ∀ w, (State.dtag { t with events := ce } (dSet a.va) w).st = 0#2 := by
    intro w
    rcases tD' (dSet a.va) w with q | ⟨_, q, _⟩
    · exact (congrArg DTag.st q).trans (hd w)
    · exact absurd (hd w) q
  rw [refillD_fresh td0 (by show t.ext.victims = []; rw [tE]; exact h.choice), Res.bind_ok]
  obtain ⟨m, hm⟩ := recordMiss_frame a true (fillD a v { t with events := ce })
  rw [hm]
  refine ⟨_, rfl, ?_, ?_⟩
  swap
  · show (fillD a v { t with events := ce }).ext = _
    rw [fillD_frame]; exact tE
  have yF := fillD_frame a v { t with events := ce }
  have yC := fillD_caches a v { t with events := ce }
  have yB := fun set way off ho => fillD_dByte (s := s) (u := { t with events := ce }) (a := a) (v := v) (st := st2) tH (by show sparseWf _ t.caches.ddata = true; rw [tdd]; exact w0.1.1.1.1.2) tB' (set := set) (way := way) (off := off) ho
  have yG := fun k hk => fillD_good (u := { t with events := ce }) (a := a) (v := v) (by show sparseWf _ t.caches.ddata = true; rw [tdd]; exact w0.1.1.1.1.2) (k := k) hk
  have yW : sparseWf DWordCell.none (fillD a v { t with events := ce }).caches.ddata = true := by
    unfold fillD
    exact fillLine_wf _ _ _ 0 _ (by show sparseWf _ t.caches.ddata = true; rw [tdd]; exact w0.1.1.1.1.2)
  have hct : (State.ctag { t with events := ce } (sSet t.hw a.pa) v).st = st2 := by
    rw [tH]
    have : t.stag (sSet s.hw a.pa) v = STag.of (stagOf a.pa) (vindexOf a.va) st2 := by rw [tB'.1, if_pos ⟨rfl, rfl⟩]
    show (t.ctag _ _).st = _
    rw [ctag_proper (by rw [this]; exact properTag_of _ _ _), this]; rfl
  rw [show (sSet (State.hw { t with events := ce }) a.pa) = sSet t.hw a.pa from rfl, hct] at yC
  generalize hy : fillD a v { t with events := ce } = y at *
  have yd : ∀ set way, y.dtag set way = if set = dSet a.va ∧ way = false then DTag.of (ptag a.pa) st2 0#3 v else t.dtag set way := by
    intro set way
    unfold State.dtag
    rw [yC]
    show sparseGet _ (sparseSet DTag.none t.caches.dtag (lineKey _ _) _) _ = _
    rw [sparseGet_set tW]
    simp only [lineKey_inj]
  have yH : y.hw = s.hw := by rw [yF]; exact tH
  have yE : y.bigEndianMem = s.bigEndianMem := by unfold State.bigEndianMem; rw [yH]
  constructor
  · show ({ y.setDlru (dSet a.va) (!false) with cp0 := _ } : State) = _
    rw [yF, tF']; rfl
  · exact (yd _ _).trans (if_pos ⟨rfl, rfl⟩)
  · intro set way hn
    have := (yd set way).trans (if_neg hn)
    rcases tD' set way with q | q
    · left; exact this.trans q
    · right; exact ⟨q.1, q.2.1, this.trans q.2.2⟩
  · intro set way off ho
    show y.dByte set way off = _
    rw [yB set way off ho]
    split
    · rfl
    · show t.dByte set way off = _
      unfold State.dByte State.dword State.bigEndianMem; rw [tdd, tH]
  · exact yG
  · intro set
    show sparseGet _ (sparseSet false y.caches.dlru _ _) _ = _
    have : y.caches.dlru = s.caches.dlru := by rw [yC]; show t.caches.dlru = _; rw [tF']
    rw [this, sparseGet_set w0.1.1.1.2]; rfl
  · refine ⟨fun set way => ?_, fun set way k hk => ?_, ?_⟩
    · rw [← tB'.1 set way]; show sparseGet _ y.caches.stag _ = _; rw [yC]; rfl
    · rw [← tB'.2.1 set way k hk]; show sparseGet _ y.caches.sdata _ = _; rw [yC]; rfl
    · show y.caches.mru = _; rw [yC]; exact tB'.2.2
  · show y.caches.itag = _ ∧ y.caches.idata = _ ∧ y.caches.ilru = _
    rw [yC, tF']; exact ⟨rfl, rfl, rfl⟩
  · show sparseWf DTag.none y.caches.dtag = true
    rw [yC]; exact sparseSet_wf tW
  · exact yW

end Sys2Proof.Machine
end

