-- ==== Sys2Proof/Laws/PerInstr.lean ====
section
/-! SUPPORT. The per-instruction family `Encoding`: the word that the encoder writes for an instruction is an
instruction word, never a reserved encoding (spec/30_encoding.md R402 to R410).  One lemma per constructor; that the
instruction read back is the same one is a statement of Certificates/Slice0/Obligations.lean. -/

namespace Sys2Proof.Laws.Encoding

/-- The decoder takes the word of `i` for an instruction. -/
def Statement (i : Instr) : Prop := ∃ j, decode (encode i) = .ok j

/-! ## The opcode groups -/

theorem special (w : Word) (h : w.extractLsb' 26 6 = 0x00#6) : decode w = decodeSpecial w := by
  unfold decode; rw [h]; rfl

theorem regimm (w : Word) (h : w.extractLsb' 26 6 = 0x01#6) : decode w = decodeRegimm w := by
  unfold decode; rw [h]; rfl

theorem cop0 (w : Word) (h : w.extractLsb' 26 6 = 0x10#6) : decode w = decodeCop0 w := by
  unfold decode; rw [h]; rfl

theorem cop1 (w : Word) (h : w.extractLsb' 26 6 = 0x11#6) : decode w = decodeCop1 w := by
  unfold decode; rw [h]; rfl

theorem cop1x (w : Word) (h : w.extractLsb' 26 6 = 0x13#6) : decode w = decodeCop1x w := by
  unfold decode; rw [h]; rfl

/-! ## One lemma per instruction -/

theorem add (rs : BitVec 5) (rt : BitVec 5) (rd : BitVec 5) : Statement (.add rs rt rd) := by
  rw [Statement, special (encode (.add rs rt rd)) (encR_op ..)]
  unfold decodeSpecial
  rw [show (encode (.add rs rt rd)).extractLsb' 0 6 = 0x20#6 from encR_fn ..]
  exact ⟨_, rfl⟩

theorem addu (rs : BitVec 5) (rt : BitVec 5) (rd : BitVec 5) : Statement (.addu rs rt rd) := by
  rw [Statement, special (encode (.addu rs rt rd)) (encR_op ..)]
  unfold decodeSpecial
  rw [show (encode (.addu rs rt rd)).extractLsb' 0 6 = 0x21#6 from encR_fn ..]
  exact ⟨_, rfl⟩

theorem sub (rs : BitVec 5) (rt : BitVec 5) (rd : BitVec 5) : Statement (.sub rs rt rd) := by
  rw [Statement, special (encode (.sub rs rt rd)) (encR_op ..)]
  unfold decodeSpecial
  rw [show (encode (.sub rs rt rd)).extractLsb' 0 6 = 0x22#6 from encR_fn ..]
  exact ⟨_, rfl⟩

theorem subu (rs : BitVec 5) (rt : BitVec 5) (rd : BitVec 5) : Statement (.subu rs rt rd) := by
  rw [Statement, special (encode (.subu rs rt rd)) (encR_op ..)]
  unfold decodeSpecial
  rw [show (encode (.subu rs rt rd)).extractLsb' 0 6 = 0x23#6 from encR_fn ..]
  exact ⟨_, rfl⟩

theorem addi (rs : BitVec 5) (rt : BitVec 5) (imm : BitVec 16) : Statement (.addi rs rt imm) := by
  unfold Statement decode
  rw [show (encode (.addi rs rt imm)).extractLsb' 26 6 = 0x08#6 from encI_op ..]
  exact ⟨_, rfl⟩

theorem addiu (rs : BitVec 5) (rt : BitVec 5) (imm : BitVec 16) : Statement (.addiu rs rt imm) := by
  unfold Statement decode
  rw [show (encode (.addiu rs rt imm)).extractLsb' 26 6 = 0x09#6 from encI_op ..]
  exact ⟨_, rfl⟩

theorem dadd (rs : BitVec 5) (rt : BitVec 5) (rd : BitVec 5) : Statement (.dadd rs rt rd) := by
  rw [Statement, special (encode (.dadd rs rt rd)) (encR_op ..)]
  unfold decodeSpecial
  rw [show (encode (.dadd rs rt rd)).extractLsb' 0 6 = 0x2c#6 from encR_fn ..]
  exact ⟨_, rfl⟩

theorem daddu (rs : BitVec 5) (rt : BitVec 5) (rd : BitVec 5) : Statement (.daddu rs rt rd) := by
  rw [Statement, special (encode (.daddu rs rt rd)) (encR_op ..)]
  unfold decodeSpecial
  rw [show (encode (.daddu rs rt rd)).extractLsb' 0 6 = 0x2d#6 from encR_fn ..]
  exact ⟨_, rfl⟩

theorem dsub (rs : BitVec 5) (rt : BitVec 5) (rd : BitVec 5) : Statement (.dsub rs rt rd) := by
  rw [Statement, special (encode (.dsub rs rt rd)) (encR_op ..)]
  unfold decodeSpecial
  rw [show (encode (.dsub rs rt rd)).extractLsb' 0 6 = 0x2e#6 from encR_fn ..]
  exact ⟨_, rfl⟩

theorem dsubu (rs : BitVec 5) (rt : BitVec 5) (rd : BitVec 5) : Statement (.dsubu rs rt rd) := by
  rw [Statement, special (encode (.dsubu rs rt rd)) (encR_op ..)]
  unfold decodeSpecial
  rw [show (encode (.dsubu rs rt rd)).extractLsb' 0 6 = 0x2f#6 from encR_fn ..]
  exact ⟨_, rfl⟩

theorem daddi (rs : BitVec 5) (rt : BitVec 5) (imm : BitVec 16) : Statement (.daddi rs rt imm) := by
  unfold Statement decode
  rw [show (encode (.daddi rs rt imm)).extractLsb' 26 6 = 0x18#6 from encI_op ..]
  exact ⟨_, rfl⟩

theorem daddiu (rs : BitVec 5) (rt : BitVec 5) (imm : BitVec 16) : Statement (.daddiu rs rt imm) := by
  unfold Statement decode
  rw [show (encode (.daddiu rs rt imm)).extractLsb' 26 6 = 0x19#6 from encI_op ..]
  exact ⟨_, rfl⟩

theorem and (rs : BitVec 5) (rt : BitVec 5) (rd : BitVec 5) : Statement (.and rs rt rd) := by
  rw [Statement, special (encode (.and rs rt rd)) (encR_op ..)]
  unfold decodeSpecial
  rw [show (encode (.and rs rt rd)).extractLsb' 0 6 = 0x24#6 from encR_fn ..]
  exact ⟨_, rfl⟩

theorem or (rs : BitVec 5) (rt : BitVec 5) (rd : BitVec 5) : Statement (.or rs rt rd) := by
  rw [Statement, special (encode (.or rs rt rd)) (encR_op ..)]
  unfold decodeSpecial
  rw [show (encode (.or rs rt rd)).extractLsb' 0 6 = 0x25#6 from encR_fn ..]
  exact ⟨_, rfl⟩

theorem xor (rs : BitVec 5) (rt : BitVec 5) (rd : BitVec 5) : Statement (.xor rs rt rd) := by
  rw [Statement, special (encode (.xor rs rt rd)) (encR_op ..)]
  unfold decodeSpecial
  rw [show (encode (.xor rs rt rd)).extractLsb' 0 6 = 0x26#6 from encR_fn ..]
  exact ⟨_, rfl⟩

theorem nor (rs : BitVec 5) (rt : BitVec 5) (rd : BitVec 5) : Statement (.nor rs rt rd) := by
  rw [Statement, special (encode (.nor rs rt rd)) (encR_op ..)]
  unfold decodeSpecial
  rw [show (encode (.nor rs rt rd)).extractLsb' 0 6 = 0x27#6 from encR_fn ..]
  exact ⟨_, rfl⟩

theorem andi (rs : BitVec 5) (rt : BitVec 5) (imm : BitVec 16) : Statement (.andi rs rt imm) := by
  unfold Statement decode
  rw [show (encode (.andi rs rt imm)).extractLsb' 26 6 = 0x0c#6 from encI_op ..]
  exact ⟨_, rfl⟩

theorem ori (rs : BitVec 5) (rt : BitVec 5) (imm : BitVec 16) : Statement (.ori rs rt imm) := by
  unfold Statement decode
  rw [show (encode (.ori rs rt imm)).extractLsb' 26 6 = 0x0d#6 from encI_op ..]
  exact ⟨_, rfl⟩

theorem xori (rs : BitVec 5) (rt : BitVec 5) (imm : BitVec 16) : Statement (.xori rs rt imm) := by
  unfold Statement decode
  rw [show (encode (.xori rs rt imm)).extractLsb' 26 6 = 0x0e#6 from encI_op ..]
  exact ⟨_, rfl⟩

theorem lui (rt : BitVec 5) (imm : BitVec 16) : Statement (.lui rt imm) := by
  unfold Statement decode
  rw [show (encode (.lui rt imm)).extractLsb' 26 6 = 0x0f#6 from encI_op ..]
  exact ⟨_, rfl⟩

theorem slt (rs : BitVec 5) (rt : BitVec 5) (rd : BitVec 5) : Statement (.slt rs rt rd) := by
  rw [Statement, special (encode (.slt rs rt rd)) (encR_op ..)]
  unfold decodeSpecial
  rw [show (encode (.slt rs rt rd)).extractLsb' 0 6 = 0x2a#6 from encR_fn ..]
  exact ⟨_, rfl⟩

theorem sltu (rs : BitVec 5) (rt : BitVec 5) (rd : BitVec 5) : Statement (.sltu rs rt rd) := by
  rw [Statement, special (encode (.sltu rs rt rd)) (encR_op ..)]
  unfold decodeSpecial
  rw [show (encode (.sltu rs rt rd)).extractLsb' 0 6 = 0x2b#6 from encR_fn ..]
  exact ⟨_, rfl⟩

theorem slti (rs : BitVec 5) (rt : BitVec 5) (imm : BitVec 16) : Statement (.slti rs rt imm) := by
  unfold Statement decode
  rw [show (encode (.slti rs rt imm)).extractLsb' 26 6 = 0x0a#6 from encI_op ..]
  exact ⟨_, rfl⟩

theorem sltiu (rs : BitVec 5) (rt : BitVec 5) (imm : BitVec 16) : Statement (.sltiu rs rt imm) := by
  unfold Statement decode
  rw [show (encode (.sltiu rs rt imm)).extractLsb' 26 6 = 0x0b#6 from encI_op ..]
  exact ⟨_, rfl⟩

theorem sll (rt : BitVec 5) (rd : BitVec 5) (sa : BitVec 5) : Statement (.sll rt rd sa) := by
  rw [Statement, special (encode (.sll rt rd sa)) (encR_op ..)]
  unfold decodeSpecial
  rw [show (encode (.sll rt rd sa)).extractLsb' 0 6 = 0x00#6 from encR_fn ..]
  exact ⟨_, rfl⟩

theorem srl (rt : BitVec 5) (rd : BitVec 5) (sa : BitVec 5) : Statement (.srl rt rd sa) := by
  rw [Statement, special (encode (.srl rt rd sa)) (encR_op ..)]
  unfold decodeSpecial
  rw [show (encode (.srl rt rd sa)).extractLsb' 0 6 = 0x02#6 from encR_fn ..]
  exact ⟨_, rfl⟩

theorem sra (rt : BitVec 5) (rd : BitVec 5) (sa : BitVec 5) : Statement (.sra rt rd sa) := by
  rw [Statement, special (encode (.sra rt rd sa)) (encR_op ..)]
  unfold decodeSpecial
  rw [show (encode (.sra rt rd sa)).extractLsb' 0 6 = 0x03#6 from encR_fn ..]
  exact ⟨_, rfl⟩

theorem sllv (rs : BitVec 5) (rt : BitVec 5) (rd : BitVec 5) : Statement (.sllv rs rt rd) := by
  rw [Statement, special (encode (.sllv rs rt rd)) (encR_op ..)]
  unfold decodeSpecial
  rw [show (encode (.sllv rs rt rd)).extractLsb' 0 6 = 0x04#6 from encR_fn ..]
  exact ⟨_, rfl⟩

theorem srlv (rs : BitVec 5) (rt : BitVec 5) (rd : BitVec 5) : Statement (.srlv rs rt rd) := by
  rw [Statement, special (encode (.srlv rs rt rd)) (encR_op ..)]
  unfold decodeSpecial
  rw [show (encode (.srlv rs rt rd)).extractLsb' 0 6 = 0x06#6 from encR_fn ..]
  exact ⟨_, rfl⟩

theorem srav (rs : BitVec 5) (rt : BitVec 5) (rd : BitVec 5) : Statement (.srav rs rt rd) := by
  rw [Statement, special (encode (.srav rs rt rd)) (encR_op ..)]
  unfold decodeSpecial
  rw [show (encode (.srav rs rt rd)).extractLsb' 0 6 = 0x07#6 from encR_fn ..]
  exact ⟨_, rfl⟩

theorem dsll (rt : BitVec 5) (rd : BitVec 5) (sa : BitVec 5) : Statement (.dsll rt rd sa) := by
  rw [Statement, special (encode (.dsll rt rd sa)) (encR_op ..)]
  unfold decodeSpecial
  rw [show (encode (.dsll rt rd sa)).extractLsb' 0 6 = 0x38#6 from encR_fn ..]
  exact ⟨_, rfl⟩

theorem dsrl (rt : BitVec 5) (rd : BitVec 5) (sa : BitVec 5) : Statement (.dsrl rt rd sa) := by
  rw [Statement, special (encode (.dsrl rt rd sa)) (encR_op ..)]
  unfold decodeSpecial
  rw [show (encode (.dsrl rt rd sa)).extractLsb' 0 6 = 0x3a#6 from encR_fn ..]
  exact ⟨_, rfl⟩

theorem dsra (rt : BitVec 5) (rd : BitVec 5) (sa : BitVec 5) : Statement (.dsra rt rd sa) := by
  rw [Statement, special (encode (.dsra rt rd sa)) (encR_op ..)]
  unfold decodeSpecial
  rw [show (encode (.dsra rt rd sa)).extractLsb' 0 6 = 0x3b#6 from encR_fn ..]
  exact ⟨_, rfl⟩

theorem dsllv (rs : BitVec 5) (rt : BitVec 5) (rd : BitVec 5) : Statement (.dsllv rs rt rd) := by
  rw [Statement, special (encode (.dsllv rs rt rd)) (encR_op ..)]
  unfold decodeSpecial
  rw [show (encode (.dsllv rs rt rd)).extractLsb' 0 6 = 0x14#6 from encR_fn ..]
  exact ⟨_, rfl⟩

theorem dsrlv (rs : BitVec 5) (rt : BitVec 5) (rd : BitVec 5) : Statement (.dsrlv rs rt rd) := by
  rw [Statement, special (encode (.dsrlv rs rt rd)) (encR_op ..)]
  unfold decodeSpecial
  rw [show (encode (.dsrlv rs rt rd)).extractLsb' 0 6 = 0x16#6 from encR_fn ..]
  exact ⟨_, rfl⟩

theorem dsrav (rs : BitVec 5) (rt : BitVec 5) (rd : BitVec 5) : Statement (.dsrav rs rt rd) := by
  rw [Statement, special (encode (.dsrav rs rt rd)) (encR_op ..)]
  unfold decodeSpecial
  rw [show (encode (.dsrav rs rt rd)).extractLsb' 0 6 = 0x17#6 from encR_fn ..]
  exact ⟨_, rfl⟩

theorem dsll32 (rt : BitVec 5) (rd : BitVec 5) (sa : BitVec 5) : Statement (.dsll32 rt rd sa) := by
  rw [Statement, special (encode (.dsll32 rt rd sa)) (encR_op ..)]
  unfold decodeSpecial
  rw [show (encode (.dsll32 rt rd sa)).extractLsb' 0 6 = 0x3c#6 from encR_fn ..]
  exact ⟨_, rfl⟩

theorem dsrl32 (rt : BitVec 5) (rd : BitVec 5) (sa : BitVec 5) : Statement (.dsrl32 rt rd sa) := by
  rw [Statement, special (encode (.dsrl32 rt rd sa)) (encR_op ..)]
  unfold decodeSpecial
  rw [show (encode (.dsrl32 rt rd sa)).extractLsb' 0 6 = 0x3e#6 from encR_fn ..]
  exact ⟨_, rfl⟩

theorem dsra32 (rt : BitVec 5) (rd : BitVec 5) (sa : BitVec 5) : Statement (.dsra32 rt rd sa) := by
  rw [Statement, special (encode (.dsra32 rt rd sa)) (encR_op ..)]
  unfold decodeSpecial
  rw [show (encode (.dsra32 rt rd sa)).extractLsb' 0 6 = 0x3f#6 from encR_fn ..]
  exact ⟨_, rfl⟩

theorem movn (rs : BitVec 5) (rt : BitVec 5) (rd : BitVec 5) : Statement (.movn rs rt rd) := by
  rw [Statement, special (encode (.movn rs rt rd)) (encR_op ..)]
  unfold decodeSpecial
  rw [show (encode (.movn rs rt rd)).extractLsb' 0 6 = 0x0b#6 from encR_fn ..]
  exact ⟨_, rfl⟩

theorem movz (rs : BitVec 5) (rt : BitVec 5) (rd : BitVec 5) : Statement (.movz rs rt rd) := by
  rw [Statement, special (encode (.movz rs rt rd)) (encR_op ..)]
  unfold decodeSpecial
  rw [show (encode (.movz rs rt rd)).extractLsb' 0 6 = 0x0a#6 from encR_fn ..]
  exact ⟨_, rfl⟩

theorem movf (rs : BitVec 5) (cc : BitVec 3) (rd : BitVec 5) : Statement (.movf rs cc rd) := by
  rw [Statement, special (encode (.movf rs cc rd)) (encR_op ..)]
  unfold decodeSpecial
  rw [show (encode (.movf rs cc rd)).extractLsb' 0 6 = 0x01#6 from encR_fn ..]
  show ∃ j, (if (encode (.movf rs cc rd)).extractLsb' 16 1 = 0#1 then _ else _) = _
  rw [if_pos (by rw [show (encode (.movf rs cc rd)).extractLsb' 16 1 = 0#1 from encR_tf ..])]
  exact ⟨_, rfl⟩

theorem movt (rs : BitVec 5) (cc : BitVec 3) (rd : BitVec 5) : Statement (.movt rs cc rd) := by
  rw [Statement, special (encode (.movt rs cc rd)) (encR_op ..)]
  unfold decodeSpecial
  rw [show (encode (.movt rs cc rd)).extractLsb' 0 6 = 0x01#6 from encR_fn ..]
  show ∃ j, (if (encode (.movt rs cc rd)).extractLsb' 16 1 = 0#1 then _ else _) = _
  rw [if_neg (by rw [show (encode (.movt rs cc rd)).extractLsb' 16 1 = 1#1 from encR_tf ..]; decide)]
  exact ⟨_, rfl⟩

theorem mult (rs : BitVec 5) (rt : BitVec 5) : Statement (.mult rs rt) := by
  rw [Statement, special (encode (.mult rs rt)) (encR_op ..)]
  unfold decodeSpecial
  rw [show (encode (.mult rs rt)).extractLsb' 0 6 = 0x18#6 from encR_fn ..]
  exact ⟨_, rfl⟩

theorem multu (rs : BitVec 5) (rt : BitVec 5) : Statement (.multu rs rt) := by
  rw [Statement, special (encode (.multu rs rt)) (encR_op ..)]
  unfold decodeSpecial
  rw [show (encode (.multu rs rt)).extractLsb' 0 6 = 0x19#6 from encR_fn ..]
  exact ⟨_, rfl⟩

theorem div (rs : BitVec 5) (rt : BitVec 5) : Statement (.div rs rt) := by
  rw [Statement, special (encode (.div rs rt)) (encR_op ..)]
  unfold decodeSpecial
  rw [show (encode (.div rs rt)).extractLsb' 0 6 = 0x1a#6 from encR_fn ..]
  exact ⟨_, rfl⟩

theorem divu (rs : BitVec 5) (rt : BitVec 5) : Statement (.divu rs rt) := by
  rw [Statement, special (encode (.divu rs rt)) (encR_op ..)]
  unfold decodeSpecial
  rw [show (encode (.divu rs rt)).extractLsb' 0 6 = 0x1b#6 from encR_fn ..]
  exact ⟨_, rfl⟩

theorem dmult (rs : BitVec 5) (rt : BitVec 5) : Statement (.dmult rs rt) := by
  rw [Statement, special (encode (.dmult rs rt)) (encR_op ..)]
  unfold decodeSpecial
  rw [show (encode (.dmult rs rt)).extractLsb' 0 6 = 0x1c#6 from encR_fn ..]
  exact ⟨_, rfl⟩

theorem dmultu (rs : BitVec 5) (rt : BitVec 5) : Statement (.dmultu rs rt) := by
  rw [Statement, special (encode (.dmultu rs rt)) (encR_op ..)]
  unfold decodeSpecial
  rw [show (encode (.dmultu rs rt)).extractLsb' 0 6 = 0x1d#6 from encR_fn ..]
  exact ⟨_, rfl⟩

theorem ddiv (rs : BitVec 5) (rt : BitVec 5) : Statement (.ddiv rs rt) := by
  rw [Statement, special (encode (.ddiv rs rt)) (encR_op ..)]
  unfold decodeSpecial
  rw [show (encode (.ddiv rs rt)).extractLsb' 0 6 = 0x1e#6 from encR_fn ..]
  exact ⟨_, rfl⟩

theorem ddivu (rs : BitVec 5) (rt : BitVec 5) : Statement (.ddivu rs rt) := by
  rw [Statement, special (encode (.ddivu rs rt)) (encR_op ..)]
  unfold decodeSpecial
  rw [show (encode (.ddivu rs rt)).extractLsb' 0 6 = 0x1f#6 from encR_fn ..]
  exact ⟨_, rfl⟩

theorem mfhi (rd : BitVec 5) : Statement (.mfhi rd) := by
  rw [Statement, special (encode (.mfhi rd)) (encR_op ..)]
  unfold decodeSpecial
  rw [show (encode (.mfhi rd)).extractLsb' 0 6 = 0x10#6 from encR_fn ..]
  exact ⟨_, rfl⟩

theorem mflo (rd : BitVec 5) : Statement (.mflo rd) := by
  rw [Statement, special (encode (.mflo rd)) (encR_op ..)]
  unfold decodeSpecial
  rw [show (encode (.mflo rd)).extractLsb' 0 6 = 0x12#6 from encR_fn ..]
  exact ⟨_, rfl⟩

theorem mthi (rs : BitVec 5) : Statement (.mthi rs) := by
  rw [Statement, special (encode (.mthi rs)) (encR_op ..)]
  unfold decodeSpecial
  rw [show (encode (.mthi rs)).extractLsb' 0 6 = 0x11#6 from encR_fn ..]
  exact ⟨_, rfl⟩

theorem mtlo (rs : BitVec 5) : Statement (.mtlo rs) := by
  rw [Statement, special (encode (.mtlo rs)) (encR_op ..)]
  unfold decodeSpecial
  rw [show (encode (.mtlo rs)).extractLsb' 0 6 = 0x13#6 from encR_fn ..]
  exact ⟨_, rfl⟩

theorem lb (base : BitVec 5) (rt : BitVec 5) (offset : BitVec 16) : Statement (.lb base rt offset) := by
  unfold Statement decode
  rw [show (encode (.lb base rt offset)).extractLsb' 26 6 = 0x20#6 from encI_op ..]
  exact ⟨_, rfl⟩

theorem lbu (base : BitVec 5) (rt : BitVec 5) (offset : BitVec 16) : Statement (.lbu base rt offset) := by
  unfold Statement decode
  rw [show (encode (.lbu base rt offset)).extractLsb' 26 6 = 0x24#6 from encI_op ..]
  exact ⟨_, rfl⟩

theorem lh (base : BitVec 5) (rt : BitVec 5) (offset : BitVec 16) : Statement (.lh base rt offset) := by
  unfold Statement decode
  rw [show (encode (.lh base rt offset)).extractLsb' 26 6 = 0x21#6 from encI_op ..]
  exact ⟨_, rfl⟩

theorem lhu (base : BitVec 5) (rt : BitVec 5) (offset : BitVec 16) : Statement (.lhu base rt offset) := by
  unfold Statement decode
  rw [show (encode (.lhu base rt offset)).extractLsb' 26 6 = 0x25#6 from encI_op ..]
  exact ⟨_, rfl⟩

theorem lw (base : BitVec 5) (rt : BitVec 5) (offset : BitVec 16) : Statement (.lw base rt offset) := by
  unfold Statement decode
  rw [show (encode (.lw base rt offset)).extractLsb' 26 6 = 0x23#6 from encI_op ..]
  exact ⟨_, rfl⟩

theorem lwu (base : BitVec 5) (rt : BitVec 5) (offset : BitVec 16) : Statement (.lwu base rt offset) := by
  unfold Statement decode
  rw [show (encode (.lwu base rt offset)).extractLsb' 26 6 = 0x27#6 from encI_op ..]
  exact ⟨_, rfl⟩

theorem ld (base : BitVec 5) (rt : BitVec 5) (offset : BitVec 16) : Statement (.ld base rt offset) := by
  unfold Statement decode
  rw [show (encode (.ld base rt offset)).extractLsb' 26 6 = 0x37#6 from encI_op ..]
  exact ⟨_, rfl⟩

theorem sb (base : BitVec 5) (rt : BitVec 5) (offset : BitVec 16) : Statement (.sb base rt offset) := by
  unfold Statement decode
  rw [show (encode (.sb base rt offset)).extractLsb' 26 6 = 0x28#6 from encI_op ..]
  exact ⟨_, rfl⟩

theorem sh (base : BitVec 5) (rt : BitVec 5) (offset : BitVec 16) : Statement (.sh base rt offset) := by
  unfold Statement decode
  rw [show (encode (.sh base rt offset)).extractLsb' 26 6 = 0x29#6 from encI_op ..]
  exact ⟨_, rfl⟩

theorem sw (base : BitVec 5) (rt : BitVec 5) (offset : BitVec 16) : Statement (.sw base rt offset) := by
  unfold Statement decode
  rw [show (encode (.sw base rt offset)).extractLsb' 26 6 = 0x2b#6 from encI_op ..]
  exact ⟨_, rfl⟩

theorem sd (base : BitVec 5) (rt : BitVec 5) (offset : BitVec 16) : Statement (.sd base rt offset) := by
  unfold Statement decode
  rw [show (encode (.sd base rt offset)).extractLsb' 26 6 = 0x3f#6 from encI_op ..]
  exact ⟨_, rfl⟩

theorem lwl (base : BitVec 5) (rt : BitVec 5) (offset : BitVec 16) : Statement (.lwl base rt offset) := by
  unfold Statement decode
  rw [show (encode (.lwl base rt offset)).extractLsb' 26 6 = 0x22#6 from encI_op ..]
  exact ⟨_, rfl⟩

theorem lwr (base : BitVec 5) (rt : BitVec 5) (offset : BitVec 16) : Statement (.lwr base rt offset) := by
  unfold Statement decode
  rw [show (encode (.lwr base rt offset)).extractLsb' 26 6 = 0x26#6 from encI_op ..]
  exact ⟨_, rfl⟩

theorem swl (base : BitVec 5) (rt : BitVec 5) (offset : BitVec 16) : Statement (.swl base rt offset) := by
  unfold Statement decode
  rw [show (encode (.swl base rt offset)).extractLsb' 26 6 = 0x2a#6 from encI_op ..]
  exact ⟨_, rfl⟩

theorem swr (base : BitVec 5) (rt : BitVec 5) (offset : BitVec 16) : Statement (.swr base rt offset) := by
  unfold Statement decode
  rw [show (encode (.swr base rt offset)).extractLsb' 26 6 = 0x2e#6 from encI_op ..]
  exact ⟨_, rfl⟩

theorem ldl (base : BitVec 5) (rt : BitVec 5) (offset : BitVec 16) : Statement (.ldl base rt offset) := by
  unfold Statement decode
  rw [show (encode (.ldl base rt offset)).extractLsb' 26 6 = 0x1a#6 from encI_op ..]
  exact ⟨_, rfl⟩

theorem ldr (base : BitVec 5) (rt : BitVec 5) (offset : BitVec 16) : Statement (.ldr base rt offset) := by
  unfold Statement decode
  rw [show (encode (.ldr base rt offset)).extractLsb' 26 6 = 0x1b#6 from encI_op ..]
  exact ⟨_, rfl⟩

theorem sdl (base : BitVec 5) (rt : BitVec 5) (offset : BitVec 16) : Statement (.sdl base rt offset) := by
  unfold Statement decode
  rw [show (encode (.sdl base rt offset)).extractLsb' 26 6 = 0x2c#6 from encI_op ..]
  exact ⟨_, rfl⟩

theorem sdr (base : BitVec 5) (rt : BitVec 5) (offset : BitVec 16) : Statement (.sdr base rt offset) := by
  unfold Statement decode
  rw [show (encode (.sdr base rt offset)).extractLsb' 26 6 = 0x2d#6 from encI_op ..]
  exact ⟨_, rfl⟩

theorem ll (base : BitVec 5) (rt : BitVec 5) (offset : BitVec 16) : Statement (.ll base rt offset) := by
  unfold Statement decode
  rw [show (encode (.ll base rt offset)).extractLsb' 26 6 = 0x30#6 from encI_op ..]
  exact ⟨_, rfl⟩

theorem lld (base : BitVec 5) (rt : BitVec 5) (offset : BitVec 16) : Statement (.lld base rt offset) := by
  unfold Statement decode
  rw [show (encode (.lld base rt offset)).extractLsb' 26 6 = 0x34#6 from encI_op ..]
  exact ⟨_, rfl⟩

theorem sc (base : BitVec 5) (rt : BitVec 5) (offset : BitVec 16) : Statement (.sc base rt offset) := by
  unfold Statement decode
  rw [show (encode (.sc base rt offset)).extractLsb' 26 6 = 0x38#6 from encI_op ..]
  exact ⟨_, rfl⟩

theorem scd (base : BitVec 5) (rt : BitVec 5) (offset : BitVec 16) : Statement (.scd base rt offset) := by
  unfold Statement decode
  rw [show (encode (.scd base rt offset)).extractLsb' 26 6 = 0x3c#6 from encI_op ..]
  exact ⟨_, rfl⟩

theorem sync (stype : BitVec 5) : Statement (.sync stype) := by
  rw [Statement, special (encode (.sync stype)) (encR_op ..)]
  unfold decodeSpecial
  rw [show (encode (.sync stype)).extractLsb' 0 6 = 0x0f#6 from encR_fn ..]
  exact ⟨_, rfl⟩

theorem pref (base : BitVec 5) (hint : BitVec 5) (offset : BitVec 16) : Statement (.pref base hint offset) := by
  unfold Statement decode
  rw [show (encode (.pref base hint offset)).extractLsb' 26 6 = 0x33#6 from encI_op ..]
  exact ⟨_, rfl⟩

theorem prefx (base : BitVec 5) (index : BitVec 5) (hint : BitVec 5) : Statement (.prefx base index hint) := by
  rw [Statement, cop1x (encode (.prefx base index hint)) (encR_op ..)]
  unfold decodeCop1x
  rw [show (encode (.prefx base index hint)).extractLsb' 0 6 = 0x0f#6 from encR_fn ..]
  exact ⟨_, rfl⟩

theorem j (target : BitVec 26) : Statement (.j target) := by
  unfold Statement decode
  rw [show (encode (.j target)).extractLsb' 26 6 = 0x02#6 from encJ_op ..]
  exact ⟨_, rfl⟩

theorem jal (target : BitVec 26) : Statement (.jal target) := by
  unfold Statement decode
  rw [show (encode (.jal target)).extractLsb' 26 6 = 0x03#6 from encJ_op ..]
  exact ⟨_, rfl⟩

theorem jr (rs : BitVec 5) : Statement (.jr rs) := by
  rw [Statement, special (encode (.jr rs)) (encR_op ..)]
  unfold decodeSpecial
  rw [show (encode (.jr rs)).extractLsb' 0 6 = 0x08#6 from encR_fn ..]
  exact ⟨_, rfl⟩

theorem jalr (rs : BitVec 5) (rd : BitVec 5) : Statement (.jalr rs rd) := by
  rw [Statement, special (encode (.jalr rs rd)) (encR_op ..)]
  unfold decodeSpecial
  rw [show (encode (.jalr rs rd)).extractLsb' 0 6 = 0x09#6 from encR_fn ..]
  exact ⟨_, rfl⟩

theorem beq (rs : BitVec 5) (rt : BitVec 5) (offset : BitVec 16) : Statement (.beq rs rt offset) := by
  unfold Statement decode
  rw [show (encode (.beq rs rt offset)).extractLsb' 26 6 = 0x04#6 from encI_op ..]
  exact ⟨_, rfl⟩

theorem bne (rs : BitVec 5) (rt : BitVec 5) (offset : BitVec 16) : Statement (.bne rs rt offset) := by
  unfold Statement decode
  rw [show (encode (.bne rs rt offset)).extractLsb' 26 6 = 0x05#6 from encI_op ..]
  exact ⟨_, rfl⟩

theorem blez (rs : BitVec 5) (offset : BitVec 16) : Statement (.blez rs offset) := by
  unfold Statement decode
  rw [show (encode (.blez rs offset)).extractLsb' 26 6 = 0x06#6 from encI_op ..]
  exact ⟨_, rfl⟩

theorem bgtz (rs : BitVec 5) (offset : BitVec 16) : Statement (.bgtz rs offset) := by
  unfold Statement decode
  rw [show (encode (.bgtz rs offset)).extractLsb' 26 6 = 0x07#6 from encI_op ..]
  exact ⟨_, rfl⟩

theorem bltz (rs : BitVec 5) (offset : BitVec 16) : Statement (.bltz rs offset) := by
  rw [Statement, regimm (encode (.bltz rs offset)) (encI_op ..)]
  unfold decodeRegimm
  rw [show (encode (.bltz rs offset)).extractLsb' 16 5 = 0x00#5 from encI_rt ..]
  exact ⟨_, rfl⟩

theorem bgez (rs : BitVec 5) (offset : BitVec 16) : Statement (.bgez rs offset) := by
  rw [Statement, regimm (encode (.bgez rs offset)) (encI_op ..)]
  unfold decodeRegimm
  rw [show (encode (.bgez rs offset)).extractLsb' 16 5 = 0x01#5 from encI_rt ..]
  exact ⟨_, rfl⟩

theorem bltzal (rs : BitVec 5) (offset : BitVec 16) : Statement (.bltzal rs offset) := by
  rw [Statement, regimm (encode (.bltzal rs offset)) (encI_op ..)]
  unfold decodeRegimm
  rw [show (encode (.bltzal rs offset)).extractLsb' 16 5 = 0x10#5 from encI_rt ..]
  exact ⟨_, rfl⟩

theorem bgezal (rs : BitVec 5) (offset : BitVec 16) : Statement (.bgezal rs offset) := by
  rw [Statement, regimm (encode (.bgezal rs offset)) (encI_op ..)]
  unfold decodeRegimm
  rw [show (encode (.bgezal rs offset)).extractLsb' 16 5 = 0x11#5 from encI_rt ..]
  exact ⟨_, rfl⟩

theorem beql (rs : BitVec 5) (rt : BitVec 5) (offset : BitVec 16) : Statement (.beql rs rt offset) := by
  unfold Statement decode
  rw [show (encode (.beql rs rt offset)).extractLsb' 26 6 = 0x14#6 from encI_op ..]
  exact ⟨_, rfl⟩

theorem bnel (rs : BitVec 5) (rt : BitVec 5) (offset : BitVec 16) : Statement (.bnel rs rt offset) := by
  unfold Statement decode
  rw [show (encode (.bnel rs rt offset)).extractLsb' 26 6 = 0x15#6 from encI_op ..]
  exact ⟨_, rfl⟩

theorem blezl (rs : BitVec 5) (offset : BitVec 16) : Statement (.blezl rs offset) := by
  unfold Statement decode
  rw [show (encode (.blezl rs offset)).extractLsb' 26 6 = 0x16#6 from encI_op ..]
  exact ⟨_, rfl⟩

theorem bgtzl (rs : BitVec 5) (offset : BitVec 16) : Statement (.bgtzl rs offset) := by
  unfold Statement decode
  rw [show (encode (.bgtzl rs offset)).extractLsb' 26 6 = 0x17#6 from encI_op ..]
  exact ⟨_, rfl⟩

theorem bltzl (rs : BitVec 5) (offset : BitVec 16) : Statement (.bltzl rs offset) := by
  rw [Statement, regimm (encode (.bltzl rs offset)) (encI_op ..)]
  unfold decodeRegimm
  rw [show (encode (.bltzl rs offset)).extractLsb' 16 5 = 0x02#5 from encI_rt ..]
  exact ⟨_, rfl⟩

theorem bgezl (rs : BitVec 5) (offset : BitVec 16) : Statement (.bgezl rs offset) := by
  rw [Statement, regimm (encode (.bgezl rs offset)) (encI_op ..)]
  unfold decodeRegimm
  rw [show (encode (.bgezl rs offset)).extractLsb' 16 5 = 0x03#5 from encI_rt ..]
  exact ⟨_, rfl⟩

theorem bltzall (rs : BitVec 5) (offset : BitVec 16) : Statement (.bltzall rs offset) := by
  rw [Statement, regimm (encode (.bltzall rs offset)) (encI_op ..)]
  unfold decodeRegimm
  rw [show (encode (.bltzall rs offset)).extractLsb' 16 5 = 0x12#5 from encI_rt ..]
  exact ⟨_, rfl⟩

theorem bgezall (rs : BitVec 5) (offset : BitVec 16) : Statement (.bgezall rs offset) := by
  rw [Statement, regimm (encode (.bgezall rs offset)) (encI_op ..)]
  unfold decodeRegimm
  rw [show (encode (.bgezall rs offset)).extractLsb' 16 5 = 0x13#5 from encI_rt ..]
  exact ⟨_, rfl⟩

theorem tge (rs : BitVec 5) (rt : BitVec 5) (code : BitVec 10) : Statement (.tge rs rt code) := by
  rw [Statement, special (encode (.tge rs rt code)) (encCode10_op ..)]
  unfold decodeSpecial
  rw [show (encode (.tge rs rt code)).extractLsb' 0 6 = 0x30#6 from encCode10_fn ..]
  exact ⟨_, rfl⟩

theorem tgeu (rs : BitVec 5) (rt : BitVec 5) (code : BitVec 10) : Statement (.tgeu rs rt code) := by
  rw [Statement, special (encode (.tgeu rs rt code)) (encCode10_op ..)]
  unfold decodeSpecial
  rw [show (encode (.tgeu rs rt code)).extractLsb' 0 6 = 0x31#6 from encCode10_fn ..]
  exact ⟨_, rfl⟩

theorem tlt (rs : BitVec 5) (rt : BitVec 5) (code : BitVec 10) : Statement (.tlt rs rt code) := by
  rw [Statement, special (encode (.tlt rs rt code)) (encCode10_op ..)]
  unfold decodeSpecial
  rw [show (encode (.tlt rs rt code)).extractLsb' 0 6 = 0x32#6 from encCode10_fn ..]
  exact ⟨_, rfl⟩

theorem tltu (rs : BitVec 5) (rt : BitVec 5) (code : BitVec 10) : Statement (.tltu rs rt code) := by
  rw [Statement, special (encode (.tltu rs rt code)) (encCode10_op ..)]
  unfold decodeSpecial
  rw [show (encode (.tltu rs rt code)).extractLsb' 0 6 = 0x33#6 from encCode10_fn ..]
  exact ⟨_, rfl⟩

theorem teq (rs : BitVec 5) (rt : BitVec 5) (code : BitVec 10) : Statement (.teq rs rt code) := by
  rw [Statement, special (encode (.teq rs rt code)) (encCode10_op ..)]
  unfold decodeSpecial
  rw [show (encode (.teq rs rt code)).extractLsb' 0 6 = 0x34#6 from encCode10_fn ..]
  exact ⟨_, rfl⟩

theorem tne (rs : BitVec 5) (rt : BitVec 5) (code : BitVec 10) : Statement (.tne rs rt code) := by
  rw [Statement, special (encode (.tne rs rt code)) (encCode10_op ..)]
  unfold decodeSpecial
  rw [show (encode (.tne rs rt code)).extractLsb' 0 6 = 0x36#6 from encCode10_fn ..]
  exact ⟨_, rfl⟩

theorem tgei (rs : BitVec 5) (imm : BitVec 16) : Statement (.tgei rs imm) := by
  rw [Statement, regimm (encode (.tgei rs imm)) (encI_op ..)]
  unfold decodeRegimm
  rw [show (encode (.tgei rs imm)).extractLsb' 16 5 = 0x08#5 from encI_rt ..]
  exact ⟨_, rfl⟩

theorem tgeiu (rs : BitVec 5) (imm : BitVec 16) : Statement (.tgeiu rs imm) := by
  rw [Statement, regimm (encode (.tgeiu rs imm)) (encI_op ..)]
  unfold decodeRegimm
  rw [show (encode (.tgeiu rs imm)).extractLsb' 16 5 = 0x09#5 from encI_rt ..]
  exact ⟨_, rfl⟩

theorem tlti (rs : BitVec 5) (imm : BitVec 16) : Statement (.tlti rs imm) := by
  rw [Statement, regimm (encode (.tlti rs imm)) (encI_op ..)]
  unfold decodeRegimm
  rw [show (encode (.tlti rs imm)).extractLsb' 16 5 = 0x0a#5 from encI_rt ..]
  exact ⟨_, rfl⟩

theorem tltiu (rs : BitVec 5) (imm : BitVec 16) : Statement (.tltiu rs imm) := by
  rw [Statement, regimm (encode (.tltiu rs imm)) (encI_op ..)]
  unfold decodeRegimm
  rw [show (encode (.tltiu rs imm)).extractLsb' 16 5 = 0x0b#5 from encI_rt ..]
  exact ⟨_, rfl⟩

theorem teqi (rs : BitVec 5) (imm : BitVec 16) : Statement (.teqi rs imm) := by
  rw [Statement, regimm (encode (.teqi rs imm)) (encI_op ..)]
  unfold decodeRegimm
  rw [show (encode (.teqi rs imm)).extractLsb' 16 5 = 0x0c#5 from encI_rt ..]
  exact ⟨_, rfl⟩

theorem tnei (rs : BitVec 5) (imm : BitVec 16) : Statement (.tnei rs imm) := by
  rw [Statement, regimm (encode (.tnei rs imm)) (encI_op ..)]
  unfold decodeRegimm
  rw [show (encode (.tnei rs imm)).extractLsb' 16 5 = 0x0e#5 from encI_rt ..]
  exact ⟨_, rfl⟩

theorem syscall (code : BitVec 20) : Statement (.syscall code) := by
  rw [Statement, special (encode (.syscall code)) (encCode20_op ..)]
  unfold decodeSpecial
  rw [show (encode (.syscall code)).extractLsb' 0 6 = 0x0c#6 from encCode20_fn ..]
  exact ⟨_, rfl⟩

theorem brk (code : BitVec 20) : Statement (.brk code) := by
  rw [Statement, special (encode (.brk code)) (encCode20_op ..)]
  unfold decodeSpecial
  rw [show (encode (.brk code)).extractLsb' 0 6 = 0x0d#6 from encCode20_fn ..]
  exact ⟨_, rfl⟩

theorem mfc0 (rt : BitVec 5) (rd : BitVec 5) (sel : BitVec 4) : Statement (.mfc0 rt rd sel) := by
  rw [Statement, cop0 (encode (.mfc0 rt rd sel)) (encCp0Move_op ..)]
  unfold decodeCop0
  rw [if_neg (by rw [show (encode (.mfc0 rt rd sel)).extractLsb' 25 1 = (0x00#5).extractLsb' 4 1 from encCp0Move_co ..]; decide),
    show (encode (.mfc0 rt rd sel)).extractLsb' 21 5 = 0x00#5 from encCp0Move_sub ..]
  exact ⟨_, rfl⟩

theorem dmfc0 (rt : BitVec 5) (rd : BitVec 5) (sel : BitVec 4) : Statement (.dmfc0 rt rd sel) := by
  rw [Statement, cop0 (encode (.dmfc0 rt rd sel)) (encCp0Move_op ..)]
  unfold decodeCop0
  rw [if_neg (by rw [show (encode (.dmfc0 rt rd sel)).extractLsb' 25 1 = (0x01#5).extractLsb' 4 1 from encCp0Move_co ..]; decide),
    show (encode (.dmfc0 rt rd sel)).extractLsb' 21 5 = 0x01#5 from encCp0Move_sub ..]
  exact ⟨_, rfl⟩

theorem mtc0 (rt : BitVec 5) (rd : BitVec 5) (sel : BitVec 4) : Statement (.mtc0 rt rd sel) := by
  rw [Statement, cop0 (encode (.mtc0 rt rd sel)) (encCp0Move_op ..)]
  unfold decodeCop0
  rw [if_neg (by rw [show (encode (.mtc0 rt rd sel)).extractLsb' 25 1 = (0x04#5).extractLsb' 4 1 from encCp0Move_co ..]; decide),
    show (encode (.mtc0 rt rd sel)).extractLsb' 21 5 = 0x04#5 from encCp0Move_sub ..]
  exact ⟨_, rfl⟩

theorem dmtc0 (rt : BitVec 5) (rd : BitVec 5) (sel : BitVec 4) : Statement (.dmtc0 rt rd sel) := by
  rw [Statement, cop0 (encode (.dmtc0 rt rd sel)) (encCp0Move_op ..)]
  unfold decodeCop0
  rw [if_neg (by rw [show (encode (.dmtc0 rt rd sel)).extractLsb' 25 1 = (0x05#5).extractLsb' 4 1 from encCp0Move_co ..]; decide),
    show (encode (.dmtc0 rt rd sel)).extractLsb' 21 5 = 0x05#5 from encCp0Move_sub ..]
  exact ⟨_, rfl⟩

theorem tlbr : Statement (.tlbr) := by
  rw [Statement, cop0 (encode (.tlbr)) (encR_op ..)]
  unfold decodeCop0 decodeCop0Function
  rw [if_pos (by rw [show (encode (.tlbr)).extractLsb' 25 1 = (0x10#5).extractLsb' 4 1 from encR_co ..]; decide),
    show (encode (.tlbr)).extractLsb' 0 6 = 0x01#6 from encR_fn ..]
  exact ⟨_, rfl⟩

theorem tlbwi : Statement (.tlbwi) := by
  rw [Statement, cop0 (encode (.tlbwi)) (encR_op ..)]
  unfold decodeCop0 decodeCop0Function
  rw [if_pos (by rw [show (encode (.tlbwi)).extractLsb' 25 1 = (0x10#5).extractLsb' 4 1 from encR_co ..]; decide),
    show (encode (.tlbwi)).extractLsb' 0 6 = 0x02#6 from encR_fn ..]
  exact ⟨_, rfl⟩

theorem tlbwr : Statement (.tlbwr) := by
  rw [Statement, cop0 (encode (.tlbwr)) (encR_op ..)]
  unfold decodeCop0 decodeCop0Function
  rw [if_pos (by rw [show (encode (.tlbwr)).extractLsb' 25 1 = (0x10#5).extractLsb' 4 1 from encR_co ..]; decide),
    show (encode (.tlbwr)).extractLsb' 0 6 = 0x06#6 from encR_fn ..]
  exact ⟨_, rfl⟩

theorem tlbp : Statement (.tlbp) := by
  rw [Statement, cop0 (encode (.tlbp)) (encR_op ..)]
  unfold decodeCop0 decodeCop0Function
  rw [if_pos (by rw [show (encode (.tlbp)).extractLsb' 25 1 = (0x10#5).extractLsb' 4 1 from encR_co ..]; decide),
    show (encode (.tlbp)).extractLsb' 0 6 = 0x08#6 from encR_fn ..]
  exact ⟨_, rfl⟩

theorem eret : Statement (.eret) := by
  rw [Statement, cop0 (encode (.eret)) (encR_op ..)]
  unfold decodeCop0 decodeCop0Function
  rw [if_pos (by rw [show (encode (.eret)).extractLsb' 25 1 = (0x10#5).extractLsb' 4 1 from encR_co ..]; decide),
    show (encode (.eret)).extractLsb' 0 6 = 0x18#6 from encR_fn ..]
  exact ⟨_, rfl⟩

theorem mfc1 (rt : BitVec 5) (fs : BitVec 5) : Statement (.mfc1 rt fs) := by
  rw [Statement, cop1 (encode (.mfc1 rt fs)) (encR_op ..)]
  unfold decodeCop1
  rw [show (encode (.mfc1 rt fs)).extractLsb' 21 5 = 0x00#5 from encR_rs ..]
  exact ⟨_, rfl⟩

theorem dmfc1 (rt : BitVec 5) (fs : BitVec 5) : Statement (.dmfc1 rt fs) := by
  rw [Statement, cop1 (encode (.dmfc1 rt fs)) (encR_op ..)]
  unfold decodeCop1
  rw [show (encode (.dmfc1 rt fs)).extractLsb' 21 5 = 0x01#5 from encR_rs ..]
  exact ⟨_, rfl⟩

theorem mtc1 (rt : BitVec 5) (fs : BitVec 5) : Statement (.mtc1 rt fs) := by
  rw [Statement, cop1 (encode (.mtc1 rt fs)) (encR_op ..)]
  unfold decodeCop1
  rw [show (encode (.mtc1 rt fs)).extractLsb' 21 5 = 0x04#5 from encR_rs ..]
  exact ⟨_, rfl⟩

theorem dmtc1 (rt : BitVec 5) (fs : BitVec 5) : Statement (.dmtc1 rt fs) := by
  rw [Statement, cop1 (encode (.dmtc1 rt fs)) (encR_op ..)]
  unfold decodeCop1
  rw [show (encode (.dmtc1 rt fs)).extractLsb' 21 5 = 0x05#5 from encR_rs ..]
  exact ⟨_, rfl⟩

theorem cfc1 (rt : BitVec 5) (fs : BitVec 5) : Statement (.cfc1 rt fs) := by
  rw [Statement, cop1 (encode (.cfc1 rt fs)) (encR_op ..)]
  unfold decodeCop1
  rw [show (encode (.cfc1 rt fs)).extractLsb' 21 5 = 0x02#5 from encR_rs ..]
  exact ⟨_, rfl⟩

theorem ctc1 (rt : BitVec 5) (fs : BitVec 5) : Statement (.ctc1 rt fs) := by
  rw [Statement, cop1 (encode (.ctc1 rt fs)) (encR_op ..)]
  unfold decodeCop1
  rw [show (encode (.ctc1 rt fs)).extractLsb' 21 5 = 0x06#5 from encR_rs ..]
  exact ⟨_, rfl⟩

theorem lwc1 (base : BitVec 5) (ft : BitVec 5) (offset : BitVec 16) : Statement (.lwc1 base ft offset) := by
  unfold Statement decode
  rw [show (encode (.lwc1 base ft offset)).extractLsb' 26 6 = 0x31#6 from encI_op ..]
  exact ⟨_, rfl⟩

theorem ldc1 (base : BitVec 5) (ft : BitVec 5) (offset : BitVec 16) : Statement (.ldc1 base ft offset) := by
  unfold Statement decode
  rw [show (encode (.ldc1 base ft offset)).extractLsb' 26 6 = 0x35#6 from encI_op ..]
  exact ⟨_, rfl⟩

theorem swc1 (base : BitVec 5) (ft : BitVec 5) (offset : BitVec 16) : Statement (.swc1 base ft offset) := by
  unfold Statement decode
  rw [show (encode (.swc1 base ft offset)).extractLsb' 26 6 = 0x39#6 from encI_op ..]
  exact ⟨_, rfl⟩

theorem sdc1 (base : BitVec 5) (ft : BitVec 5) (offset : BitVec 16) : Statement (.sdc1 base ft offset) := by
  unfold Statement decode
  rw [show (encode (.sdc1 base ft offset)).extractLsb' 26 6 = 0x3d#6 from encI_op ..]
  exact ⟨_, rfl⟩

theorem lwxc1 (base : BitVec 5) (index : BitVec 5) (fd : BitVec 5) : Statement (.lwxc1 base index fd) := by
  rw [Statement, cop1x (encode (.lwxc1 base index fd)) (encR_op ..)]
  unfold decodeCop1x
  rw [show (encode (.lwxc1 base index fd)).extractLsb' 0 6 = 0x00#6 from encR_fn ..]
  exact ⟨_, rfl⟩

theorem ldxc1 (base : BitVec 5) (index : BitVec 5) (fd : BitVec 5) : Statement (.ldxc1 base index fd) := by
  rw [Statement, cop1x (encode (.ldxc1 base index fd)) (encR_op ..)]
  unfold decodeCop1x
  rw [show (encode (.ldxc1 base index fd)).extractLsb' 0 6 = 0x01#6 from encR_fn ..]
  exact ⟨_, rfl⟩

theorem swxc1 (base : BitVec 5) (index : BitVec 5) (fs : BitVec 5) : Statement (.swxc1 base index fs) := by
  rw [Statement, cop1x (encode (.swxc1 base index fs)) (encR_op ..)]
  unfold decodeCop1x
  rw [show (encode (.swxc1 base index fs)).extractLsb' 0 6 = 0x08#6 from encR_fn ..]
  exact ⟨_, rfl⟩

theorem sdxc1 (base : BitVec 5) (index : BitVec 5) (fs : BitVec 5) : Statement (.sdxc1 base index fs) := by
  rw [Statement, cop1x (encode (.sdxc1 base index fs)) (encR_op ..)]
  unfold decodeCop1x
  rw [show (encode (.sdxc1 base index fs)).extractLsb' 0 6 = 0x09#6 from encR_fn ..]
  exact ⟨_, rfl⟩

theorem bc1f (cc : BitVec 3) (offset : BitVec 16) : Statement (.bc1f cc offset) := by
  rw [Statement, cop1 (encode (.bc1f cc offset)) (encI_op ..)]
  unfold decodeCop1
  rw [show (encode (.bc1f cc offset)).extractLsb' 21 5 = 0x08#5 from encI_rs ..]
  show ∃ j, decodeBc1 _ = _
  unfold decodeBc1
  rw [show (encode (.bc1f cc offset)).extractLsb' 16 2 = 0#1 ++ 0#1 from encI_ndtf ..]
  exact ⟨_, rfl⟩

theorem bc1t (cc : BitVec 3) (offset : BitVec 16) : Statement (.bc1t cc offset) := by
  rw [Statement, cop1 (encode (.bc1t cc offset)) (encI_op ..)]
  unfold decodeCop1
  rw [show (encode (.bc1t cc offset)).extractLsb' 21 5 = 0x08#5 from encI_rs ..]
  show ∃ j, decodeBc1 _ = _
  unfold decodeBc1
  rw [show (encode (.bc1t cc offset)).extractLsb' 16 2 = 0#1 ++ 1#1 from encI_ndtf ..]
  exact ⟨_, rfl⟩

theorem bc1fl (cc : BitVec 3) (offset : BitVec 16) : Statement (.bc1fl cc offset) := by
  rw [Statement, cop1 (encode (.bc1fl cc offset)) (encI_op ..)]
  unfold decodeCop1
  rw [show (encode (.bc1fl cc offset)).extractLsb' 21 5 = 0x08#5 from encI_rs ..]
  show ∃ j, decodeBc1 _ = _
  unfold decodeBc1
  rw [show (encode (.bc1fl cc offset)).extractLsb' 16 2 = 1#1 ++ 0#1 from encI_ndtf ..]
  exact ⟨_, rfl⟩

theorem bc1tl (cc : BitVec 3) (offset : BitVec 16) : Statement (.bc1tl cc offset) := by
  rw [Statement, cop1 (encode (.bc1tl cc offset)) (encI_op ..)]
  unfold decodeCop1
  rw [show (encode (.bc1tl cc offset)).extractLsb' 21 5 = 0x08#5 from encI_rs ..]
  show ∃ j, decodeBc1 _ = _
  unfold decodeBc1
  rw [show (encode (.bc1tl cc offset)).extractLsb' 16 2 = 1#1 ++ 1#1 from encI_ndtf ..]
  exact ⟨_, rfl⟩

theorem addS (ft : BitVec 5) (fs : BitVec 5) (fd : BitVec 5) : Statement (.addS ft fs fd) := by
  rw [Statement, cop1 (encode (.addS ft fs fd)) (encR_op ..)]
  unfold decodeCop1
  rw [show (encode (.addS ft fs fd)).extractLsb' 21 5 = 0x10#5 from encR_rs ..]
  show ∃ j, decodeCop1S _ = _
  unfold decodeCop1S
  rw [show (encode (.addS ft fs fd)).extractLsb' 0 6 = 0x00#6 from encR_fn ..]
  exact ⟨_, rfl⟩

theorem addD (ft : BitVec 5) (fs : BitVec 5) (fd : BitVec 5) : Statement (.addD ft fs fd) := by
  rw [Statement, cop1 (encode (.addD ft fs fd)) (encR_op ..)]
  unfold decodeCop1
  rw [show (encode (.addD ft fs fd)).extractLsb' 21 5 = 0x11#5 from encR_rs ..]
  show ∃ j, decodeCop1D _ = _
  unfold decodeCop1D
  rw [show (encode (.addD ft fs fd)).extractLsb' 0 6 = 0x00#6 from encR_fn ..]
  exact ⟨_, rfl⟩

theorem subS (ft : BitVec 5) (fs : BitVec 5) (fd : BitVec 5) : Statement (.subS ft fs fd) := by
  rw [Statement, cop1 (encode (.subS ft fs fd)) (encR_op ..)]
  unfold decodeCop1
  rw [show (encode (.subS ft fs fd)).extractLsb' 21 5 = 0x10#5 from encR_rs ..]
  show ∃ j, decodeCop1S _ = _
  unfold decodeCop1S
  rw [show (encode (.subS ft fs fd)).extractLsb' 0 6 = 0x01#6 from encR_fn ..]
  exact ⟨_, rfl⟩

theorem subD (ft : BitVec 5) (fs : BitVec 5) (fd : BitVec 5) : Statement (.subD ft fs fd) := by
  rw [Statement, cop1 (encode (.subD ft fs fd)) (encR_op ..)]
  unfold decodeCop1
  rw [show (encode (.subD ft fs fd)).extractLsb' 21 5 = 0x11#5 from encR_rs ..]
  show ∃ j, decodeCop1D _ = _
  unfold decodeCop1D
  rw [show (encode (.subD ft fs fd)).extractLsb' 0 6 = 0x01#6 from encR_fn ..]
  exact ⟨_, rfl⟩

theorem mulS (ft : BitVec 5) (fs : BitVec 5) (fd : BitVec 5) : Statement (.mulS ft fs fd) := by
  rw [Statement, cop1 (encode (.mulS ft fs fd)) (encR_op ..)]
  unfold decodeCop1
  rw [show (encode (.mulS ft fs fd)).extractLsb' 21 5 = 0x10#5 from encR_rs ..]
  show ∃ j, decodeCop1S _ = _
  unfold decodeCop1S
  rw [show (encode (.mulS ft fs fd)).extractLsb' 0 6 = 0x02#6 from encR_fn ..]
  exact ⟨_, rfl⟩

theorem mulD (ft : BitVec 5) (fs : BitVec 5) (fd : BitVec 5) : Statement (.mulD ft fs fd) := by
  rw [Statement, cop1 (encode (.mulD ft fs fd)) (encR_op ..)]
  unfold decodeCop1
  rw [show (encode (.mulD ft fs fd)).extractLsb' 21 5 = 0x11#5 from encR_rs ..]
  show ∃ j, decodeCop1D _ = _
  unfold decodeCop1D
  rw [show (encode (.mulD ft fs fd)).extractLsb' 0 6 = 0x02#6 from encR_fn ..]
  exact ⟨_, rfl⟩

theorem divS (ft : BitVec 5) (fs : BitVec 5) (fd : BitVec 5) : Statement (.divS ft fs fd) := by
  rw [Statement, cop1 (encode (.divS ft fs fd)) (encR_op ..)]
  unfold decodeCop1
  rw [show (encode (.divS ft fs fd)).extractLsb' 21 5 = 0x10#5 from encR_rs ..]
  show ∃ j, decodeCop1S _ = _
  unfold decodeCop1S
  rw [show (encode (.divS ft fs fd)).extractLsb' 0 6 = 0x03#6 from encR_fn ..]
  exact ⟨_, rfl⟩

theorem divD (ft : BitVec 5) (fs : BitVec 5) (fd : BitVec 5) : Statement (.divD ft fs fd) := by
  rw [Statement, cop1 (encode (.divD ft fs fd)) (encR_op ..)]
  unfold decodeCop1
  rw [show (encode (.divD ft fs fd)).extractLsb' 21 5 = 0x11#5 from encR_rs ..]
  show ∃ j, decodeCop1D _ = _
  unfold decodeCop1D
  rw [show (encode (.divD ft fs fd)).extractLsb' 0 6 = 0x03#6 from encR_fn ..]
  exact ⟨_, rfl⟩

theorem sqrtS (fs : BitVec 5) (fd : BitVec 5) : Statement (.sqrtS fs fd) := by
  rw [Statement, cop1 (encode (.sqrtS fs fd)) (encR_op ..)]
  unfold decodeCop1
  rw [show (encode (.sqrtS fs fd)).extractLsb' 21 5 = 0x10#5 from encR_rs ..]
  show ∃ j, decodeCop1S _ = _
  unfold decodeCop1S
  rw [show (encode (.sqrtS fs fd)).extractLsb' 0 6 = 0x04#6 from encR_fn ..]
  exact ⟨_, rfl⟩

theorem sqrtD (fs : BitVec 5) (fd : BitVec 5) : Statement (.sqrtD fs fd) := by
  rw [Statement, cop1 (encode (.sqrtD fs fd)) (encR_op ..)]
  unfold decodeCop1
  rw [show (encode (.sqrtD fs fd)).extractLsb' 21 5 = 0x11#5 from encR_rs ..]
  show ∃ j, decodeCop1D _ = _
  unfold decodeCop1D
  rw [show (encode (.sqrtD fs fd)).extractLsb' 0 6 = 0x04#6 from encR_fn ..]
  exact ⟨_, rfl⟩

theorem absS (fs : BitVec 5) (fd : BitVec 5) : Statement (.absS fs fd) := by
  rw [Statement, cop1 (encode (.absS fs fd)) (encR_op ..)]
  unfold decodeCop1
  rw [show (encode (.absS fs fd)).extractLsb' 21 5 = 0x10#5 from encR_rs ..]
  show ∃ j, decodeCop1S _ = _
  unfold decodeCop1S
  rw [show (encode (.absS fs fd)).extractLsb' 0 6 = 0x05#6 from encR_fn ..]
  exact ⟨_, rfl⟩

theorem absD (fs : BitVec 5) (fd : BitVec 5) : Statement (.absD fs fd) := by
  rw [Statement, cop1 (encode (.absD fs fd)) (encR_op ..)]
  unfold decodeCop1
  rw [show (encode (.absD fs fd)).extractLsb' 21 5 = 0x11#5 from encR_rs ..]
  show ∃ j, decodeCop1D _ = _
  unfold decodeCop1D
  rw [show (encode (.absD fs fd)).extractLsb' 0 6 = 0x05#6 from encR_fn ..]
  exact ⟨_, rfl⟩

theorem movS (fs : BitVec 5) (fd : BitVec 5) : Statement (.movS fs fd) := by
  rw [Statement, cop1 (encode (.movS fs fd)) (encR_op ..)]
  unfold decodeCop1
  rw [show (encode (.movS fs fd)).extractLsb' 21 5 = 0x10#5 from encR_rs ..]
  show ∃ j, decodeCop1S _ = _
  unfold decodeCop1S
  rw [show (encode (.movS fs fd)).extractLsb' 0 6 = 0x06#6 from encR_fn ..]
  exact ⟨_, rfl⟩

theorem movD (fs : BitVec 5) (fd : BitVec 5) : Statement (.movD fs fd) := by
  rw [Statement, cop1 (encode (.movD fs fd)) (encR_op ..)]
  unfold decodeCop1
  rw [show (encode (.movD fs fd)).extractLsb' 21 5 = 0x11#5 from encR_rs ..]
  show ∃ j, decodeCop1D _ = _
  unfold decodeCop1D
  rw [show (encode (.movD fs fd)).extractLsb' 0 6 = 0x06#6 from encR_fn ..]
  exact ⟨_, rfl⟩

theorem negS (fs : BitVec 5) (fd : BitVec 5) : Statement (.negS fs fd) := by
  rw [Statement, cop1 (encode (.negS fs fd)) (encR_op ..)]
  unfold decodeCop1
  rw [show (encode (.negS fs fd)).extractLsb' 21 5 = 0x10#5 from encR_rs ..]
  show ∃ j, decodeCop1S _ = _
  unfold decodeCop1S
  rw [show (encode (.negS fs fd)).extractLsb' 0 6 = 0x07#6 from encR_fn ..]
  exact ⟨_, rfl⟩

theorem negD (fs : BitVec 5) (fd : BitVec 5) : Statement (.negD fs fd) := by
  rw [Statement, cop1 (encode (.negD fs fd)) (encR_op ..)]
  unfold decodeCop1
  rw [show (encode (.negD fs fd)).extractLsb' 21 5 = 0x11#5 from encR_rs ..]
  show ∃ j, decodeCop1D _ = _
  unfold decodeCop1D
  rw [show (encode (.negD fs fd)).extractLsb' 0 6 = 0x07#6 from encR_fn ..]
  exact ⟨_, rfl⟩

theorem roundLS (fs : BitVec 5) (fd : BitVec 5) : Statement (.roundLS fs fd) := by
  rw [Statement, cop1 (encode (.roundLS fs fd)) (encR_op ..)]
  unfold decodeCop1
  rw [show (encode (.roundLS fs fd)).extractLsb' 21 5 = 0x10#5 from encR_rs ..]
  show ∃ j, decodeCop1S _ = _
  unfold decodeCop1S
  rw [show (encode (.roundLS fs fd)).extractLsb' 0 6 = 0x08#6 from encR_fn ..]
  exact ⟨_, rfl⟩

theorem roundLD (fs : BitVec 5) (fd : BitVec 5) : Statement (.roundLD fs fd) := by
  rw [Statement, cop1 (encode (.roundLD fs fd)) (encR_op ..)]
  unfold decodeCop1
  rw [show (encode (.roundLD fs fd)).extractLsb' 21 5 = 0x11#5 from encR_rs ..]
  show ∃ j, decodeCop1D _ = _
  unfold decodeCop1D
  rw [show (encode (.roundLD fs fd)).extractLsb' 0 6 = 0x08#6 from encR_fn ..]
  exact ⟨_, rfl⟩

theorem truncLS (fs : BitVec 5) (fd : BitVec 5) : Statement (.truncLS fs fd) := by
  rw [Statement, cop1 (encode (.truncLS fs fd)) (encR_op ..)]
  unfold decodeCop1
  rw [show (encode (.truncLS fs fd)).extractLsb' 21 5 = 0x10#5 from encR_rs ..]
  show ∃ j, decodeCop1S _ = _
  unfold decodeCop1S
  rw [show (encode (.truncLS fs fd)).extractLsb' 0 6 = 0x09#6 from encR_fn ..]
  exact ⟨_, rfl⟩

theorem truncLD (fs : BitVec 5) (fd : BitVec 5) : Statement (.truncLD fs fd) := by
  rw [Statement, cop1 (encode (.truncLD fs fd)) (encR_op ..)]
  unfold decodeCop1
  rw [show (encode (.truncLD fs fd)).extractLsb' 21 5 = 0x11#5 from encR_rs ..]
  show ∃ j, decodeCop1D _ = _
  unfold decodeCop1D
  rw [show (encode (.truncLD fs fd)).extractLsb' 0 6 = 0x09#6 from encR_fn ..]
  exact ⟨_, rfl⟩

theorem ceilLS (fs : BitVec 5) (fd : BitVec 5) : Statement (.ceilLS fs fd) := by
  rw [Statement, cop1 (encode (.ceilLS fs fd)) (encR_op ..)]
  unfold decodeCop1
  rw [show (encode (.ceilLS fs fd)).extractLsb' 21 5 = 0x10#5 from encR_rs ..]
  show ∃ j, decodeCop1S _ = _
  unfold decodeCop1S
  rw [show (encode (.ceilLS fs fd)).extractLsb' 0 6 = 0x0a#6 from encR_fn ..]
  exact ⟨_, rfl⟩

theorem ceilLD (fs : BitVec 5) (fd : BitVec 5) : Statement (.ceilLD fs fd) := by
  rw [Statement, cop1 (encode (.ceilLD fs fd)) (encR_op ..)]
  unfold decodeCop1
  rw [show (encode (.ceilLD fs fd)).extractLsb' 21 5 = 0x11#5 from encR_rs ..]
  show ∃ j, decodeCop1D _ = _
  unfold decodeCop1D
  rw [show (encode (.ceilLD fs fd)).extractLsb' 0 6 = 0x0a#6 from encR_fn ..]
  exact ⟨_, rfl⟩

theorem floorLS (fs : BitVec 5) (fd : BitVec 5) : Statement (.floorLS fs fd) := by
  rw [Statement, cop1 (encode (.floorLS fs fd)) (encR_op ..)]
  unfold decodeCop1
  rw [show (encode (.floorLS fs fd)).extractLsb' 21 5 = 0x10#5 from encR_rs ..]
  show ∃ j, decodeCop1S _ = _
  unfold decodeCop1S
  rw [show (encode (.floorLS fs fd)).extractLsb' 0 6 = 0x0b#6 from encR_fn ..]
  exact ⟨_, rfl⟩

theorem floorLD (fs : BitVec 5) (fd : BitVec 5) : Statement (.floorLD fs fd) := by
  rw [Statement, cop1 (encode (.floorLD fs fd)) (encR_op ..)]
  unfold decodeCop1
  rw [show (encode (.floorLD fs fd)).extractLsb' 21 5 = 0x11#5 from encR_rs ..]
  show ∃ j, decodeCop1D _ = _
  unfold decodeCop1D
  rw [show (encode (.floorLD fs fd)).extractLsb' 0 6 = 0x0b#6 from encR_fn ..]
  exact ⟨_, rfl⟩

theorem roundWS (fs : BitVec 5) (fd : BitVec 5) : Statement (.roundWS fs fd) := by
  rw [Statement, cop1 (encode (.roundWS fs fd)) (encR_op ..)]
  unfold decodeCop1
  rw [show (encode (.roundWS fs fd)).extractLsb' 21 5 = 0x10#5 from encR_rs ..]
  show ∃ j, decodeCop1S _ = _
  unfold decodeCop1S
  rw [show (encode (.roundWS fs fd)).extractLsb' 0 6 = 0x0c#6 from encR_fn ..]
  exact ⟨_, rfl⟩

theorem roundWD (fs : BitVec 5) (fd : BitVec 5) : Statement (.roundWD fs fd) := by
  rw [Statement, cop1 (encode (.roundWD fs fd)) (encR_op ..)]
  unfold decodeCop1
  rw [show (encode (.roundWD fs fd)).extractLsb' 21 5 = 0x11#5 from encR_rs ..]
  show ∃ j, decodeCop1D _ = _
  unfold decodeCop1D
  rw [show (encode (.roundWD fs fd)).extractLsb' 0 6 = 0x0c#6 from encR_fn ..]
  exact ⟨_, rfl⟩

theorem truncWS (fs : BitVec 5) (fd : BitVec 5) : Statement (.truncWS fs fd) := by
  rw [Statement, cop1 (encode (.truncWS fs fd)) (encR_op ..)]
  unfold decodeCop1
  rw [show (encode (.truncWS fs fd)).extractLsb' 21 5 = 0x10#5 from encR_rs ..]
  show ∃ j, decodeCop1S _ = _
  unfold decodeCop1S
  rw [show (encode (.truncWS fs fd)).extractLsb' 0 6 = 0x0d#6 from encR_fn ..]
  exact ⟨_, rfl⟩

theorem truncWD (fs : BitVec 5) (fd : BitVec 5) : Statement (.truncWD fs fd) := by
  rw [Statement, cop1 (encode (.truncWD fs fd)) (encR_op ..)]
  unfold decodeCop1
  rw [show (encode (.truncWD fs fd)).extractLsb' 21 5 = 0x11#5 from encR_rs ..]
  show ∃ j, decodeCop1D _ = _
  unfold decodeCop1D
  rw [show (encode (.truncWD fs fd)).extractLsb' 0 6 = 0x0d#6 from encR_fn ..]
  exact ⟨_, rfl⟩

theorem ceilWS (fs : BitVec 5) (fd : BitVec 5) : Statement (.ceilWS fs fd) := by
  rw [Statement, cop1 (encode (.ceilWS fs fd)) (encR_op ..)]
  unfold decodeCop1
  rw [show (encode (.ceilWS fs fd)).extractLsb' 21 5 = 0x10#5 from encR_rs ..]
  show ∃ j, decodeCop1S _ = _
  unfold decodeCop1S
  rw [show (encode (.ceilWS fs fd)).extractLsb' 0 6 = 0x0e#6 from encR_fn ..]
  exact ⟨_, rfl⟩

theorem ceilWD (fs : BitVec 5) (fd : BitVec 5) : Statement (.ceilWD fs fd) := by
  rw [Statement, cop1 (encode (.ceilWD fs fd)) (encR_op ..)]
  unfold decodeCop1
  rw [show (encode (.ceilWD fs fd)).extractLsb' 21 5 = 0x11#5 from encR_rs ..]
  show ∃ j, decodeCop1D _ = _
  unfold decodeCop1D
  rw [show (encode (.ceilWD fs fd)).extractLsb' 0 6 = 0x0e#6 from encR_fn ..]
  exact ⟨_, rfl⟩

theorem floorWS (fs : BitVec 5) (fd : BitVec 5) : Statement (.floorWS fs fd) := by
  rw [Statement, cop1 (encode (.floorWS fs fd)) (encR_op ..)]
  unfold decodeCop1
  rw [show (encode (.floorWS fs fd)).extractLsb' 21 5 = 0x10#5 from encR_rs ..]
  show ∃ j, decodeCop1S _ = _
  unfold decodeCop1S
  rw [show (encode (.floorWS fs fd)).extractLsb' 0 6 = 0x0f#6 from encR_fn ..]
  exact ⟨_, rfl⟩

theorem floorWD (fs : BitVec 5) (fd : BitVec 5) : Statement (.floorWD fs fd) := by
  rw [Statement, cop1 (encode (.floorWD fs fd)) (encR_op ..)]
  unfold decodeCop1
  rw [show (encode (.floorWD fs fd)).extractLsb' 21 5 = 0x11#5 from encR_rs ..]
  show ∃ j, decodeCop1D _ = _
  unfold decodeCop1D
  rw [show (encode (.floorWD fs fd)).extractLsb' 0 6 = 0x0f#6 from encR_fn ..]
  exact ⟨_, rfl⟩

theorem cvtSD (fs : BitVec 5) (fd : BitVec 5) : Statement (.cvtSD fs fd) := by
  rw [Statement, cop1 (encode (.cvtSD fs fd)) (encR_op ..)]
  unfold decodeCop1
  rw [show (encode (.cvtSD fs fd)).extractLsb' 21 5 = 0x11#5 from encR_rs ..]
  show ∃ j, decodeCop1D _ = _
  unfold decodeCop1D
  rw [show (encode (.cvtSD fs fd)).extractLsb' 0 6 = 0x20#6 from encR_fn ..]
  exact ⟨_, rfl⟩

theorem cvtSW (fs : BitVec 5) (fd : BitVec 5) : Statement (.cvtSW fs fd) := by
  rw [Statement, cop1 (encode (.cvtSW fs fd)) (encR_op ..)]
  unfold decodeCop1
  rw [show (encode (.cvtSW fs fd)).extractLsb' 21 5 = 0x14#5 from encR_rs ..]
  show ∃ j, decodeCop1W _ = _
  unfold decodeCop1W
  rw [show (encode (.cvtSW fs fd)).extractLsb' 0 6 = 0x20#6 from encR_fn ..]
  exact ⟨_, rfl⟩

theorem cvtSL (fs : BitVec 5) (fd : BitVec 5) : Statement (.cvtSL fs fd) := by
  rw [Statement, cop1 (encode (.cvtSL fs fd)) (encR_op ..)]
  unfold decodeCop1
  rw [show (encode (.cvtSL fs fd)).extractLsb' 21 5 = 0x15#5 from encR_rs ..]
  show ∃ j, decodeCop1L _ = _
  unfold decodeCop1L
  rw [show (encode (.cvtSL fs fd)).extractLsb' 0 6 = 0x20#6 from encR_fn ..]
  exact ⟨_, rfl⟩

theorem cvtDS (fs : BitVec 5) (fd : BitVec 5) : Statement (.cvtDS fs fd) := by
  rw [Statement, cop1 (encode (.cvtDS fs fd)) (encR_op ..)]
  unfold decodeCop1
  rw [show (encode (.cvtDS fs fd)).extractLsb' 21 5 = 0x10#5 from encR_rs ..]
  show ∃ j, decodeCop1S _ = _
  unfold decodeCop1S
  rw [show (encode (.cvtDS fs fd)).extractLsb' 0 6 = 0x21#6 from encR_fn ..]
  exact ⟨_, rfl⟩

theorem cvtDW (fs : BitVec 5) (fd : BitVec 5) : Statement (.cvtDW fs fd) := by
  rw [Statement, cop1 (encode (.cvtDW fs fd)) (encR_op ..)]
  unfold decodeCop1
  rw [show (encode (.cvtDW fs fd)).extractLsb' 21 5 = 0x14#5 from encR_rs ..]
  show ∃ j, decodeCop1W _ = _
  unfold decodeCop1W
  rw [show (encode (.cvtDW fs fd)).extractLsb' 0 6 = 0x21#6 from encR_fn ..]
  exact ⟨_, rfl⟩

theorem cvtDL (fs : BitVec 5) (fd : BitVec 5) : Statement (.cvtDL fs fd) := by
  rw [Statement, cop1 (encode (.cvtDL fs fd)) (encR_op ..)]
  unfold decodeCop1
  rw [show (encode (.cvtDL fs fd)).extractLsb' 21 5 = 0x15#5 from encR_rs ..]
  show ∃ j, decodeCop1L _ = _
  unfold decodeCop1L
  rw [show (encode (.cvtDL fs fd)).extractLsb' 0 6 = 0x21#6 from encR_fn ..]
  exact ⟨_, rfl⟩

theorem cvtWS (fs : BitVec 5) (fd : BitVec 5) : Statement (.cvtWS fs fd) := by
  rw [Statement, cop1 (encode (.cvtWS fs fd)) (encR_op ..)]
  unfold decodeCop1
  rw [show (encode (.cvtWS fs fd)).extractLsb' 21 5 = 0x10#5 from encR_rs ..]
  show ∃ j, decodeCop1S _ = _
  unfold decodeCop1S
  rw [show (encode (.cvtWS fs fd)).extractLsb' 0 6 = 0x24#6 from encR_fn ..]
  exact ⟨_, rfl⟩

theorem cvtWD (fs : BitVec 5) (fd : BitVec 5) : Statement (.cvtWD fs fd) := by
  rw [Statement, cop1 (encode (.cvtWD fs fd)) (encR_op ..)]
  unfold decodeCop1
  rw [show (encode (.cvtWD fs fd)).extractLsb' 21 5 = 0x11#5 from encR_rs ..]
  show ∃ j, decodeCop1D _ = _
  unfold decodeCop1D
  rw [show (encode (.cvtWD fs fd)).extractLsb' 0 6 = 0x24#6 from encR_fn ..]
  exact ⟨_, rfl⟩

theorem cvtLS (fs : BitVec 5) (fd : BitVec 5) : Statement (.cvtLS fs fd) := by
  rw [Statement, cop1 (encode (.cvtLS fs fd)) (encR_op ..)]
  unfold decodeCop1
  rw [show (encode (.cvtLS fs fd)).extractLsb' 21 5 = 0x10#5 from encR_rs ..]
  show ∃ j, decodeCop1S _ = _
  unfold decodeCop1S
  rw [show (encode (.cvtLS fs fd)).extractLsb' 0 6 = 0x25#6 from encR_fn ..]
  exact ⟨_, rfl⟩

theorem cvtLD (fs : BitVec 5) (fd : BitVec 5) : Statement (.cvtLD fs fd) := by
  rw [Statement, cop1 (encode (.cvtLD fs fd)) (encR_op ..)]
  unfold decodeCop1
  rw [show (encode (.cvtLD fs fd)).extractLsb' 21 5 = 0x11#5 from encR_rs ..]
  show ∃ j, decodeCop1D _ = _
  unfold decodeCop1D
  rw [show (encode (.cvtLD fs fd)).extractLsb' 0 6 = 0x25#6 from encR_fn ..]
  exact ⟨_, rfl⟩

theorem movfS (cc : BitVec 3) (fs : BitVec 5) (fd : BitVec 5) : Statement (.movfS cc fs fd) := by
  rw [Statement, cop1 (encode (.movfS cc fs fd)) (encR_op ..)]
  unfold decodeCop1
  rw [show (encode (.movfS cc fs fd)).extractLsb' 21 5 = 0x10#5 from encR_rs ..]
  show ∃ j, decodeCop1S _ = _
  unfold decodeCop1S
  rw [show (encode (.movfS cc fs fd)).extractLsb' 0 6 = 0x11#6 from encR_fn ..]
  show ∃ j, (if (encode (.movfS cc fs fd)).extractLsb' 16 1 = 0#1 then _ else _) = _
  rw [if_pos (by rw [show (encode (.movfS cc fs fd)).extractLsb' 16 1 = 0#1 from encR_tf ..])]
  exact ⟨_, rfl⟩

theorem movfD (cc : BitVec 3) (fs : BitVec 5) (fd : BitVec 5) : Statement (.movfD cc fs fd) := by
  rw [Statement, cop1 (encode (.movfD cc fs fd)) (encR_op ..)]
  unfold decodeCop1
  rw [show (encode (.movfD cc fs fd)).extractLsb' 21 5 = 0x11#5 from encR_rs ..]
  show ∃ j, decodeCop1D _ = _
  unfold decodeCop1D
  rw [show (encode (.movfD cc fs fd)).extractLsb' 0 6 = 0x11#6 from encR_fn ..]
  show ∃ j, (if (encode (.movfD cc fs fd)).extractLsb' 16 1 = 0#1 then _ else _) = _
  rw [if_pos (by rw [show (encode (.movfD cc fs fd)).extractLsb' 16 1 = 0#1 from encR_tf ..])]
  exact ⟨_, rfl⟩

theorem movtS (cc : BitVec 3) (fs : BitVec 5) (fd : BitVec 5) : Statement (.movtS cc fs fd) := by
  rw [Statement, cop1 (encode (.movtS cc fs fd)) (encR_op ..)]
  unfold decodeCop1
  rw [show (encode (.movtS cc fs fd)).extractLsb' 21 5 = 0x10#5 from encR_rs ..]
  show ∃ j, decodeCop1S _ = _
  unfold decodeCop1S
  rw [show (encode (.movtS cc fs fd)).extractLsb' 0 6 = 0x11#6 from encR_fn ..]
  show ∃ j, (if (encode (.movtS cc fs fd)).extractLsb' 16 1 = 0#1 then _ else _) = _
  rw [if_neg (by rw [show (encode (.movtS cc fs fd)).extractLsb' 16 1 = 1#1 from encR_tf ..]; decide)]
  exact ⟨_, rfl⟩

theorem movtD (cc : BitVec 3) (fs : BitVec 5) (fd : BitVec 5) : Statement (.movtD cc fs fd) := by
  rw [Statement, cop1 (encode (.movtD cc fs fd)) (encR_op ..)]
  unfold decodeCop1
  rw [show (encode (.movtD cc fs fd)).extractLsb' 21 5 = 0x11#5 from encR_rs ..]
  show ∃ j, decodeCop1D _ = _
  unfold decodeCop1D
  rw [show (encode (.movtD cc fs fd)).extractLsb' 0 6 = 0x11#6 from encR_fn ..]
  show ∃ j, (if (encode (.movtD cc fs fd)).extractLsb' 16 1 = 0#1 then _ else _) = _
  rw [if_neg (by rw [show (encode (.movtD cc fs fd)).extractLsb' 16 1 = 1#1 from encR_tf ..]; decide)]
  exact ⟨_, rfl⟩

theorem movzS (rt : BitVec 5) (fs : BitVec 5) (fd : BitVec 5) : Statement (.movzS rt fs fd) := by
  rw [Statement, cop1 (encode (.movzS rt fs fd)) (encR_op ..)]
  unfold decodeCop1
  rw [show (encode (.movzS rt fs fd)).extractLsb' 21 5 = 0x10#5 from encR_rs ..]
  show ∃ j, decodeCop1S _ = _
  unfold decodeCop1S
  rw [show (encode (.movzS rt fs fd)).extractLsb' 0 6 = 0x12#6 from encR_fn ..]
  exact ⟨_, rfl⟩

theorem movzD (rt : BitVec 5) (fs : BitVec 5) (fd : BitVec 5) : Statement (.movzD rt fs fd) := by
  rw [Statement, cop1 (encode (.movzD rt fs fd)) (encR_op ..)]
  unfold decodeCop1
  rw [show (encode (.movzD rt fs fd)).extractLsb' 21 5 = 0x11#5 from encR_rs ..]
  show ∃ j, decodeCop1D _ = _
  unfold decodeCop1D
  rw [show (encode (.movzD rt fs fd)).extractLsb' 0 6 = 0x12#6 from encR_fn ..]
  exact ⟨_, rfl⟩

theorem movnS (rt : BitVec 5) (fs : BitVec 5) (fd : BitVec 5) : Statement (.movnS rt fs fd) := by
  rw [Statement, cop1 (encode (.movnS rt fs fd)) (encR_op ..)]
  unfold decodeCop1
  rw [show (encode (.movnS rt fs fd)).extractLsb' 21 5 = 0x10#5 from encR_rs ..]
  show ∃ j, decodeCop1S _ = _
  unfold decodeCop1S
  rw [show (encode (.movnS rt fs fd)).extractLsb' 0 6 = 0x13#6 from encR_fn ..]
  exact ⟨_, rfl⟩

theorem movnD (rt : BitVec 5) (fs : BitVec 5) (fd : BitVec 5) : Statement (.movnD rt fs fd) := by
  rw [Statement, cop1 (encode (.movnD rt fs fd)) (encR_op ..)]
  unfold decodeCop1
  rw [show (encode (.movnD rt fs fd)).extractLsb' 21 5 = 0x11#5 from encR_rs ..]
  show ∃ j, decodeCop1D _ = _
  unfold decodeCop1D
  rw [show (encode (.movnD rt fs fd)).extractLsb' 0 6 = 0x13#6 from encR_fn ..]
  exact ⟨_, rfl⟩

theorem recipS (fs : BitVec 5) (fd : BitVec 5) : Statement (.recipS fs fd) := by
  rw [Statement, cop1 (encode (.recipS fs fd)) (encR_op ..)]
  unfold decodeCop1
  rw [show (encode (.recipS fs fd)).extractLsb' 21 5 = 0x10#5 from encR_rs ..]
  show ∃ j, decodeCop1S _ = _
  unfold decodeCop1S
  rw [show (encode (.recipS fs fd)).extractLsb' 0 6 = 0x15#6 from encR_fn ..]
  exact ⟨_, rfl⟩

theorem recipD (fs : BitVec 5) (fd : BitVec 5) : Statement (.recipD fs fd) := by
  rw [Statement, cop1 (encode (.recipD fs fd)) (encR_op ..)]
  unfold decodeCop1
  rw [show (encode (.recipD fs fd)).extractLsb' 21 5 = 0x11#5 from encR_rs ..]
  show ∃ j, decodeCop1D _ = _
  unfold decodeCop1D
  rw [show (encode (.recipD fs fd)).extractLsb' 0 6 = 0x15#6 from encR_fn ..]
  exact ⟨_, rfl⟩

theorem rsqrtS (fs : BitVec 5) (fd : BitVec 5) : Statement (.rsqrtS fs fd) := by
  rw [Statement, cop1 (encode (.rsqrtS fs fd)) (encR_op ..)]
  unfold decodeCop1
  rw [show (encode (.rsqrtS fs fd)).extractLsb' 21 5 = 0x10#5 from encR_rs ..]
  show ∃ j, decodeCop1S _ = _
  unfold decodeCop1S
  rw [show (encode (.rsqrtS fs fd)).extractLsb' 0 6 = 0x16#6 from encR_fn ..]
  exact ⟨_, rfl⟩

theorem rsqrtD (fs : BitVec 5) (fd : BitVec 5) : Statement (.rsqrtD fs fd) := by
  rw [Statement, cop1 (encode (.rsqrtD fs fd)) (encR_op ..)]
  unfold decodeCop1
  rw [show (encode (.rsqrtD fs fd)).extractLsb' 21 5 = 0x11#5 from encR_rs ..]
  show ∃ j, decodeCop1D _ = _
  unfold decodeCop1D
  rw [show (encode (.rsqrtD fs fd)).extractLsb' 0 6 = 0x16#6 from encR_fn ..]
  exact ⟨_, rfl⟩

theorem maddS (fr : BitVec 5) (ft : BitVec 5) (fs : BitVec 5) (fd : BitVec 5) : Statement (.maddS fr ft fs fd) := by
  rw [Statement, cop1x (encode (.maddS fr ft fs fd)) (encR_op ..)]
  unfold decodeCop1x
  rw [show (encode (.maddS fr ft fs fd)).extractLsb' 0 6 = 0x20#6 from encR_fn ..]
  exact ⟨_, rfl⟩

theorem maddD (fr : BitVec 5) (ft : BitVec 5) (fs : BitVec 5) (fd : BitVec 5) : Statement (.maddD fr ft fs fd) := by
  rw [Statement, cop1x (encode (.maddD fr ft fs fd)) (encR_op ..)]
  unfold decodeCop1x
  rw [show (encode (.maddD fr ft fs fd)).extractLsb' 0 6 = 0x21#6 from encR_fn ..]
  exact ⟨_, rfl⟩

theorem msubS (fr : BitVec 5) (ft : BitVec 5) (fs : BitVec 5) (fd : BitVec 5) : Statement (.msubS fr ft fs fd) := by
  rw [Statement, cop1x (encode (.msubS fr ft fs fd)) (encR_op ..)]
  unfold decodeCop1x
  rw [show (encode (.msubS fr ft fs fd)).extractLsb' 0 6 = 0x28#6 from encR_fn ..]
  exact ⟨_, rfl⟩

theorem msubD (fr : BitVec 5) (ft : BitVec 5) (fs : BitVec 5) (fd : BitVec 5) : Statement (.msubD fr ft fs fd) := by
  rw [Statement, cop1x (encode (.msubD fr ft fs fd)) (encR_op ..)]
  unfold decodeCop1x
  rw [show (encode (.msubD fr ft fs fd)).extractLsb' 0 6 = 0x29#6 from encR_fn ..]
  exact ⟨_, rfl⟩

theorem nmaddS (fr : BitVec 5) (ft : BitVec 5) (fs : BitVec 5) (fd : BitVec 5) : Statement (.nmaddS fr ft fs fd) := by
  rw [Statement, cop1x (encode (.nmaddS fr ft fs fd)) (encR_op ..)]
  unfold decodeCop1x
  rw [show (encode (.nmaddS fr ft fs fd)).extractLsb' 0 6 = 0x30#6 from encR_fn ..]
  exact ⟨_, rfl⟩

theorem nmaddD (fr : BitVec 5) (ft : BitVec 5) (fs : BitVec 5) (fd : BitVec 5) : Statement (.nmaddD fr ft fs fd) := by
  rw [Statement, cop1x (encode (.nmaddD fr ft fs fd)) (encR_op ..)]
  unfold decodeCop1x
  rw [show (encode (.nmaddD fr ft fs fd)).extractLsb' 0 6 = 0x31#6 from encR_fn ..]
  exact ⟨_, rfl⟩

theorem nmsubS (fr : BitVec 5) (ft : BitVec 5) (fs : BitVec 5) (fd : BitVec 5) : Statement (.nmsubS fr ft fs fd) := by
  rw [Statement, cop1x (encode (.nmsubS fr ft fs fd)) (encR_op ..)]
  unfold decodeCop1x
  rw [show (encode (.nmsubS fr ft fs fd)).extractLsb' 0 6 = 0x38#6 from encR_fn ..]
  exact ⟨_, rfl⟩

theorem nmsubD (fr : BitVec 5) (ft : BitVec 5) (fs : BitVec 5) (fd : BitVec 5) : Statement (.nmsubD fr ft fs fd) := by
  rw [Statement, cop1x (encode (.nmsubD fr ft fs fd)) (encR_op ..)]
  unfold decodeCop1x
  rw [show (encode (.nmsubD fr ft fs fd)).extractLsb' 0 6 = 0x39#6 from encR_fn ..]
  exact ⟨_, rfl⟩

theorem cFS (ft : BitVec 5) (fs : BitVec 5) (cc : BitVec 3) : Statement (.cFS ft fs cc) := by
  rw [Statement, cop1 (encode (.cFS ft fs cc)) (encR_op ..)]
  unfold decodeCop1
  rw [show (encode (.cFS ft fs cc)).extractLsb' 21 5 = 0x10#5 from encR_rs ..]
  show ∃ j, decodeCop1S _ = _
  unfold decodeCop1S
  rw [show (encode (.cFS ft fs cc)).extractLsb' 0 6 = 0x30#6 from encR_fn ..]
  exact ⟨_, rfl⟩

theorem cUnS (ft : BitVec 5) (fs : BitVec 5) (cc : BitVec 3) : Statement (.cUnS ft fs cc) := by
  rw [Statement, cop1 (encode (.cUnS ft fs cc)) (encR_op ..)]
  unfold decodeCop1
  rw [show (encode (.cUnS ft fs cc)).extractLsb' 21 5 = 0x10#5 from encR_rs ..]
  show ∃ j, decodeCop1S _ = _
  unfold decodeCop1S
  rw [show (encode (.cUnS ft fs cc)).extractLsb' 0 6 = 0x31#6 from encR_fn ..]
  exact ⟨_, rfl⟩

theorem cEqS (ft : BitVec 5) (fs : BitVec 5) (cc : BitVec 3) : Statement (.cEqS ft fs cc) := by
  rw [Statement, cop1 (encode (.cEqS ft fs cc)) (encR_op ..)]
  unfold decodeCop1
  rw [show (encode (.cEqS ft fs cc)).extractLsb' 21 5 = 0x10#5 from encR_rs ..]
  show ∃ j, decodeCop1S _ = _
  unfold decodeCop1S
  rw [show (encode (.cEqS ft fs cc)).extractLsb' 0 6 = 0x32#6 from encR_fn ..]
  exact ⟨_, rfl⟩

theorem cUeqS (ft : BitVec 5) (fs : BitVec 5) (cc : BitVec 3) : Statement (.cUeqS ft fs cc) := by
  rw [Statement, cop1 (encode (.cUeqS ft fs cc)) (encR_op ..)]
  unfold decodeCop1
  rw [show (encode (.cUeqS ft fs cc)).extractLsb' 21 5 = 0x10#5 from encR_rs ..]
  show ∃ j, decodeCop1S _ = _
  unfold decodeCop1S
  rw [show (encode (.cUeqS ft fs cc)).extractLsb' 0 6 = 0x33#6 from encR_fn ..]
  exact ⟨_, rfl⟩

theorem cOltS (ft : BitVec 5) (fs : BitVec 5) (cc : BitVec 3) : Statement (.cOltS ft fs cc) := by
  rw [Statement, cop1 (encode (.cOltS ft fs cc)) (encR_op ..)]
  unfold decodeCop1
  rw [show (encode (.cOltS ft fs cc)).extractLsb' 21 5 = 0x10#5 from encR_rs ..]
  show ∃ j, decodeCop1S _ = _
  unfold decodeCop1S
  rw [show (encode (.cOltS ft fs cc)).extractLsb' 0 6 = 0x34#6 from encR_fn ..]
  exact ⟨_, rfl⟩

theorem cUltS (ft : BitVec 5) (fs : BitVec 5) (cc : BitVec 3) : Statement (.cUltS ft fs cc) := by
  rw [Statement, cop1 (encode (.cUltS ft fs cc)) (encR_op ..)]
  unfold decodeCop1
  rw [show (encode (.cUltS ft fs cc)).extractLsb' 21 5 = 0x10#5 from encR_rs ..]
  show ∃ j, decodeCop1S _ = _
  unfold decodeCop1S
  rw [show (encode (.cUltS ft fs cc)).extractLsb' 0 6 = 0x35#6 from encR_fn ..]
  exact ⟨_, rfl⟩

theorem cOleS (ft : BitVec 5) (fs : BitVec 5) (cc : BitVec 3) : Statement (.cOleS ft fs cc) := by
  rw [Statement, cop1 (encode (.cOleS ft fs cc)) (encR_op ..)]
  unfold decodeCop1
  rw [show (encode (.cOleS ft fs cc)).extractLsb' 21 5 = 0x10#5 from encR_rs ..]
  show ∃ j, decodeCop1S _ = _
  unfold decodeCop1S
  rw [show (encode (.cOleS ft fs cc)).extractLsb' 0 6 = 0x36#6 from encR_fn ..]
  exact ⟨_, rfl⟩

theorem cUleS (ft : BitVec 5) (fs : BitVec 5) (cc : BitVec 3) : Statement (.cUleS ft fs cc) := by
  rw [Statement, cop1 (encode (.cUleS ft fs cc)) (encR_op ..)]
  unfold decodeCop1
  rw [show (encode (.cUleS ft fs cc)).extractLsb' 21 5 = 0x10#5 from encR_rs ..]
  show ∃ j, decodeCop1S _ = _
  unfold decodeCop1S
  rw [show (encode (.cUleS ft fs cc)).extractLsb' 0 6 = 0x37#6 from encR_fn ..]
  exact ⟨_, rfl⟩

theorem cSfS (ft : BitVec 5) (fs : BitVec 5) (cc : BitVec 3) : Statement (.cSfS ft fs cc) := by
  rw [Statement, cop1 (encode (.cSfS ft fs cc)) (encR_op ..)]
  unfold decodeCop1
  rw [show (encode (.cSfS ft fs cc)).extractLsb' 21 5 = 0x10#5 from encR_rs ..]
  show ∃ j, decodeCop1S _ = _
  unfold decodeCop1S
  rw [show (encode (.cSfS ft fs cc)).extractLsb' 0 6 = 0x38#6 from encR_fn ..]
  exact ⟨_, rfl⟩

theorem cNgleS (ft : BitVec 5) (fs : BitVec 5) (cc : BitVec 3) : Statement (.cNgleS ft fs cc) := by
  rw [Statement, cop1 (encode (.cNgleS ft fs cc)) (encR_op ..)]
  unfold decodeCop1
  rw [show (encode (.cNgleS ft fs cc)).extractLsb' 21 5 = 0x10#5 from encR_rs ..]
  show ∃ j, decodeCop1S _ = _
  unfold decodeCop1S
  rw [show (encode (.cNgleS ft fs cc)).extractLsb' 0 6 = 0x39#6 from encR_fn ..]
  exact ⟨_, rfl⟩

theorem cSeqS (ft : BitVec 5) (fs : BitVec 5) (cc : BitVec 3) : Statement (.cSeqS ft fs cc) := by
  rw [Statement, cop1 (encode (.cSeqS ft fs cc)) (encR_op ..)]
  unfold decodeCop1
  rw [show (encode (.cSeqS ft fs cc)).extractLsb' 21 5 = 0x10#5 from encR_rs ..]
  show ∃ j, decodeCop1S _ = _
  unfold decodeCop1S
  rw [show (encode (.cSeqS ft fs cc)).extractLsb' 0 6 = 0x3a#6 from encR_fn ..]
  exact ⟨_, rfl⟩

theorem cNglS (ft : BitVec 5) (fs : BitVec 5) (cc : BitVec 3) : Statement (.cNglS ft fs cc) := by
  rw [Statement, cop1 (encode (.cNglS ft fs cc)) (encR_op ..)]
  unfold decodeCop1
  rw [show (encode (.cNglS ft fs cc)).extractLsb' 21 5 = 0x10#5 from encR_rs ..]
  show ∃ j, decodeCop1S _ = _
  unfold decodeCop1S
  rw [show (encode (.cNglS ft fs cc)).extractLsb' 0 6 = 0x3b#6 from encR_fn ..]
  exact ⟨_, rfl⟩

theorem cLtS (ft : BitVec 5) (fs : BitVec 5) (cc : BitVec 3) : Statement (.cLtS ft fs cc) := by
  rw [Statement, cop1 (encode (.cLtS ft fs cc)) (encR_op ..)]
  unfold decodeCop1
  rw [show (encode (.cLtS ft fs cc)).extractLsb' 21 5 = 0x10#5 from encR_rs ..]
  show ∃ j, decodeCop1S _ = _
  unfold decodeCop1S
  rw [show (encode (.cLtS ft fs cc)).extractLsb' 0 6 = 0x3c#6 from encR_fn ..]
  exact ⟨_, rfl⟩

theorem cNgeS (ft : BitVec 5) (fs : BitVec 5) (cc : BitVec 3) : Statement (.cNgeS ft fs cc) := by
  rw [Statement, cop1 (encode (.cNgeS ft fs cc)) (encR_op ..)]
  unfold decodeCop1
  rw [show (encode (.cNgeS ft fs cc)).extractLsb' 21 5 = 0x10#5 from encR_rs ..]
  show ∃ j, decodeCop1S _ = _
  unfold decodeCop1S
  rw [show (encode (.cNgeS ft fs cc)).extractLsb' 0 6 = 0x3d#6 from encR_fn ..]
  exact ⟨_, rfl⟩

theorem cLeS (ft : BitVec 5) (fs : BitVec 5) (cc : BitVec 3) : Statement (.cLeS ft fs cc) := by
  rw [Statement, cop1 (encode (.cLeS ft fs cc)) (encR_op ..)]
  unfold decodeCop1
  rw [show (encode (.cLeS ft fs cc)).extractLsb' 21 5 = 0x10#5 from encR_rs ..]
  show ∃ j, decodeCop1S _ = _
  unfold decodeCop1S
  rw [show (encode (.cLeS ft fs cc)).extractLsb' 0 6 = 0x3e#6 from encR_fn ..]
  exact ⟨_, rfl⟩

theorem cNgtS (ft : BitVec 5) (fs : BitVec 5) (cc : BitVec 3) : Statement (.cNgtS ft fs cc) := by
  rw [Statement, cop1 (encode (.cNgtS ft fs cc)) (encR_op ..)]
  unfold decodeCop1
  rw [show (encode (.cNgtS ft fs cc)).extractLsb' 21 5 = 0x10#5 from encR_rs ..]
  show ∃ j, decodeCop1S _ = _
  unfold decodeCop1S
  rw [show (encode (.cNgtS ft fs cc)).extractLsb' 0 6 = 0x3f#6 from encR_fn ..]
  exact ⟨_, rfl⟩

theorem cFD (ft : BitVec 5) (fs : BitVec 5) (cc : BitVec 3) : Statement (.cFD ft fs cc) := by
  rw [Statement, cop1 (encode (.cFD ft fs cc)) (encR_op ..)]
  unfold decodeCop1
  rw [show (encode (.cFD ft fs cc)).extractLsb' 21 5 = 0x11#5 from encR_rs ..]
  show ∃ j, decodeCop1D _ = _
  unfold decodeCop1D
  rw [show (encode (.cFD ft fs cc)).extractLsb' 0 6 = 0x30#6 from encR_fn ..]
  exact ⟨_, rfl⟩

theorem cUnD (ft : BitVec 5) (fs : BitVec 5) (cc : BitVec 3) : Statement (.cUnD ft fs cc) := by
  rw [Statement, cop1 (encode (.cUnD ft fs cc)) (encR_op ..)]
  unfold decodeCop1
  rw [show (encode (.cUnD ft fs cc)).extractLsb' 21 5 = 0x11#5 from encR_rs ..]
  show ∃ j, decodeCop1D _ = _
  unfold decodeCop1D
  rw [show (encode (.cUnD ft fs cc)).extractLsb' 0 6 = 0x31#6 from encR_fn ..]
  exact ⟨_, rfl⟩

theorem cEqD (ft : BitVec 5) (fs : BitVec 5) (cc : BitVec 3) : Statement (.cEqD ft fs cc) := by
  rw [Statement, cop1 (encode (.cEqD ft fs cc)) (encR_op ..)]
  unfold decodeCop1
  rw [show (encode (.cEqD ft fs cc)).extractLsb' 21 5 = 0x11#5 from encR_rs ..]
  show ∃ j, decodeCop1D _ = _
  unfold decodeCop1D
  rw [show (encode (.cEqD ft fs cc)).extractLsb' 0 6 = 0x32#6 from encR_fn ..]
  exact ⟨_, rfl⟩

theorem cUeqD (ft : BitVec 5) (fs : BitVec 5) (cc : BitVec 3) : Statement (.cUeqD ft fs cc) := by
  rw [Statement, cop1 (encode (.cUeqD ft fs cc)) (encR_op ..)]
  unfold decodeCop1
  rw [show (encode (.cUeqD ft fs cc)).extractLsb' 21 5 = 0x11#5 from encR_rs ..]
  show ∃ j, decodeCop1D _ = _
  unfold decodeCop1D
  rw [show (encode (.cUeqD ft fs cc)).extractLsb' 0 6 = 0x33#6 from encR_fn ..]
  exact ⟨_, rfl⟩

theorem cOltD (ft : BitVec 5) (fs : BitVec 5) (cc : BitVec 3) : Statement (.cOltD ft fs cc) := by
  rw [Statement, cop1 (encode (.cOltD ft fs cc)) (encR_op ..)]
  unfold decodeCop1
  rw [show (encode (.cOltD ft fs cc)).extractLsb' 21 5 = 0x11#5 from encR_rs ..]
  show ∃ j, decodeCop1D _ = _
  unfold decodeCop1D
  rw [show (encode (.cOltD ft fs cc)).extractLsb' 0 6 = 0x34#6 from encR_fn ..]
  exact ⟨_, rfl⟩

theorem cUltD (ft : BitVec 5) (fs : BitVec 5) (cc : BitVec 3) : Statement (.cUltD ft fs cc) := by
  rw [Statement, cop1 (encode (.cUltD ft fs cc)) (encR_op ..)]
  unfold decodeCop1
  rw [show (encode (.cUltD ft fs cc)).extractLsb' 21 5 = 0x11#5 from encR_rs ..]
  show ∃ j, decodeCop1D _ = _
  unfold decodeCop1D
  rw [show (encode (.cUltD ft fs cc)).extractLsb' 0 6 = 0x35#6 from encR_fn ..]
  exact ⟨_, rfl⟩

theorem cOleD (ft : BitVec 5) (fs : BitVec 5) (cc : BitVec 3) : Statement (.cOleD ft fs cc) := by
  rw [Statement, cop1 (encode (.cOleD ft fs cc)) (encR_op ..)]
  unfold decodeCop1
  rw [show (encode (.cOleD ft fs cc)).extractLsb' 21 5 = 0x11#5 from encR_rs ..]
  show ∃ j, decodeCop1D _ = _
  unfold decodeCop1D
  rw [show (encode (.cOleD ft fs cc)).extractLsb' 0 6 = 0x36#6 from encR_fn ..]
  exact ⟨_, rfl⟩

theorem cUleD (ft : BitVec 5) (fs : BitVec 5) (cc : BitVec 3) : Statement (.cUleD ft fs cc) := by
  rw [Statement, cop1 (encode (.cUleD ft fs cc)) (encR_op ..)]
  unfold decodeCop1
  rw [show (encode (.cUleD ft fs cc)).extractLsb' 21 5 = 0x11#5 from encR_rs ..]
  show ∃ j, decodeCop1D _ = _
  unfold decodeCop1D
  rw [show (encode (.cUleD ft fs cc)).extractLsb' 0 6 = 0x37#6 from encR_fn ..]
  exact ⟨_, rfl⟩

theorem cSfD (ft : BitVec 5) (fs : BitVec 5) (cc : BitVec 3) : Statement (.cSfD ft fs cc) := by
  rw [Statement, cop1 (encode (.cSfD ft fs cc)) (encR_op ..)]
  unfold decodeCop1
  rw [show (encode (.cSfD ft fs cc)).extractLsb' 21 5 = 0x11#5 from encR_rs ..]
  show ∃ j, decodeCop1D _ = _
  unfold decodeCop1D
  rw [show (encode (.cSfD ft fs cc)).extractLsb' 0 6 = 0x38#6 from encR_fn ..]
  exact ⟨_, rfl⟩

theorem cNgleD (ft : BitVec 5) (fs : BitVec 5) (cc : BitVec 3) : Statement (.cNgleD ft fs cc) := by
  rw [Statement, cop1 (encode (.cNgleD ft fs cc)) (encR_op ..)]
  unfold decodeCop1
  rw [show (encode (.cNgleD ft fs cc)).extractLsb' 21 5 = 0x11#5 from encR_rs ..]
  show ∃ j, decodeCop1D _ = _
  unfold decodeCop1D
  rw [show (encode (.cNgleD ft fs cc)).extractLsb' 0 6 = 0x39#6 from encR_fn ..]
  exact ⟨_, rfl⟩

theorem cSeqD (ft : BitVec 5) (fs : BitVec 5) (cc : BitVec 3) : Statement (.cSeqD ft fs cc) := by
  rw [Statement, cop1 (encode (.cSeqD ft fs cc)) (encR_op ..)]
  unfold decodeCop1
  rw [show (encode (.cSeqD ft fs cc)).extractLsb' 21 5 = 0x11#5 from encR_rs ..]
  show ∃ j, decodeCop1D _ = _
  unfold decodeCop1D
  rw [show (encode (.cSeqD ft fs cc)).extractLsb' 0 6 = 0x3a#6 from encR_fn ..]
  exact ⟨_, rfl⟩

theorem cNglD (ft : BitVec 5) (fs : BitVec 5) (cc : BitVec 3) : Statement (.cNglD ft fs cc) := by
  rw [Statement, cop1 (encode (.cNglD ft fs cc)) (encR_op ..)]
  unfold decodeCop1
  rw [show (encode (.cNglD ft fs cc)).extractLsb' 21 5 = 0x11#5 from encR_rs ..]
  show ∃ j, decodeCop1D _ = _
  unfold decodeCop1D
  rw [show (encode (.cNglD ft fs cc)).extractLsb' 0 6 = 0x3b#6 from encR_fn ..]
  exact ⟨_, rfl⟩

theorem cLtD (ft : BitVec 5) (fs : BitVec 5) (cc : BitVec 3) : Statement (.cLtD ft fs cc) := by
  rw [Statement, cop1 (encode (.cLtD ft fs cc)) (encR_op ..)]
  unfold decodeCop1
  rw [show (encode (.cLtD ft fs cc)).extractLsb' 21 5 = 0x11#5 from encR_rs ..]
  show ∃ j, decodeCop1D _ = _
  unfold decodeCop1D
  rw [show (encode (.cLtD ft fs cc)).extractLsb' 0 6 = 0x3c#6 from encR_fn ..]
  exact ⟨_, rfl⟩

theorem cNgeD (ft : BitVec 5) (fs : BitVec 5) (cc : BitVec 3) : Statement (.cNgeD ft fs cc) := by
  rw [Statement, cop1 (encode (.cNgeD ft fs cc)) (encR_op ..)]
  unfold decodeCop1
  rw [show (encode (.cNgeD ft fs cc)).extractLsb' 21 5 = 0x11#5 from encR_rs ..]
  show ∃ j, decodeCop1D _ = _
  unfold decodeCop1D
  rw [show (encode (.cNgeD ft fs cc)).extractLsb' 0 6 = 0x3d#6 from encR_fn ..]
  exact ⟨_, rfl⟩

theorem cLeD (ft : BitVec 5) (fs : BitVec 5) (cc : BitVec 3) : Statement (.cLeD ft fs cc) := by
  rw [Statement, cop1 (encode (.cLeD ft fs cc)) (encR_op ..)]
  unfold decodeCop1
  rw [show (encode (.cLeD ft fs cc)).extractLsb' 21 5 = 0x11#5 from encR_rs ..]
  show ∃ j, decodeCop1D _ = _
  unfold decodeCop1D
  rw [show (encode (.cLeD ft fs cc)).extractLsb' 0 6 = 0x3e#6 from encR_fn ..]
  exact ⟨_, rfl⟩

theorem cNgtD (ft : BitVec 5) (fs : BitVec 5) (cc : BitVec 3) : Statement (.cNgtD ft fs cc) := by
  rw [Statement, cop1 (encode (.cNgtD ft fs cc)) (encR_op ..)]
  unfold decodeCop1
  rw [show (encode (.cNgtD ft fs cc)).extractLsb' 21 5 = 0x11#5 from encR_rs ..]
  show ∃ j, decodeCop1D _ = _
  unfold decodeCop1D
  rw [show (encode (.cNgtD ft fs cc)).extractLsb' 0 6 = 0x3f#6 from encR_fn ..]
  exact ⟨_, rfl⟩

theorem cache (base : BitVec 5) (op : BitVec 5) (offset : BitVec 16) : Statement (.cache base op offset) := by
  unfold Statement decode
  rw [show (encode (.cache base op offset)).extractLsb' 26 6 = 0x2f#6 from encI_op ..]
  exact ⟨_, rfl⟩

theorem rfe : Statement (.rfe) := by
  rw [Statement, cop0 (encode (.rfe)) (encR_op ..)]
  unfold decodeCop0 decodeCop0Function
  rw [if_pos (by rw [show (encode (.rfe)).extractLsb' 25 1 = (0x10#5).extractLsb' 4 1 from encR_co ..]; decide),
    show (encode (.rfe)).extractLsb' 0 6 = 0x10#6 from encR_fn ..]
  exact ⟨_, rfl⟩

theorem cop2 (cofun : BitVec 26) : Statement (.cop2 cofun) := by
  unfold Statement decode
  rw [show (encode (.cop2 cofun)).extractLsb' 26 6 = 0x12#6 from encJ_op ..]
  exact ⟨_, rfl⟩

theorem lwc2 (cofun : BitVec 26) : Statement (.lwc2 cofun) := by
  unfold Statement decode
  rw [show (encode (.lwc2 cofun)).extractLsb' 26 6 = 0x32#6 from encJ_op ..]
  exact ⟨_, rfl⟩

theorem swc2 (cofun : BitVec 26) : Statement (.swc2 cofun) := by
  unfold Statement decode
  rw [show (encode (.swc2 cofun)).extractLsb' 26 6 = 0x3a#6 from encJ_op ..]
  exact ⟨_, rfl⟩

theorem ldc2 (cofun : BitVec 26) : Statement (.ldc2 cofun) := by
  unfold Statement decode
  rw [show (encode (.ldc2 cofun)).extractLsb' 26 6 = 0x36#6 from encJ_op ..]
  exact ⟨_, rfl⟩

theorem sdc2 (cofun : BitVec 26) : Statement (.sdc2 cofun) := by
  unfold Statement decode
  rw [show (encode (.sdc2 cofun)).extractLsb' 26 6 = 0x3e#6 from encJ_op ..]
  exact ⟨_, rfl⟩

end Sys2Proof.Laws.Encoding
end

