-- ==== Sys2Proof/Laws/Reference.lean ====
section
/-! SUPPORT. One lemma for each kind of reference, wherever it finds its bytes (spec/20_memory.md R250, spec/22_caches.md R352
to R358): a load from a `loadSource`, a store to a `storeTarget`, and an instruction fetch that misses. -/

namespace Sys2Proof.Machine

/-! ## Loads -/

/-- The command and the state of a block that a load or a fetch brings. -/
theorem readCommand_plain {a : CReq} (h : a.excl = false) :
    readCommand a = if a.ca = 3#3 then 2#3 else if a.ca = 4#3 then 1#3 else 0#3 := by
  unfold readCommand; simp [h]

theorem responseState_plain (c : BitVec 3) (st : BitVec 2) :
    responseState (if c = 3#3 then 2#3 else if c = 4#3 then 1#3 else 0#3) st =
      if st = 0#2 ∨ st = 1#2 ∧ (if c = 3#3 then 2#3 else if c = 4#3 then 1#3 else 0#3 : BitVec 3) = 1#3 then 2#2 else st := by
  unfold responseState
  have : (if c = 3#3 then 2#3 else if c = 4#3 then 1#3 else 0#3 : BitVec 3) ≠ 6#3 := by split <;> [decide; split <;> decide]
  generalize (if c = 3#3 then 2#3 else if c = 4#3 then 1#3 else 0#3 : BitVec 3) = q at *
  by_cases a0 : st = 0#2 <;> by_cases a1 : st = 1#2 ∧ q = 1#3 <;> simp [a0, a1, this]

/-- What the access of a data reference that completes can change: the caches, memory, the boundary, the counts, the performance
registers and the delayed-Watch latch. -/
def Touched (s : State) (pa : PAddr) (kind : AccessKind) (u : State) : Prop :=
  u = { s.watched pa kind with
    cp0 := { (s.watched pa kind).cp0 with perf := u.cp0.perf }
    mem := u.mem, ext := u.ext, caches := u.caches, events := u.events, sctp := u.sctp }

theorem Touched.of {s u : State} {pa : PAddr} {kind : AccessKind} {p : Perf} {m : Memory} {e : Ext} {c : Caches} {ev : CacheEvents}
    {sc : Sctp} (h : u = { s with cp0 := { s.cp0 with perf := p }, mem := m, ext := e, caches := c, events := ev, sctp := sc }) :
    Touched s pa kind (latchWatch (watchMatch s pa kind) u) := by
  subst h
  unfold Touched State.watched latchWatch
  split <;> rfl

theorem Touched.hw {s u : State} {pa : PAddr} {kind : AccessKind} (h : Touched s pa kind u) : u.hw = s.hw := by
  rw [h]; exact (watched_same s pa kind).2.2.2.2.2

theorem Touched.bigEndian {s u : State} {pa : PAddr} {kind : AccessKind} (h : Touched s pa kind u) :
    u.bigEndianCpu = s.bigEndianCpu := by
  have e : (s.watched pa kind).bigEndianCpu = s.bigEndianCpu := by unfold State.watched latchWatch; split <;> rfl
  rw [← e, h]; rfl

/-- A read wherever its bytes are, and what is left of the state when a load that follows completes. -/
theorem readAt_source {s : State} {va : DWord} {pa : PAddr} {n : Nat} {x : Xlate} {cause : BitVec 2} {link : Bool}
    {b : Nat → Byte} {after : State → State → Prop} (hn : 0 < n) (h32 : pa.toNat % 32 + n ≤ 32)
    (h : loadSource s va pa n x cause link b after) :
    translate s va .load = .ok x s ∧ ∃ u, readAt cause x pa n s = .ok ((List.range n).map b) u ∧
      Touched s pa .load u ∧ u.mem = s.mem ∧
      ∀ t : State, sameBesidesMemory { s.watched pa .load with cp0 := u.cp0 } t → t.llbit = link → t.caches = u.caches →
        t.mem = s.mem → t.ext = u.ext → after s t := by
  obtain ⟨_, _, e3, e4, e5, e6⟩ := watched_same s pa .load
  rcases h with ⟨h, hb, rfl⟩ | ⟨w, h, hg, hb, rfl⟩ | ⟨hwf, h, hb, rfl⟩
  · obtain rfl : b = fun k => Memory.read s.mem (pa.toNat + k) := funext hb
    refine ⟨h.translated, (s.watched pa .load).emit (.dspRead 0#3 pa n x.uc cause), ?_, rfl, e4, fun t t1 t2 t3 t4 t5 => ?_⟩
    · rw [readAt_uncached hn h.algorithm h.postponed h.idle h.free h.answered h.ram, readBytes_eq_map]
    · exact ⟨t1, t2, t3.trans e3, t4, fun a => by rw [t4], t5.trans (by rw [← e5]; rfl)⟩
  · obtain rfl : b = fun k => s.dByte (dSet x.va) w (pa.toNat % 32 + k) := funext hb
    refine ⟨h.translated, (s.watched pa .load).setDlru (dSet x.va) (!w), ?_, rfl, e4, fun t t1 t2 t3 t4 t5 => ?_⟩
    · rw [readAt_hit h.cached h.postponed h.goodTags h.settled h.hit hg, readBytes_eq_map]
    · exact ⟨t1, t2, t4, fun a => by rw [t4], t3.trans (by rw [← e3]; rfl), t5.trans e5⟩
  · obtain rfl : b = fun k => Memory.read s.mem (pa.toNat + k) := funext hb
    obtain ⟨u, hu, hB, hE⟩ := dAccess_brings (s := s) (a := dataReq x pa .load cause) (v := s.mru (mruIndex s pa))
      (st := responseState (readCommand (dataReq x pa .load cause)) s.hw.readState) h.toBlockMiss hwf h.goodTags h.settled h.primary rfl rfl
      (fun e => by cases e)
    have hF := hB.frame
    have hH : u.hw = s.hw := by rw [hF]
    refine ⟨h.translated, latchWatch (watchMatch s pa .load) u, ?_, ?_, ?_, fun t t1 t2 t3 t4 t5 => ?_⟩
    · unfold readAt
      simp only [watch_off h.postponed, h.cached, Bool.false_eq_true, if_false, if_true]
      unfold cachedRead
      rw [hu, Res.bind_ok]
      dsimp only
      have hg : dBytesBad u (dSet (dataReq x pa .load cause).va) false ((dataReq x pa .load cause).pa.toNat % 32) n = false :=
        dBytesBad_good hB.good n _ h32
      rw [hg]
      simp only [Bool.false_eq_true, if_false]
      rw [errGate_good, Res.bind_ok, Res.bind_ok, readBytes_eq_map]
      refine congrArg₂ Res.ok (List.map_congr_left fun k hk => ?_) rfl
      have hk := List.mem_range.1 hk
      rw [show u.dByte (dSet (dataReq x pa .load cause).va) false ((dataReq x pa .load cause).pa.toNat % 32 + k) = _ from
        hB.bytes _ _ _ (by show pa.toNat % 32 + k < 32; omega), if_pos ⟨rfl, rfl⟩]
      show Memory.read s.mem (pa.toNat / 32 * 32 + (pa.toNat % 32 + k)) = _
      congr 1; omega
    · exact Touched.of (m := s.mem) hF
    · have : u.mem = s.mem := by rw [hF]
      unfold latchWatch; split <;> exact this
    · have l1 : (latchWatch (watchMatch s pa .load) u).caches = u.caches := by unfold latchWatch; split <;> rfl
      have l2 : (latchWatch (watchMatch s pa .load) u).ext = u.ext := by unfold latchWatch; split <;> rfl
      have l3 : (latchWatch (watchMatch s pa .load) u).cp0 = { (s.watched pa .load).cp0 with perf := { s.cp0.perf with missAddr := u.cp0.perf.missAddr } } := by
        unfold State.watched latchWatch
        have : u.cp0 = { s.cp0 with perf := { s.cp0.perf with missAddr := u.cp0.perf.missAddr } } := by rw [hF]
        split <;> (dsimp only; rw [this])
      rw [l1] at t3
      rw [l2, hE] at t5
      rw [l3] at t1
      have l4 : t.cp0.perf.missAddr = u.cp0.perf.missAddr := by rw [t1.2.2.1]
      refine ⟨by unfold sameBesidesMiss; rw [l4]; exact t1, t2, t4, fun a => by rw [t4], ?_⟩
      rintro cmd st v rfl rfl rfl
      have hcmd : readCommand (dataReq x pa .load cause) = (if x.ca = 3#3 then 2#3 else if x.ca = 4#3 then 1#3 else 0#3) :=
        readCommand_plain rfl
      have q1 : u.dtag (dSet x.va) false =
          DTag.of (ptag pa) (responseState (readCommand (dataReq x pa .load cause)) s.hw.readState) 0#3 (s.mru (mruIndex s pa)) :=
        hB.line
      have q2 : ∀ set way off, off < 32 → u.dByte set way off = if set = dSet x.va ∧ way = false
          then Memory.read s.mem (pa.toNat / 32 * 32 + off) else s.dByte set way off := hB.bytes
      have q3 : ∀ set, u.dlru set = if set = dSet x.va then true else s.dlru set := hB.dlru
      have q4 : blockFilled x.va pa (s.mru (mruIndex s pa))
          (responseState (readCommand (dataReq x pa .load cause)) s.hw.readState) s u := hB.block
      have q5 : t.ext = { s.ext with
          bus := .blockRead 0#3 pa (readCommand (dataReq x pa .load cause)) cause 0#2 (s.mru (mruIndex s pa)) :: s.ext.bus } :=
        t5.trans (by unfold missRequests; rw [if_neg (fun h => by cases h.1)]; rfl)
      rw [hcmd] at q1 q4 q5
      rw [responseState_plain] at q1 q4
      have tH : t.bigEndianMem = u.bigEndianMem := by
        have := t1.2.2.2.2.1
        unfold State.bigEndianMem; rw [this, e6, hH]
      refine ⟨q5, fun set way => ?_, fun set way off ho => ?_, fun set => ?_, ⟨fun set way => ?_, fun set way k hk => ?_, ?_⟩, ?_⟩
      · unfold State.dtag; rw [t3]
        by_cases hc : set = dSet x.va ∧ way = false
        · rw [if_pos hc, hc.1, hc.2]; exact q1
        · rw [if_neg hc]
          rcases hB.others set way hc with q | ⟨q, _⟩
          · exact q
          · cases q
      · rw [← q2 set way off ho]
        unfold State.dByte State.dword; rw [tH, t3]
      · rw [← q3 set]; unfold State.dlru; rw [t3]
      · rw [← q4.1 set way]; unfold State.stag; rw [t3]
      · rw [← q4.2.1 set way k hk]; unfold State.squad; rw [t3]
      · rw [t3]; exact q4.2.2
      · rw [t3]; exact hB.same

/-- What a load of a general register leaves after a read. -/
theorem load_done {s u : State} {pa : PAddr} {rt : RegNum} {v : DWord} {link : Bool} {lb : PAddr}
    (hu : Touched s pa .load u) (hm : u.mem = s.mem) :
    ∀ t, t = advance (State.rset { u with llbit := link, llblock := lb } rt v) → gprBecomes rt v s t ∧ fprSame s t ∧
      t.llblock = lb ∧ sameBesidesMemory { s.watched pa .load with cp0 := u.cp0 } t ∧ t.llbit = link ∧ t.caches = u.caches ∧
      t.mem = s.mem ∧ t.ext = u.ext := by
  rintro t rfl
  obtain ⟨h1, h2, h3, h4, h5, h6, h7, h8⟩ := load_after
    (s := { s.watched pa .load with cp0 := u.cp0, events := u.events, sctp := u.sctp }) (u := { u with llbit := link, llblock := lb })
    (rt := rt) (v := v) (link := link) (by
      have hm' : u.mem = (s.watched pa .load).mem := hm.trans (watched_same s pa .load).2.2.2.1.symm
      have e : u = { s.watched pa .load with cp0 := u.cp0, ext := u.ext, caches := u.caches, events := u.events, sctp := u.sctp } := by
        conv_lhs => rw [hu, hm']
        conv_rhs => rw [show u.cp0 = { (s.watched pa .load).cp0 with perf := u.cp0.perf } by rw [hu]]
      conv_lhs => rw [e])
  refine ⟨fun r => (h1 r).trans ?_, fun q => (h2 q).trans (watched_fraw s pa .load q), h3, h4, h5, h6,
    h7.trans (watched_same s pa .load).2.2.2.1, h8⟩
  rw [show State.rget { s.watched pa .load with cp0 := u.cp0, events := u.events, sctp := u.sctp } r = s.rget r from watched_rget s pa .load r]

/-- An aligned load wherever its bytes are. -/
theorem memRead_source {s : State} {va : DWord} {n : Nat} {x : Xlate} {link : Bool} {b : Nat → Byte} {after : State → State → Prop}
    (hn : n ∈ [1, 2, 4, 8]) (ha : va.toNat % n = 0) (h : loadSource s va x.pa n x 1#2 link b after) :
    ∃ u, memRead va n s = .ok (BitVec.ofNat 64 (orderedValue s.bigEndianCpu n b)) (breakLl u) ∧
      Touched s x.pa .load u ∧ u.mem = s.mem ∧
      ∀ t : State, sameBesidesMemory { s.watched x.pa .load with cp0 := u.cp0 } t → t.llbit = link → t.caches = u.caches →
        t.mem = s.mem → t.ext = u.ext → after s t := by
  have ht : translate s va .load = .ok x s := by
    rcases h with ⟨h, _⟩ | ⟨w, h, _⟩ | ⟨_, h, _⟩ <;> exact h.translated
  have hlow := (translate_low ht).1
  have hn' : 0 < n ∧ x.pa.toNat % 32 + n ≤ 32 := by
    simp only [List.mem_cons, List.not_mem_nil, or_false] at hn
    rcases hn with rfl | rfl | rfl | rfl <;> omega
  obtain ⟨_, u, hu, hF, hM, hA⟩ := readAt_source hn'.1 hn'.2 h
  refine ⟨u, ?_, hF, hM, hA⟩
  unfold memRead
  rw [dataTranslate_ok ha ht, Res.bind_ok, hu, Res.bind_ok]
  rw [hF.bigEndian]
  have := valueOfBytes_readBytes s.bigEndianCpu b 0 n
  rw [readBytes_eq_map] at this
  simp only [Nat.zero_add] at this
  rw [this]

/-! ## Stores -/

theorem Caches.wf_parts {c : Caches} (h : c.wf = true) : sparseWf DTag.none c.dtag = true ∧ sparseWf DWordCell.none c.ddata = true ∧
    sparseWf false c.dlru = true ∧ sparseWf STag.none c.stag = true ∧ sparseWf false c.mru = true := by
  unfold Caches.wf at h; simp only [Bool.and_eq_true] at h; tauto

theorem dByte_congr {s t : State} (h1 : t.caches.ddata = s.caches.ddata) (h2 : t.hw = s.hw) (set : Nat) (w : Bool) (off : Nat) :
    t.dByte set w off = s.dByte set w off := by
  unfold State.dByte State.dword State.bigEndianMem; rw [h1, h2]

/-- The line that a store writes, once the access has found or brought it in way `w`. -/
def written (x : Xlate) (pa : PAddr) (w : Bool) (l : List Byte) (t : State) : State :=
  dWriteBytes (dSet x.va) w (pa.toNat % 32) l
    (t.setDtag (dSet x.va) w (DTag.of (t.dtag (dSet x.va) w).tag 3#2 1#3 (t.dtag (dSet x.va) w).way))

/-- A cached store once its access has completed. -/
theorem writeAt_access {s t : State} {cause : BitVec 2} {whole : Bool} {x : Xlate} {pa : PAddr} {w : Bool} {l : List Byte}
    (hc : isCached x.ca = true) (hw : watchMatch s pa .store = true → watchLive s = false)
    (h : dAccess (dataReq x pa .store cause) s = .ok (some w) t) :
    writeAt cause whole x pa l s = .ok () (latchWatch (watchMatch s pa .store) (written x pa w l t)) := by
  unfold writeAt
  simp only [watch_off hw, hc, Bool.false_eq_true, if_false, if_true]
  unfold cachedWrite
  rw [h, Res.bind_ok]; rfl

theorem written_frame (x : Xlate) (pa : PAddr) (w : Bool) (l : List Byte) (t : State) :
    written x pa w l t = { t with caches :=
      { t.caches with dtag := (written x pa w l t).caches.dtag, ddata := (written x pa w l t).caches.ddata } } := by
  have := dWriteBytes_frame (dSet x.va) w l (pa.toNat % 32)
    (t.setDtag (dSet x.va) w (DTag.of (t.dtag (dSet x.va) w).tag 3#2 1#3 (t.dtag (dSet x.va) w).way))
  unfold written
  generalize dWriteBytes (dSet x.va) w (pa.toNat % 32) l _ = u at *
  rw [this]; rfl

theorem written_dtag {x : Xlate} {pa : PAddr} {w : Bool} {l : List Byte} {t : State} (h : sparseWf DTag.none t.caches.dtag = true)
    (set : Nat) (way : Bool) : (written x pa w l t).dtag set way = if set = dSet x.va ∧ way = w
      then DTag.of (t.dtag (dSet x.va) w).tag 3#2 1#3 (t.dtag (dSet x.va) w).way else t.dtag set way := by
  unfold written
  rw [dWriteBytes_frame]
  exact dtag_set h

theorem written_dByte {x : Xlate} {pa : PAddr} {w : Bool} {n : Nat} {b : Nat → Byte} {t : State}
    (h : sparseWf DWordCell.none t.caches.ddata = true) (h32 : pa.toNat % 32 + n ≤ 32) (set : Nat) (way : Bool) (off : Nat)
    (ho : off < 32) : (written x pa w ((List.range n).map b) t).dByte set way off =
      if set = dSet x.va ∧ way = w ∧ pa.toNat % 32 ≤ off ∧ off < pa.toNat % 32 + n
        then b (off - pa.toNat % 32) else t.dByte set way off := by
  have hlen : ((List.range n).map b).length = n := by simp
  have := dByte_writeBytes (set := dSet x.va) (w := w) ((List.range n).map b) (pa.toNat % 32)
    (t.setDtag (dSet x.va) w (DTag.of (t.dtag (dSet x.va) w).tag 3#2 1#3 (t.dtag (dSet x.va) w).way)) h (by omega) set way off ho
  rw [hlen] at this
  refine this.trans ?_
  split
  · rename_i hh; simp [List.getD_eq_getElem?_getD, show off - pa.toNat % 32 < n by omega]
  · exact dByte_congr rfl rfl _ _ _

/-- A cached store once its access has completed in the state `z`, and what is left when a store that follows completes. -/
theorem writeAt_cached {s z : State} {pa : PAddr} {n : Nat} {x : Xlate} {cause : BitVec 2} {whole : Bool} {b : Nat → Byte} {w : Bool}
    (hc : isCached x.ca = true) (hw : watchMatch s pa .store = true → watchLive s = false) (h32 : pa.toNat % 32 + n ≤ 32)
    (h : dAccess (dataReq x pa .store cause) s = .ok (some w) z)
    (hz : z = { s with cp0 := { s.cp0 with perf := z.cp0.perf }, ext := z.ext, caches := z.caches, events := z.events, sctp := z.sctp })
    (hd : sparseWf DTag.none z.caches.dtag = true) (hdd : sparseWf DWordCell.none z.caches.ddata = true) :
    ∃ u, writeAt cause whole x pa ((List.range n).map b) s = .ok () u ∧ Touched s pa .store u ∧
      ∀ t : State, sameBesidesMemory { s.watched pa .store with cp0 := u.cp0 } t → t.caches = u.caches → t.mem = u.mem → t.ext = u.ext →
        sameBesidesMemory { s.watched pa .store with cp0 := { (s.watched pa .store).cp0 with perf := z.cp0.perf } } t ∧
        t.mem = s.mem ∧ t.ext = z.ext ∧
        (∀ set way off, off < 32 → t.dByte set way off = if set = dSet x.va ∧ way = w ∧ pa.toNat % 32 ≤ off ∧
          off < pa.toNat % 32 + n then b (off - pa.toNat % 32) else z.dByte set way off) ∧
        (∀ set way, t.dtag set way = if set = dSet x.va ∧ way = w
          then DTag.of (z.dtag (dSet x.va) w).tag 3#2 1#3 (z.dtag (dSet x.va) w).way else z.dtag set way) ∧
        t.caches = { z.caches with dtag := t.caches.dtag, ddata := t.caches.ddata } := by
  have l1 : ∀ y m, (latchWatch m y).caches = y.caches ∧ (latchWatch m y).ext = y.ext ∧ (latchWatch m y).mem = y.mem := by
    intro y m; unfold latchWatch; split <;> exact ⟨rfl, rfl, rfl⟩
  have f1 := written_frame x pa w ((List.range n).map b) z
  have f2 := written_dtag (x := x) (pa := pa) (w := w) (l := (List.range n).map b) hd
  have f3 := written_dByte (x := x) (pa := pa) (w := w) (b := b) hdd h32
  refine ⟨_, writeAt_access hc hw h, ?_, ?_⟩
  all_goals generalize written x pa w ((List.range n).map b) z = y at *
  · exact Touched.of (p := z.cp0.perf) (m := s.mem) (e := z.ext) (c := y.caches) (ev := z.events) (sc := z.sctp)
      (by rw [f1]; conv_lhs => rw [hz])
  · intro t t1 t4 t5 t6
    have hy : y.cp0 = { s.cp0 with perf := z.cp0.perf } := by
      rw [f1]; show z.cp0 = _; conv_lhs => rw [hz]
    have hcp : (latchWatch (watchMatch s pa .store) y).cp0 = { (s.watched pa .store).cp0 with perf := z.cp0.perf } := by
      unfold State.watched latchWatch
      split <;> (dsimp only; rw [hy])
    have hhw : t.hw = y.hw := by
      rw [t1.2.2.2.2.1, f1]
      show (s.watched pa .store).hw = z.hw
      rw [(watched_same s pa .store).2.2.2.2.2, hz]
    rw [(l1 _ _).1] at t4
    rw [(l1 _ _).2.2] at t5
    rw [(l1 _ _).2.1] at t6
    rw [hcp] at t1
    refine ⟨t1, ?_, ?_, fun set way off ho => ?_, fun set way => ?_, ?_⟩
    · rw [t5, f1]; show z.mem = _; rw [hz]
    · rw [t6, f1]
    · rw [dByte_congr (s := y) (by rw [t4]) hhw, f3 set way off ho]
    · rw [← f2 set way]; unfold State.dtag; rw [t4]
    · rw [t4]; conv_lhs => rw [f1]

/-- A write wherever it goes, and what is left of the state when a store that follows completes. -/
theorem writeAt_target {s : State} {va : DWord} {pa : PAddr} {n : Nat} {x : Xlate} {cause : BitVec 2} {whole : Bool}
    {b : Nat → Byte} {after : State → State → Prop} (h32 : pa.toNat % 32 + n ≤ 32)
    (h : storeTarget s va pa n x cause b after) :
    translate s va .store = .ok x s ∧ ∃ u, writeAt cause whole x pa ((List.range n).map b) s = .ok () u ∧
      Touched s pa .store u ∧
      ∀ t : State, sameBesidesMemory { s.watched pa .store with cp0 := u.cp0 } t → t.llbit = false → t.llblock = s.llblock →
        t.caches = u.caches → t.mem = u.mem → t.ext = u.ext → after s t := by
  obtain ⟨_, _, e3, e4, e5, e6⟩ := watched_same s pa .store
  have hperf : { s.watched pa .store with cp0 := { (s.watched pa .store).cp0 with perf := s.cp0.perf } } = s.watched pa .store := by
    unfold State.watched latchWatch; split <;> rfl
  rcases h with ⟨hm, h, rfl⟩ | ⟨hcw, ⟨w, h, hst, rfl⟩ | ⟨w, v, h, hst, hf, hown⟩ | ⟨h, rfl⟩⟩
  · refine ⟨h.translated, _, writeAt_uncached h.store h.postponed h.idle h.free, rfl, fun t t1 t2 t3 t4 t5 t6 => ?_⟩
    refine ⟨t1, t2, t3, t4.trans e3, fun a => ?_, t6.trans (by rw [← e5]; rfl)⟩
    rw [t5]
    exact (physWrite_read (s := s.watched pa .store) (by rw [e4]; exact hm)
      (fun a h1 h2 => by rw [State.physAt, e6]; exact h.ram a h1 h2) a).trans (by rw [e4])
  · obtain ⟨w1, w2, w3, _, _⟩ := Caches.wf_parts hcw
    obtain ⟨u, hu, hT, hA⟩ := writeAt_cached (whole := whole) (b := b) h.cached h.postponed h32
      (dAccess_hit (a := dataReq x pa .store cause) h.goodTags h.settled h.hit (.inr hst)) rfl w1 w2
    refine ⟨h.translated, u, hu, hT, fun t t1 t2 t3 t4 t5 t6 => ?_⟩
    obtain ⟨a1, a2, a3, a4, a5, a6⟩ := hA t t1 t4 t5 t6
    refine ⟨by rw [← hperf]; exact a1, t2, t3, a2, fun a => by rw [a2], a3, a4, fun set way => ?_, fun set => ?_, ?_⟩
    · rw [a5]; split
      · rename_i hh; obtain ⟨rfl, rfl⟩ := hh; rfl
      · rfl
    · unfold State.dlru; rw [a6]
      show sparseGet _ (sparseSet _ _ _ _) _ = _
      rw [sparseGet_set w3]; rfl
    · rw [a6]; exact ⟨rfl, rfl, rfl, rfl, rfl, rfl⟩
  · obtain ⟨w1, w2, w3, w4, w5⟩ := Caches.wf_parts hcw
    obtain ⟨st, hin, hst', hafter⟩ : ∃ st : BitVec 2, InSecondary s x.va pa v st ∧ (st = 1#2 ∧ s.ext.replies = [] ∨ st = 2#2) ∧
        after = afterWriteOwned x.va pa w v n b
          (if st = 1#2 then { s.ext with bus := .upgrade 0#3 pa cause 1#2 v :: s.ext.bus } else s.ext) := by
      rcases hown with ⟨h1, h2, h3⟩ | ⟨h1, h3⟩
      · exact ⟨1#2, h1, .inl ⟨rfl, h2⟩, h3⟩
      · exact ⟨2#2, h1, .inr rfl, h3⟩
    subst hafter
    obtain ⟨ev, sc, z, hS, hE, e⟩ := dAccess_own (s := s) (a := dataReq x pa .store cause) (w := w) (v := v) (st := st) rfl rfl rfl
      h.goodTags h.settled h.hit hst hin hst' hf hcw
    have hSf := hS.frame
    have k1 : z.caches.ddata = s.caches.ddata := by rw [hSf]; rfl
    have k2 : ∀ set way, z.dtag set way = s.dtag set way ∨ (s.dtag set way).st ≠ 0#2 ∧
      z.dtag set way = DTag.of (s.dtag set way).tag 3#2 (s.dtag set way).mod (s.dtag set way).way := hS.tags w1
    have k3 : z.hw = s.hw := by rw [hSf]; rfl
    obtain ⟨u, hu, hT, hA⟩ := writeAt_cached (whole := whole) (b := b) h.cached h.postponed h32 e
      (by conv_lhs => rw [hSf]
          conv_rhs => rw [show z.cp0 = s.cp0 by rw [hSf]; rfl, show z.sctp = sc by rw [hSf],
            show z.caches = { s.caches with dlru := sparseSet false s.caches.dlru (dSet x.va) (!w)
                                            mru := sparseSet false s.caches.mru (mruIndex s pa) v
                                            dtag := z.caches.dtag, stag := z.caches.stag } by
              conv_lhs => rw [hSf]
              rfl]
          rfl) (hS.wf w1) (by rw [k1]; exact w2)
    refine ⟨h.translated, u, hu, hT, fun t t1 t2 t3 t4 t5 t6 => ?_⟩
    obtain ⟨a1, a2, a3, a4, a5, a6⟩ := hA t t1 t4 t5 t6
    rw [show z.cp0 = s.cp0 by rw [hSf]; rfl] at a1
    have kt : (z.dtag (dSet x.va) w).tag = (s.dtag (dSet x.va) w).tag ∧ (z.dtag (dSet x.va) w).way = (s.dtag (dSet x.va) w).way := by
      rcases k2 (dSet x.va) w with q | ⟨_, q⟩ <;> rw [q] <;> exact ⟨rfl, rfl⟩
    refine ⟨by rw [← hperf]; exact a1, t2, t3, a2, fun a => by rw [a2], a3.trans hE, fun set way off ho => ?_, ?_, fun set way hne => ?_,
      fun set way => ?_, fun set => ?_, fun i => ?_, ?_⟩
    · rw [a4 set way off ho, dByte_congr k1 k3]
    · rw [a5, if_pos ⟨rfl, rfl⟩, kt.1, kt.2]
    · rw [a5, if_neg hne]; exact k2 set way
    · rw [show t.stag set way = z.stag set way by unfold State.stag; rw [a6]]
      exact hS.stag set way
    · unfold State.dlru; rw [a6, hSf]
      show sparseGet _ (sparseSet _ _ _ _) _ = _
      rw [sparseGet_set w3]; rfl
    · unfold State.mru; rw [a6, hSf]
      exact sparseGet_set w5
    · rw [a6, hSf]; exact ⟨rfl, rfl, rfl, rfl⟩
  · obtain ⟨z, e, hB, hE⟩ := dAccess_brings (s := s) (a := dataReq x pa .store cause) (v := s.mru (mruIndex s pa))
      (st := responseState (readCommand (dataReq x pa .store cause)) s.hw.readState) h.toBlockMiss hcw h.goodTags h.settled h.primary rfl rfl
      (fun _ => ⟨rfl, rfl⟩)
    have hF := hB.frame
    obtain ⟨u, hu, hT, hA⟩ := writeAt_cached (whole := whole) (b := b) h.cached h.postponed h32 e
      (by conv_lhs => rw [hF]
          rw [show z.cp0.perf = { s.cp0.perf with missAddr := z.cp0.perf.missAddr } by conv_lhs => rw [hF]]) hB.wfTag hB.wfData
    refine ⟨h.translated, u, hu, hT, fun t t1 t2 t3 t4 t5 t6 => ?_⟩
    obtain ⟨a1, a2, a3, a4, a5, a6⟩ := hA t t1 t4 t5 t6
    have hcmd : readCommand (dataReq x pa .store cause) = (if x.ca = 3#3 then 2#3 else 1#3) := by
      unfold readCommand dataReq; by_cases h3 : x.ca = 3#3 <;> simp [h3]
    have q1 : z.dtag (dSet x.va) false = DTag.of (ptag pa) 3#2 0#3 (s.mru (mruIndex s pa)) := hB.line
    have q2 : ∀ set way, ¬ (set = dSet x.va ∧ way = false) → z.dtag set way = s.dtag set way ∨ (s.dtag set way).st ≠ 0#2 ∧
        z.dtag set way = DTag.of (s.dtag set way).tag 3#2 (s.dtag set way).mod (s.dtag set way).way :=
      fun set way hne => (hB.others set way hne).imp id And.right
    have q3 : ∀ set way off, off < 32 → z.dByte set way off = if set = dSet x.va ∧ way = false
        then Memory.read s.mem (pa.toNat / 32 * 32 + off) else s.dByte set way off := hB.bytes
    have q4 : ∀ set, z.dlru set = if set = dSet x.va then true else s.dlru set := hB.dlru
    have q5 : blockFilled x.va pa (s.mru (mruIndex s pa)) 3#2 s z := hB.block
    have l4 : t.cp0.perf.missAddr = z.cp0.perf.missAddr := by rw [a1.2.2.1]
    have l5 : z.cp0.perf = { s.cp0.perf with missAddr := z.cp0.perf.missAddr } := by
      conv_lhs => rw [hF]
    refine ⟨?_, t2, t3, a2, fun a => by rw [a2], ?_⟩
    · unfold sameBesidesMiss; rw [l4, ← l5]; exact a1
    rintro cmd v read rfl rfl rfl
    refine ⟨?_, ?_, fun set way hne => ?_, fun set way off ho => ?_, fun set => ?_, ⟨fun set way => ?_, fun set way k hk => ?_, ?_⟩, ?_⟩
    · rw [a3, hE]
      unfold missRequests
      rw [hcmd]
      have : (responseState (if x.ca = 3#3 then 2#3 else 1#3) s.hw.readState = 1#2) ↔
          s.hw.readState = 1#2 ∧ (if x.ca = 3#3 then 2#3 else 1#3 : BitVec 3) = 2#3 := by
        unfold responseState
        generalize s.hw.readState = q
        by_cases h3 : x.ca = 3#3 <;> by_cases a0 : q = 0#2 <;> by_cases a1 : q = 1#2 <;> simp [h3, a0, a1]
      by_cases hq : s.hw.readState = 1#2 ∧ (if x.ca = 3#3 then 2#3 else 1#3 : BitVec 3) = 2#3
      · rw [if_pos ⟨rfl, this.2 hq⟩, if_pos hq]; rfl
      · rw [if_neg (fun h => hq (this.1 h.2)), if_neg hq]; rfl
    · rw [a5, if_pos ⟨rfl, rfl⟩, q1]; rfl
    · rw [a5, if_neg hne]; exact q2 set way hne
    · rw [a4 set way off ho, q3 set way off ho]
      by_cases hc : set = dSet x.va ∧ way = false
      · simp only [hc, and_self, true_and, if_true]
      · rw [if_neg hc, if_neg hc, if_neg (fun h => hc ⟨h.1, h.2.1⟩)]
    · rw [← q4 set]; unfold State.dlru; rw [a6]
    · rw [← q5.1 set way]; unfold State.stag; rw [a6]
    · rw [← q5.2.1 set way k hk]; unfold State.squad; rw [a6]
    · rw [a6]; exact q5.2.2
    · rw [a6]; exact hB.same

/-- What a store leaves after its write. -/
theorem store_done {s u : State} {pa : PAddr} (hu : Touched s pa .store u) :
    ∀ t, t = advance (breakLl u) → gprSame s t ∧ fprSame s t ∧ sameBesidesMemory { s.watched pa .store with cp0 := u.cp0 } t ∧
      t.llbit = false ∧ t.llblock = s.llblock ∧ t.caches = u.caches ∧ t.mem = u.mem ∧ t.ext = u.ext := by
  rintro t rfl
  have e : advance (breakLl u) = { advance (s.watched pa .store) with
      cp0 := u.cp0, mem := u.mem, ext := u.ext, caches := u.caches, events := u.events, sctp := u.sctp, llbit := false } := by
    conv_lhs => rw [hu]
    conv_rhs => rw [show u.cp0 = { (s.watched pa .store).cp0 with perf := u.cp0.perf } by rw [hu]]
    rfl
  rw [e]
  exact ⟨fun r => watched_rget s pa .store r, fun q => watched_fraw s pa .store q,
    ⟨⟨rfl, rfl⟩, advance_fallsThrough (s.watched pa .store), rfl, rfl, rfl, rfl, rfl, rfl⟩, rfl,
    (watched_same s pa .store).2.1, rfl, rfl, rfl⟩

/-- An aligned store wherever its bytes go. -/
theorem memWrite_target {s : State} {va : DWord} {n : Nat} {x : Xlate} {v : DWord} {after : State → State → Prop}
    (hn : n ∈ [1, 2, 4, 8]) (ha : va.toNat % n = 0)
    (h : storeTarget s va x.pa n x 1#2 (orderedByte s.bigEndianCpu n v) after) :
    ∃ u, memWrite va n v s = .ok () (breakLl u) ∧ Touched s x.pa .store u ∧
      ∀ t : State, sameBesidesMemory { s.watched x.pa .store with cp0 := u.cp0 } t → t.llbit = false → t.llblock = s.llblock →
        t.caches = u.caches → t.mem = u.mem → t.ext = u.ext → after s t := by
  have ht : translate s va .store = .ok x s := by
    rcases h with ⟨_, h, _⟩ | ⟨_, ⟨_, h, _⟩ | ⟨_, _, h, _⟩ | ⟨h, _⟩⟩ <;> exact h.translated
  have hlow := (translate_low ht).1
  have hn' : x.pa.toNat % 32 + n ≤ 32 := by
    simp only [List.mem_cons, List.not_mem_nil, or_false] at hn
    rcases hn with rfl | rfl | rfl | rfl <;> omega
  obtain ⟨_, u, hu, hF, hA⟩ := writeAt_target (whole := n == 4 || n == 8) hn' h
  refine ⟨u, ?_, hF, hA⟩
  unfold memWrite
  rw [dataTranslate_ok ha ht, Res.bind_ok, bytesOfValue_eq_map, hu]; rfl

/-! ## Unaligned references -/

/-- The span of an unaligned reference lies in its unit, which lies in a line. -/
theorem span_le {be : Bool} {n k : Nat} (left : Bool) (hk : k < n) :
    (if left then leftSpan be n k else rightSpan be n k).1 + (if left then leftSpan be n k else rightSpan be n k).2 ≤ n ∧
      0 < (if left then leftSpan be n k else rightSpan be n k).2 := by
  unfold leftSpan rightSpan
  cases left <;> cases be <;> simp <;> omega

theorem span_line {pa : PAddr} {n lo m : Nat} (hn : n ∈ [4, 8]) (hm : lo + m ≤ n) (h0 : 0 < m) :
    (BitVec.ofNat 40 (pa.toNat / n * n + lo)).toNat % 32 + m ≤ 32 := by
  have hp := pa.isLt
  simp only [BitVec.toNat_ofNat]
  simp only [List.mem_cons, List.not_mem_nil, or_false] at hn
  rcases hn with rfl | rfl <;> omega

theorem unalignedPos_lt {be : Bool} {n : Nat} {va : DWord} (hn : n ∈ [4, 8]) : unalignedPos be n va < n := by
  have : 0 < n := by
    simp only [List.mem_cons, List.not_mem_nil, or_false] at hn
    rcases hn with rfl | rfl <;> decide
  have := Nat.mod_lt va.toNat this
  unfold unalignedPos; split <;> omega

/-- What an unaligned read answers, wherever its bytes are. -/
theorem unalignedRead_source {s : State} {left : Bool} {va : DWord} {x : Xlate} {n k : Nat} {sp : Nat × Nat} {b : Nat → Byte}
    {after : State → State → Prop} (hn : n ∈ [4, 8]) (hk : k = unalignedPos s.bigEndianCpu n x.va)
    (hsp : sp = (if left then leftSpan s.bigEndianCpu n k else rightSpan s.bigEndianCpu n k))
    (h : loadSource s va (BitVec.ofNat 40 (x.pa.toNat / n * n) + BitVec.ofNat 40 sp.1) sp.2 x 1#2 false b after) :
    ∃ u, unalignedRead left n va s = .ok (k, BitVec.ofNat 64 (orderedValue s.bigEndianCpu sp.2 b)) (breakLl u) ∧
      Touched s (BitVec.ofNat 40 (x.pa.toNat / n * n) + BitVec.ofNat 40 sp.1) .load u ∧ u.mem = s.mem ∧
      ∀ t : State, sameBesidesMemory { s.watched (BitVec.ofNat 40 (x.pa.toNat / n * n) + BitVec.ofNat 40 sp.1) .load with cp0 := u.cp0 } t →
        t.llbit = false → t.caches = u.caches → t.mem = s.mem → t.ext = u.ext → after s t := by
  have hkn : k < n := hk ▸ unalignedPos_lt hn
  have hle := span_le (be := s.bigEndianCpu) left hkn
  rw [← hsp] at hle
  rw [← (spanAddr (pa := x.pa) hn (show sp.1 < n by omega)).1] at h ⊢
  obtain ⟨ht, u, hu, hT, hM, hA⟩ := readAt_source hle.2 (span_line hn hle.1 hle.2) h
  refine ⟨u, ?_, hT, hM, hA⟩
  unfold unalignedRead
  rw [ht, Res.bind_ok]
  dsimp only
  rw [← hk, ← hsp, hu, Res.bind_ok]
  have := valueOfBytes_readBytes s.bigEndianCpu b 0 sp.2
  rw [readBytes_eq_map] at this
  simp only [Nat.zero_add] at this
  rw [this]

/-- What an unaligned write leaves, wherever its bytes go. -/
theorem unalignedWrite_target {s : State} {left : Bool} {va v : DWord} {x : Xlate} {n k : Nat} {sp : Nat × Nat} {b : Nat → Byte}
    {after : State → State → Prop} (hn : n ∈ [4, 8]) (hk : k = unalignedPos s.bigEndianCpu n x.va)
    (hsp : sp = (if left then leftSpan s.bigEndianCpu n k else rightSpan s.bigEndianCpu n k))
    (hb : b = orderedByte s.bigEndianCpu sp.2 (if left then v >>> (8 * (n - 1 - k)) else v))
    (h : storeTarget s va (BitVec.ofNat 40 (x.pa.toNat / n * n) + BitVec.ofNat 40 sp.1) sp.2 x 1#2 b after) :
    ∃ u, unalignedWrite left n v va s = .ok () (breakLl u) ∧
      Touched s (BitVec.ofNat 40 (x.pa.toNat / n * n) + BitVec.ofNat 40 sp.1) .store u ∧
      ∀ t : State, sameBesidesMemory { s.watched (BitVec.ofNat 40 (x.pa.toNat / n * n) + BitVec.ofNat 40 sp.1) .store with cp0 := u.cp0 } t →
        t.llbit = false → t.llblock = s.llblock → t.caches = u.caches → t.mem = u.mem → t.ext = u.ext → after s t := by
  have hkn : k < n := hk ▸ unalignedPos_lt hn
  have hle := span_le (be := s.bigEndianCpu) left hkn
  rw [← hsp] at hle
  rw [← (spanAddr (pa := x.pa) hn (show sp.1 < n by omega)).1] at h ⊢
  obtain ⟨ht, u, hu, hT, hA⟩ := writeAt_target (whole := false) (span_line hn hle.1 hle.2) h
  refine ⟨u, ?_, hT, hA⟩
  unfold unalignedWrite
  rw [ht, Res.bind_ok]
  dsimp only
  rw [← hk, ← hsp, bytesOfValue_eq_map, ← hb, hu]; rfl

/-! ## Instruction fetches -/

/-- A word of a doubleword of bytes. -/
theorem dwordWords_value (be : Bool) (m : Nat → Byte) (i : Nat) (hi : i < 2) :
    (dwordWords be (BitVec.ofNat 64 (orderedValue be 8 m))).getD i 0#32 =
      BitVec.ofNat 32 (orderedValue be 4 fun j => m (4 * i + j)) := by
  have hv := orderedValue_add be 4 4 m
  have l0 := orderedValue_lt be 4 m
  have l1 := orderedValue_lt be 4 (fun j => m (4 + j))
  have hp : (256 : Nat) ^ 4 = 2 ^ 32 := by norm_num
  rw [hp] at hv l0 l1
  have key : ∀ k, k + 32 ≤ 64 → ∀ v, v < 2 ^ 64 →
      (BitVec.ofNat 64 v).extractLsb' k 32 = BitVec.ofNat 32 (v / 2 ^ k) := by
    intro k _ v hv; apply BitVec.eq_of_toNat_eq
    rw [BitVec.extractLsb'_toNat, BitVec.toNat_ofNat, BitVec.toNat_ofNat, Nat.mod_eq_of_lt hv, Nat.shiftRight_eq_div_pow]
  have l2 : orderedValue be 8 m < 2 ^ 64 := by have := orderedValue_lt be 8 m; rwa [show (256 : Nat) ^ 8 = 2 ^ 64 by norm_num] at this
  have e0 : (fun j => m (4 * 0 + j)) = m := by funext j; congr 1; omega
  have e1 : (fun j => m (4 * 1 + j)) = fun j => m (4 + j) := rfl
  rw [show orderedValue be 8 m = _ from hv] at l2 ⊢
  unfold dwordWords
  have hmod : ∀ a b : Nat, BitVec.ofNat 32 (a + 2 ^ 32 * b) = BitVec.ofNat 32 a := by
    intro a b; apply BitVec.eq_of_toNat_eq; simp
  rcases (show i = 0 ∨ i = 1 by omega) with rfl | rfl <;> cases be <;>
    simp only [if_true, if_false, Bool.false_eq_true, List.getD_cons_zero, List.getD_cons_succ] at l2 ⊢
  · rw [key 0 (by decide) _ l2, e0, Nat.pow_zero, Nat.div_one, hmod]
  · rw [key 32 (by decide) _ l2, e0]; congr 1; omega
  · rw [key 32 (by decide) _ l2, e1]; congr 1; omega
  · rw [key 0 (by decide) _ l2, e1, Nat.pow_zero, Nat.div_one, Nat.add_comm, Nat.mul_comm, hmod]

theorem iword_set {s : State} {set set' k k' : Nat} {w w' : Bool} {x : IWord} (hs : sparseWf IWord.none s.caches.idata = true)
    (hk : k < 16) (hk' : k' < 16) :
    (s.setIword set w k x).iword set' w' k' = if (set' = set ∧ w' = w) ∧ k' = k then x else s.iword set' w' k' := by
  unfold State.iword State.setIword State.setCaches
  dsimp only
  rw [sparseGet_set hs]
  have : lineKey set' w' * 16 + k' = lineKey set w * 16 + k ↔ (set' = set ∧ w' = w) ∧ k' = k := by
    rw [← lineKey_inj]; omega
  simp only [this]

theorem fillI_frame (set : Nat) (w : Bool) (xs : List Word) : ∀ (k : Nat) (s : State),
    fillI set w k xs s = { s with caches := { s.caches with idata := (fillI set w k xs s).caches.idata } } := by
  induction xs with
  | nil => intro k s; rfl
  | cons x xs ih => intro k s; unfold fillI; rw [ih]; rfl

theorem fillI_iword {set : Nat} {w : Bool} (xs : List Word) : ∀ (k : Nat) (s : State),
    sparseWf IWord.none s.caches.idata = true → k + xs.length ≤ 16 → ∀ set' w' j, j < 16 →
    (fillI set w k xs s).iword set' w' j =
      if set' = set ∧ w' = w ∧ k ≤ j ∧ j < k + xs.length then { pre := 0#4, word := xs.getD (j - k) 0#32, parBad := false }
        else s.iword set' w' j := by
  induction xs with
  | nil => intro k s hs hl set' w' j hj; unfold fillI; rw [if_neg (by simp only [List.length_nil]; omega)]
  | cons x xs ih =>
    intro k s hs hl set' w' j hj
    simp only [List.length_cons] at hl ⊢
    unfold fillI
    rw [ih (k + 1) _ (sparseSet_wf hs) (by omega) set' w' j hj, iword_set hs (by omega) hj]
    by_cases hw : set' = set ∧ w' = w
    · obtain ⟨rfl, rfl⟩ := hw
      simp only [true_and]
      rcases Nat.lt_trichotomy j k with h | h | h
      · rw [if_neg (by omega), if_neg (by omega), if_neg (by omega)]
      · subst h; rw [if_neg (by omega), if_pos rfl, if_pos (by omega), Nat.sub_self]; rfl
      · by_cases h3 : j < k + (xs.length + 1)
        · rw [if_pos (by omega), if_pos (by omega), show j - k = (j - (k + 1)) + 1 by omega]; rfl
        · rw [if_neg (by omega), if_neg (by omega), if_neg (by omega)]
    · rw [if_neg (by tauto), if_neg (by tauto), if_neg (by tauto)]

theorem line_quads (h : Hw) (pa : PAddr) :
    quadOf h (alignDown 6 pa) + 4 ≤ sQuads h ∧ sQuads h ≤ 8 ∧
      (h.blockBase pa).toNat + 16 * quadOf h (alignDown 6 pa) = pa.toNat / 64 * 64 := by
  rw [blockBase_toNat]
  unfold quadOf sQuads
  have : (alignDown 6 pa).toNat = pa.toNat / 64 * 64 := shl_shr_toNat pa 6
  rw [this]
  rcases blkLog_cases h with h | h <;> rw [h] <;> simp only [Nat.reduceSub, Nat.reducePow] <;> omega

/-- A cached fetch of a block in no cache. -/
theorem fetchWord_miss {s : State} {x : Xlate} (ha : s.pc.toNat % 4 = 0) (hwf : s.caches.wf = true) (h : FetchMiss s x) :
    ∃ t, afterFetchMiss x s t ∧ fetchWord s =
      .ok (BitVec.ofNat 32 (orderedValue s.bigEndianMem 4 fun k => Memory.read s.mem (x.pa.toNat + k))) t := by
  obtain ⟨a, hA⟩ : ∃ a : CReq, a = { va := x.va, pa := x.pa, ca := x.ca, kind := .fetch, cause := 0#2, upCause := 0#2, excl := false
                                     upState := 0#2, pref := false } := ⟨_, rfl⟩
  have hva : a.va = x.va := by rw [hA]
  have hpa : a.pa = x.pa := by rw [hA]
  have hcmd : readCommand a = (if x.ca = 3#3 then 2#3 else if x.ca = 4#3 then 1#3 else 0#3) := by
    rw [readCommand_plain (by rw [hA])]; rw [hA]
  have hex : a.excl = false := by rw [hA]
  have hca : a.cause = 0#2 := by rw [hA]
  obtain ⟨v, hv⟩ : ∃ v, s.mru (mruIndex s x.pa) = v := ⟨_, rfl⟩
  obtain ⟨st, hst⟩ : ∃ st, responseState (readCommand a) s.hw.readState = st := ⟨_, rfl⟩
  have e0 : fetchWord s = cachedFetch a s := by
    unfold fetchWord
    rw [if_neg (by omega), h.translated, Res.bind_ok, if_pos h.cached, hA]
  have w0 := hwf
  unfold Caches.wf at w0
  simp only [Bool.and_eq_true] at w0
  obtain ⟨ev0, sc0, h0⟩ := enterSctp_frame a (fun e => { e with icMiss := e.icMiss + 1 }) s
  obtain ⟨t, e, tF, tE, tB, tQ, tW, tD⟩ := secondaryAccess_brings (s := { s with events := ev0, sctp := sc0 }) (a := a) (v := v) (st := st)
    ⟨by rw [hpa]; exact h.secondary, h.free.of_ext rfl, h.answered, h.choice, by rw [hpa]; exact h.ram⟩ hwf (by rw [hpa]; exact hv) hst
    (hst ▸ responseState_ne) (fun q => by rw [hex] at q; cases q)
  have hit : iHit s x.va x.pa = none := by
    unfold iHit; dsimp only; rw [if_neg (by rw [h.primary]; simp), if_neg (by rw [h.primary]; simp)]
  rw [if_neg (by rw [hex]; decide)] at tB
  rw [hva, hpa] at tB
  have tF' : t = { s with ext := t.ext, events := t.events, sctp := t.sctp
                          caches := { s.caches with dtag := t.caches.dtag, stag := t.caches.stag, sdata := t.caches.sdata } } := tF
  have tB' : blockFilled x.va x.pa v st s t := tB
  have tH : t.hw = s.hw := by rw [tF']
  have tbe : t.bigEndianMem = s.bigEndianMem := by unfold State.bigEndianMem; rw [tH]
  have tid : t.caches.idata = s.caches.idata := by rw [tF']
  have tit : t.caches.itag = s.caches.itag := by rw [tF']
  have til : t.caches.ilru = s.caches.ilru := by rw [tF']
  have tvalid : ∀ set w, t.itag set w = s.itag set w := by intro set w; unfold State.itag; rw [tit]
  obtain ⟨l1, l2, l3⟩ := line_quads s.hw x.pa
  obtain ⟨w1, w2⟩ := quad_words (u := t) s.bigEndianMem
    (fun b => BitVec.ofNat 64 (orderedValue s.bigEndianMem 8 fun i => Memory.read s.mem (b + i))) 4 _ _
    (tB'.quads (q := quadOf s.hw (alignDown 6 x.pa)) (n := 4) l3 l1)
  generalize hws : quadsWords s.bigEndianMem (rawQuads t (sSet s.hw x.pa) v (quadOf s.hw (alignDown 6 x.pa)) 4) = ws at *
  have w3 : ∀ k, k < 16 → ws.getD k 0#32 =
      BitVec.ofNat 32 (orderedValue s.bigEndianMem 4 fun j => Memory.read s.mem (x.pa.toNat / 64 * 64 + 4 * k + j)) := by
    intro k hk
    rw [w2 k (by omega), dwordWords_value _ _ _ (Nat.mod_lt _ (by decide))]
    congr 2; funext j; congr 1; omega
  have hr : refillI a { way := v, fresh := true, missed := true } t =
      .ok false ((fillI (iSet x.va) false 0 ws t).setItag (iSet x.va) false (ITag.of (ptag x.pa) true)) := by
    unfold refillI
    dsimp only
    have h1 : victimPrimary (t.itag (iSet a.va) false).valid (t.itag (iSet a.va) true).valid (t.ilru (iSet a.va)) t = (false, t) := by
      unfold victimPrimary
      rw [show t.ext.victims = [] by rw [tE]; exact h.choice]
      dsimp only
      rw [tvalid, hva, h.primary]; rfl
    rw [h1]
    unfold refillQuads
    simp only [if_true]
    rw [errGate_good, Res.bind_ok, hva, hpa, tH, tbe, hws]
  have hg : ∀ k, k < 16 → (fillI (iSet x.va) false 0 ws t).iword (iSet x.va) false k = { pre := 0#4, word := ws.getD k 0#32, parBad := false } := by
    intro k hk
    rw [fillI_iword ws 0 t (by rw [tid]; exact w0.1.1.1.1.1.1.1.2) (by rw [w1]) _ _ k hk, if_pos ⟨rfl, rfl, by omega, by rw [w1]; omega⟩, Nat.sub_zero]
  have hlow := translate_low h.translated
  have hk : (x.va.extractLsb' 2 4).toNat < 16 := (x.va.extractLsb' 2 4).isLt
  have hkv : x.pa.toNat / 64 * 64 + 4 * (x.va.extractLsb' 2 4).toNat = x.pa.toNat := by
    rw [BitVec.extractLsb'_toNat, Nat.shiftRight_eq_div_pow]; omega
  refine ⟨((fillI (iSet x.va) false 0 ws t).setItag (iSet x.va) false (ITag.of (ptag x.pa) true)).setIlru (iSet x.va) true, ?_, ?_⟩
  swap
  · rw [e0]
    unfold cachedFetch
    rw [hva, hpa, checkITags_good h.goodTags]
    dsimp only
    rw [errGate_good, Res.bind_ok, hit]
    dsimp only
    rw [h0, e, Res.bind_ok]
    dsimp only
    rw [hr, Res.bind_ok]
    unfold readI
    dsimp only
    rw [hva]
    have e1 : State.iword ((fillI (iSet x.va) false 0 ws t).setItag (iSet x.va) false (ITag.of (ptag x.pa) true)) (iSet x.va) false
        (x.va.extractLsb' 2 4).toNat = { pre := 0#4, word := ws.getD (x.va.extractLsb' 2 4).toNat 0#32, parBad := false } := hg _ hk
    rw [e1]
    dsimp only
    rw [if_neg (by decide), errGate_good, Res.bind_ok, w3 _ hk, hkv]; rfl
  · have fF := fillI_frame (iSet x.va) false ws 0 t
    have hf : ∀ set way j, j < 16 → _ := fillI_iword (set := iSet x.va) (w := false) ws 0 t (by rw [tid]; exact w0.1.1.1.1.1.1.1.2) (by rw [w1])
    generalize fillI (iSet x.va) false 0 ws t = y at *
    have yi : y.caches.itag = s.caches.itag := by rw [fF]; exact tit
    have yl : y.caches.ilru = s.caches.ilru := by rw [fF]; exact til
    refine ⟨?_, fun b => ?_, ?_⟩
    · show ({ y with caches := _ } : State) = _
      rw [fF, tF']; rfl
    · show Memory.read y.mem b = _
      rw [fF, tF']
    · rintro cmd st' v' rfl rfl rfl
      rw [← responseState_plain, ← hcmd, hst, hv]
      refine ⟨?_, fun set way => ?_, fun set way k hk => ?_, fun set => ?_, ⟨fun set way => ?_, fun set way k hk => ?_, ?_⟩, ?_⟩
      · show y.ext = _
        rw [fF]
        show t.ext = _
        rw [tE, missRequests, if_neg (by rw [hex]; simp), hpa, hca]
      · show sparseGet _ (sparseSet _ y.caches.itag _ _) _ = _
        rw [yi, sparseGet_set w0.1.1.1.1.1.1.1.1]
        simp only [lineKey_inj]; rfl
      · show y.iword set way k = _
        rw [hf set way k hk, w1]
        by_cases hc : set = iSet x.va ∧ way = false
        · rw [if_pos ⟨hc.1, hc.2, by omega, by omega⟩, if_pos hc, Nat.sub_zero, w3 k hk]
        · rw [if_neg (by tauto), if_neg hc]; unfold State.iword; rw [tid]
      · show sparseGet _ (sparseSet _ y.caches.ilru _ _) _ = _
        rw [yl, sparseGet_set w0.1.1.1.1.1.1.2]; rfl
      · rw [← tB'.1 set way]; show sparseGet _ y.caches.stag _ = _; rw [fF]; rfl
      · rw [← tB'.2.1 set way k hk]; show sparseGet _ y.caches.sdata _ = _; rw [fF]; rfl
      · show y.caches.mru = _; rw [fF]; exact tB'.2.2
      · show y.caches.dtag = _ ∧ y.caches.ddata = _ ∧ y.caches.dlru = _
        rw [fF]
        refine ⟨?_, ?_, ?_⟩
        · show t.caches.dtag = _
          exact tQ hex
        · show t.caches.ddata = _; rw [tF']
        · show t.caches.dlru = _; rw [tF']

end Sys2Proof.Machine
end

