-- ==== Sys2Proof/Laws/Tlb.lean ====
section
/-! SUPPORT. The search of the joint TLB (spec/21_address_translation.md R310): which entries it finds. -/

namespace Sys2Proof.Machine

/-- The indices that the search lists are those of the matching entries. -/
theorem mem_tlbHits {r : BitVec 2} {v : BitVec 31} {a : BitVec 8} (l : List TlbEntry) : ∀ n i,
    i ∈ tlbHits r v a l n ↔ n ≤ i ∧ i < n + l.length ∧ (l.getD (i - n) TlbEntry.empty).hits r v a = true := by
  induction l with
  | nil => intro n i; simp [tlbHits]; omega
  | cons e l ih =>
    intro n i
    have h : i ∈ tlbHits r v a (e :: l) n ↔ (i = n ∧ e.hits r v a = true) ∨ i ∈ tlbHits r v a l (n + 1) := by
      rw [tlbHits]; split
      · next hh => simp [hh]
      · next hh => simp [hh]
    rw [h, ih]
    rcases Nat.lt_trichotomy i n with hi | hi | hi
    · constructor <;> (intro hx; omega)
    · subst hi; simp
    · rw [show i - n = (i - (n + 1)) + 1 by omega]
      simp only [List.getD_cons_succ, List.length_cons]
      constructor
      · rintro (⟨rfl, _⟩ | ⟨h1, h2, h3⟩)
        · omega
        · exact ⟨by omega, by omega, h3⟩
      · rintro ⟨h1, h2, h3⟩; exact .inr ⟨by omega, by omega, h3⟩

/-- The search lists no index twice. -/
theorem nodup_tlbHits {r : BitVec 2} {v : BitVec 31} {a : BitVec 8} (l : List TlbEntry) : ∀ n, (tlbHits r v a l n).Nodup := by
  induction l with
  | nil => intro n; exact List.nodup_nil
  | cons e l ih =>
    intro n; unfold tlbHits; split
    · rw [List.nodup_cons]; refine ⟨fun h => ?_, ih _⟩
      have := ((mem_tlbHits l _ _).1 h).1; omega
    · exact ih _

/-- An index is listed when its entry matches. -/
theorem tlbHits_iff {s : State} {r : BitVec 2} {v : BitVec 31} {a : BitVec 8} (i : Nat) :
    i ∈ tlbHits r v a s.tlb.toList 0 ↔ i < 64 ∧ (s.tlbAt i).hits r v a = true := by
  rw [mem_tlbHits]; simp [State.tlbAt]

/-- An entry matches by its flag, region, page number under its mask, and G or ASID (R310). -/
theorem hits_iff (e : TlbEntry) (r : BitVec 2) (v : BitVec 31) (a : BitVec 8) : e.hits r v a = true ↔
    e.matchable = true ∧ e.r = r ∧ e.vpn2 &&& ~~~(e.mask.setWidth 31) = v &&& ~~~(e.mask.setWidth 31) ∧ (e.g = true ∨ e.asid = a) := by
  unfold TlbEntry.hits; simp [and_assoc]

/-- The three outcomes of a search: none, one, several. -/
theorem tlbHits_cases {s : State} {r : BitVec 2} {v : BitVec 31} {a : BitVec 8} {m : Nat → Prop} (hm : ∀ i, m i ↔ (s.tlbAt i).hits r v a = true) :
    ((∀ i, i < 64 → ¬ m i) → tlbHits r v a s.tlb.toList 0 = []) ∧
    (∀ i, i < 64 → (∀ j, j < 64 → (m j ↔ j = i)) → tlbHits r v a s.tlb.toList 0 = [i]) ∧
    (∀ i j, i < 64 → j < 64 → i ≠ j → m i → m j → ∃ x y l, tlbHits r v a s.tlb.toList 0 = x :: y :: l) := by
  have hn := nodup_tlbHits (r := r) (v := v) (a := a) s.tlb.toList 0
  have hmem : ∀ i, i ∈ tlbHits r v a s.tlb.toList 0 ↔ i < 64 ∧ m i := fun i => by rw [tlbHits_iff, hm]
  generalize tlbHits r v a s.tlb.toList 0 = L at *
  refine ⟨?_, ?_, ?_⟩
  · intro h
    exact List.eq_nil_iff_forall_not_mem.2 fun i hi => h i ((hmem i).1 hi).1 ((hmem i).1 hi).2
  · intro i hi h
    have e : ∀ j, j ∈ L ↔ j = i := fun j => by
      rw [hmem]; exact ⟨fun ⟨a, b⟩ => (h j a).1 b, fun e => e ▸ ⟨hi, (h i hi).2 rfl⟩⟩
    match L, hn, e with
    | [], _, e => exact absurd ((e i).2 rfl) (by simp)
    | [x], _, e => rw [(e x).1 (by simp)]
    | x :: y :: l, hn, e =>
      exfalso
      have h1 := (e x).1 (by simp); have h2 := (e y).1 (by simp)
      rw [h1, h2] at hn; simp at hn
  · intro i j hi hj hij mi mj
    have h1 := (hmem i).2 ⟨hi, mi⟩; have h2 := (hmem j).2 ⟨hj, mj⟩
    match L, h1, h2 with
    | [], h1, _ => simp at h1
    | [x], h1, h2 => simp at h1 h2; omega
    | x :: y :: l, _, _ => exact ⟨x, y, l, rfl⟩

/-- The current address space identifier. -/
theorem asid_eq (s : State) : s.asid = s.cp0.entryHi.extractLsb' 0 8 := by
  unfold State.asid; apply BitVec.eq_of_getLsbD_eq; intro j hj; simp [hj]

end Sys2Proof.Machine
end

