-- ==== Sys2Proof/Tests/Slice0.lean ====
section
/-! SUPPORT. Tests: the well-formedness smoke; for every constructor its word, written out bit by bit from the
spec's encoding (spec/opcode_table.json); one step of each family on values of spec/95_test_vectors.md; and for
every statement of Certificates/Slice0/Obligations.lean with hypotheses a state and operands that meet them. -/

namespace Sys2Proof.Machine.Tests

open Sys2Proof Sys2Proof.Machine

/-! ## Well-formedness -/

/-- Each CP0 move with a select other than 0 is refused unless it names register 25. -/
theorem test_wellFormed :
    (Instr.mfc0 2#5 12#5 1#4).wellFormed = false ∧ (Instr.dmfc0 2#5 12#5 1#4).wellFormed = false ∧
    (Instr.mtc0 2#5 12#5 1#4).wellFormed = false ∧ (Instr.dmtc0 2#5 12#5 1#4).wellFormed = false ∧
    (Instr.mfc0 2#5 25#5 1#4).wellFormed = true ∧ (Instr.mtc0 2#5 12#5 0#4).wellFormed = true := by decide

/-! ## Decoding and encoding -/

/-- The word is the instruction's, both ways. -/
abbrev Codes (w : Word) (i : Instr) : Prop := decode w = .ok i ∧ encode i = w

theorem test_codes_integerAlu1 :
    Codes 0b000000_10011_01101_00110_00000_100000#32 (.add 0b10011#5 0b01101#5 0b00110#5) ∧
    Codes 0b000000_10011_01101_00110_00000_100001#32 (.addu 0b10011#5 0b01101#5 0b00110#5) ∧
    Codes 0b000000_10011_01101_00110_00000_100010#32 (.sub 0b10011#5 0b01101#5 0b00110#5) ∧
    Codes 0b000000_10011_01101_00110_00000_100011#32 (.subu 0b10011#5 0b01101#5 0b00110#5) ∧
    Codes 0b001000_10011_01101_1000101000110101#32 (.addi 0b10011#5 0b01101#5 0b1000101000110101#16) ∧
    Codes 0b001001_10011_01101_1000101000110101#32 (.addiu 0b10011#5 0b01101#5 0b1000101000110101#16) ∧
    Codes 0b000000_10011_01101_00110_00000_101100#32 (.dadd 0b10011#5 0b01101#5 0b00110#5) ∧
    Codes 0b000000_10011_01101_00110_00000_101101#32 (.daddu 0b10011#5 0b01101#5 0b00110#5) ∧
    Codes 0b000000_10011_01101_00110_00000_101110#32 (.dsub 0b10011#5 0b01101#5 0b00110#5) ∧
    Codes 0b000000_10011_01101_00110_00000_101111#32 (.dsubu 0b10011#5 0b01101#5 0b00110#5) ∧
    Codes 0b011000_10011_01101_1000101000110101#32 (.daddi 0b10011#5 0b01101#5 0b1000101000110101#16) ∧
    Codes 0b011001_10011_01101_1000101000110101#32 (.daddiu 0b10011#5 0b01101#5 0b1000101000110101#16) ∧
    Codes 0b000000_10011_01101_00110_00000_100100#32 (.and 0b10011#5 0b01101#5 0b00110#5) ∧
    Codes 0b000000_10011_01101_00110_00000_100101#32 (.or 0b10011#5 0b01101#5 0b00110#5) := by repeat' constructor

theorem test_codes_integerAlu2 :
    Codes 0b000000_10011_01101_00110_00000_100110#32 (.xor 0b10011#5 0b01101#5 0b00110#5) ∧
    Codes 0b000000_10011_01101_00110_00000_100111#32 (.nor 0b10011#5 0b01101#5 0b00110#5) ∧
    Codes 0b001100_10011_01101_1000101000110101#32 (.andi 0b10011#5 0b01101#5 0b1000101000110101#16) ∧
    Codes 0b001101_10011_01101_1000101000110101#32 (.ori 0b10011#5 0b01101#5 0b1000101000110101#16) ∧
    Codes 0b001110_10011_01101_1000101000110101#32 (.xori 0b10011#5 0b01101#5 0b1000101000110101#16) ∧
    Codes 0b001111_00000_10011_1000101000110101#32 (.lui 0b10011#5 0b1000101000110101#16) ∧
    Codes 0b000000_10011_01101_00110_00000_101010#32 (.slt 0b10011#5 0b01101#5 0b00110#5) ∧
    Codes 0b000000_10011_01101_00110_00000_101011#32 (.sltu 0b10011#5 0b01101#5 0b00110#5) ∧
    Codes 0b001010_10011_01101_1000101000110101#32 (.slti 0b10011#5 0b01101#5 0b1000101000110101#16) ∧
    Codes 0b001011_10011_01101_1000101000110101#32 (.sltiu 0b10011#5 0b01101#5 0b1000101000110101#16) ∧
    Codes 0b000000_00000_10011_01101_00110_000000#32 (.sll 0b10011#5 0b01101#5 0b00110#5) ∧
    Codes 0b000000_00000_10011_01101_00110_000010#32 (.srl 0b10011#5 0b01101#5 0b00110#5) ∧
    Codes 0b000000_00000_10011_01101_00110_000011#32 (.sra 0b10011#5 0b01101#5 0b00110#5) ∧
    Codes 0b000000_10011_01101_00110_00000_000100#32 (.sllv 0b10011#5 0b01101#5 0b00110#5) := by repeat' constructor

theorem test_codes_integerAlu3 :
    Codes 0b000000_10011_01101_00110_00000_000110#32 (.srlv 0b10011#5 0b01101#5 0b00110#5) ∧
    Codes 0b000000_10011_01101_00110_00000_000111#32 (.srav 0b10011#5 0b01101#5 0b00110#5) ∧
    Codes 0b000000_00000_10011_01101_00110_111000#32 (.dsll 0b10011#5 0b01101#5 0b00110#5) ∧
    Codes 0b000000_00000_10011_01101_00110_111010#32 (.dsrl 0b10011#5 0b01101#5 0b00110#5) ∧
    Codes 0b000000_00000_10011_01101_00110_111011#32 (.dsra 0b10011#5 0b01101#5 0b00110#5) ∧
    Codes 0b000000_10011_01101_00110_00000_010100#32 (.dsllv 0b10011#5 0b01101#5 0b00110#5) ∧
    Codes 0b000000_10011_01101_00110_00000_010110#32 (.dsrlv 0b10011#5 0b01101#5 0b00110#5) ∧
    Codes 0b000000_10011_01101_00110_00000_010111#32 (.dsrav 0b10011#5 0b01101#5 0b00110#5) ∧
    Codes 0b000000_00000_10011_01101_00110_111100#32 (.dsll32 0b10011#5 0b01101#5 0b00110#5) ∧
    Codes 0b000000_00000_10011_01101_00110_111110#32 (.dsrl32 0b10011#5 0b01101#5 0b00110#5) ∧
    Codes 0b000000_00000_10011_01101_00110_111111#32 (.dsra32 0b10011#5 0b01101#5 0b00110#5) ∧
    Codes 0b000000_10011_01101_00110_00000_001011#32 (.movn 0b10011#5 0b01101#5 0b00110#5) ∧
    Codes 0b000000_10011_01101_00110_00000_001010#32 (.movz 0b10011#5 0b01101#5 0b00110#5) ∧
    Codes 0b000000_10011_110_0_0_01101_00000_000001#32 (.movf 0b10011#5 0b110#3 0b01101#5) := by repeat' constructor

theorem test_codes_integerAlu4 :
    Codes 0b000000_10011_110_0_1_01101_00000_000001#32 (.movt 0b10011#5 0b110#3 0b01101#5) := by repeat' constructor

theorem test_codes_multiplyDivide :
    Codes 0b000000_10011_01101_00000_00000_011000#32 (.mult 0b10011#5 0b01101#5) ∧
    Codes 0b000000_10011_01101_00000_00000_011001#32 (.multu 0b10011#5 0b01101#5) ∧
    Codes 0b000000_10011_01101_00000_00000_011010#32 (.div 0b10011#5 0b01101#5) ∧
    Codes 0b000000_10011_01101_00000_00000_011011#32 (.divu 0b10011#5 0b01101#5) ∧
    Codes 0b000000_10011_01101_00000_00000_011100#32 (.dmult 0b10011#5 0b01101#5) ∧
    Codes 0b000000_10011_01101_00000_00000_011101#32 (.dmultu 0b10011#5 0b01101#5) ∧
    Codes 0b000000_10011_01101_00000_00000_011110#32 (.ddiv 0b10011#5 0b01101#5) ∧
    Codes 0b000000_10011_01101_00000_00000_011111#32 (.ddivu 0b10011#5 0b01101#5) ∧
    Codes 0b000000_00000_00000_10011_00000_010000#32 (.mfhi 0b10011#5) ∧
    Codes 0b000000_00000_00000_10011_00000_010010#32 (.mflo 0b10011#5) ∧
    Codes 0b000000_10011_00000_00000_00000_010001#32 (.mthi 0b10011#5) ∧
    Codes 0b000000_10011_00000_00000_00000_010011#32 (.mtlo 0b10011#5) := by repeat' constructor

theorem test_codes_loadStore1 :
    Codes 0b100000_10011_01101_1000101000110101#32 (.lb 0b10011#5 0b01101#5 0b1000101000110101#16) ∧
    Codes 0b100100_10011_01101_1000101000110101#32 (.lbu 0b10011#5 0b01101#5 0b1000101000110101#16) ∧
    Codes 0b100001_10011_01101_1000101000110101#32 (.lh 0b10011#5 0b01101#5 0b1000101000110101#16) ∧
    Codes 0b100101_10011_01101_1000101000110101#32 (.lhu 0b10011#5 0b01101#5 0b1000101000110101#16) ∧
    Codes 0b100011_10011_01101_1000101000110101#32 (.lw 0b10011#5 0b01101#5 0b1000101000110101#16) ∧
    Codes 0b100111_10011_01101_1000101000110101#32 (.lwu 0b10011#5 0b01101#5 0b1000101000110101#16) ∧
    Codes 0b110111_10011_01101_1000101000110101#32 (.ld 0b10011#5 0b01101#5 0b1000101000110101#16) ∧
    Codes 0b101000_10011_01101_1000101000110101#32 (.sb 0b10011#5 0b01101#5 0b1000101000110101#16) ∧
    Codes 0b101001_10011_01101_1000101000110101#32 (.sh 0b10011#5 0b01101#5 0b1000101000110101#16) ∧
    Codes 0b101011_10011_01101_1000101000110101#32 (.sw 0b10011#5 0b01101#5 0b1000101000110101#16) ∧
    Codes 0b111111_10011_01101_1000101000110101#32 (.sd 0b10011#5 0b01101#5 0b1000101000110101#16) ∧
    Codes 0b100010_10011_01101_1000101000110101#32 (.lwl 0b10011#5 0b01101#5 0b1000101000110101#16) ∧
    Codes 0b100110_10011_01101_1000101000110101#32 (.lwr 0b10011#5 0b01101#5 0b1000101000110101#16) ∧
    Codes 0b101010_10011_01101_1000101000110101#32 (.swl 0b10011#5 0b01101#5 0b1000101000110101#16) := by repeat' constructor

theorem test_codes_loadStore2 :
    Codes 0b101110_10011_01101_1000101000110101#32 (.swr 0b10011#5 0b01101#5 0b1000101000110101#16) ∧
    Codes 0b011010_10011_01101_1000101000110101#32 (.ldl 0b10011#5 0b01101#5 0b1000101000110101#16) ∧
    Codes 0b011011_10011_01101_1000101000110101#32 (.ldr 0b10011#5 0b01101#5 0b1000101000110101#16) ∧
    Codes 0b101100_10011_01101_1000101000110101#32 (.sdl 0b10011#5 0b01101#5 0b1000101000110101#16) ∧
    Codes 0b101101_10011_01101_1000101000110101#32 (.sdr 0b10011#5 0b01101#5 0b1000101000110101#16) ∧
    Codes 0b110000_10011_01101_1000101000110101#32 (.ll 0b10011#5 0b01101#5 0b1000101000110101#16) ∧
    Codes 0b110100_10011_01101_1000101000110101#32 (.lld 0b10011#5 0b01101#5 0b1000101000110101#16) ∧
    Codes 0b111000_10011_01101_1000101000110101#32 (.sc 0b10011#5 0b01101#5 0b1000101000110101#16) ∧
    Codes 0b111100_10011_01101_1000101000110101#32 (.scd 0b10011#5 0b01101#5 0b1000101000110101#16) ∧
    Codes 0b000000_00000_00000_00000_10011_001111#32 (.sync 0b10011#5) ∧
    Codes 0b110011_10011_01101_1000101000110101#32 (.pref 0b10011#5 0b01101#5 0b1000101000110101#16) ∧
    Codes 0b010011_10011_01101_00110_00000_001111#32 (.prefx 0b10011#5 0b01101#5 0b00110#5) := by repeat' constructor

theorem test_codes_branchJump1 :
    Codes 0b000010_10001010001101010011001101#32 (.j 0b10001010001101010011001101#26) ∧
    Codes 0b000011_10001010001101010011001101#32 (.jal 0b10001010001101010011001101#26) ∧
    Codes 0b000000_10011_00000_00000_00000_001000#32 (.jr 0b10011#5) ∧
    Codes 0b000000_10011_00000_01101_00000_001001#32 (.jalr 0b10011#5 0b01101#5) ∧
    Codes 0b000100_10011_01101_1000101000110101#32 (.beq 0b10011#5 0b01101#5 0b1000101000110101#16) ∧
    Codes 0b000101_10011_01101_1000101000110101#32 (.bne 0b10011#5 0b01101#5 0b1000101000110101#16) ∧
    Codes 0b000110_10011_00000_1000101000110101#32 (.blez 0b10011#5 0b1000101000110101#16) ∧
    Codes 0b000111_10011_00000_1000101000110101#32 (.bgtz 0b10011#5 0b1000101000110101#16) ∧
    Codes 0b000001_10011_00000_1000101000110101#32 (.bltz 0b10011#5 0b1000101000110101#16) ∧
    Codes 0b000001_10011_00001_1000101000110101#32 (.bgez 0b10011#5 0b1000101000110101#16) ∧
    Codes 0b000001_10011_10000_1000101000110101#32 (.bltzal 0b10011#5 0b1000101000110101#16) ∧
    Codes 0b000001_10011_10001_1000101000110101#32 (.bgezal 0b10011#5 0b1000101000110101#16) ∧
    Codes 0b010100_10011_01101_1000101000110101#32 (.beql 0b10011#5 0b01101#5 0b1000101000110101#16) ∧
    Codes 0b010101_10011_01101_1000101000110101#32 (.bnel 0b10011#5 0b01101#5 0b1000101000110101#16) := by repeat' constructor

theorem test_codes_branchJump2 :
    Codes 0b010110_10011_00000_1000101000110101#32 (.blezl 0b10011#5 0b1000101000110101#16) ∧
    Codes 0b010111_10011_00000_1000101000110101#32 (.bgtzl 0b10011#5 0b1000101000110101#16) ∧
    Codes 0b000001_10011_00010_1000101000110101#32 (.bltzl 0b10011#5 0b1000101000110101#16) ∧
    Codes 0b000001_10011_00011_1000101000110101#32 (.bgezl 0b10011#5 0b1000101000110101#16) ∧
    Codes 0b000001_10011_10010_1000101000110101#32 (.bltzall 0b10011#5 0b1000101000110101#16) ∧
    Codes 0b000001_10011_10011_1000101000110101#32 (.bgezall 0b10011#5 0b1000101000110101#16) := by repeat' constructor

theorem test_codes_trapSyscall :
    Codes 0b000000_10011_01101_1000110101_110000#32 (.tge 0b10011#5 0b01101#5 0b1000110101#10) ∧
    Codes 0b000000_10011_01101_1000110101_110001#32 (.tgeu 0b10011#5 0b01101#5 0b1000110101#10) ∧
    Codes 0b000000_10011_01101_1000110101_110010#32 (.tlt 0b10011#5 0b01101#5 0b1000110101#10) ∧
    Codes 0b000000_10011_01101_1000110101_110011#32 (.tltu 0b10011#5 0b01101#5 0b1000110101#10) ∧
    Codes 0b000000_10011_01101_1000110101_110100#32 (.teq 0b10011#5 0b01101#5 0b1000110101#10) ∧
    Codes 0b000000_10011_01101_1000110101_110110#32 (.tne 0b10011#5 0b01101#5 0b1000110101#10) ∧
    Codes 0b000001_10011_01000_1000101000110101#32 (.tgei 0b10011#5 0b1000101000110101#16) ∧
    Codes 0b000001_10011_01001_1000101000110101#32 (.tgeiu 0b10011#5 0b1000101000110101#16) ∧
    Codes 0b000001_10011_01010_1000101000110101#32 (.tlti 0b10011#5 0b1000101000110101#16) ∧
    Codes 0b000001_10011_01011_1000101000110101#32 (.tltiu 0b10011#5 0b1000101000110101#16) ∧
    Codes 0b000001_10011_01100_1000101000110101#32 (.teqi 0b10011#5 0b1000101000110101#16) ∧
    Codes 0b000001_10011_01110_1000101000110101#32 (.tnei 0b10011#5 0b1000101000110101#16) ∧
    Codes 0b000000_10001010001101010011_001100#32 (.syscall 0b10001010001101010011#20) ∧
    Codes 0b000000_10001010001101010011_001101#32 (.brk 0b10001010001101010011#20) := by repeat' constructor

theorem test_codes_cp0Instructions :
    Codes 0b010000_00000_10011_01100_00000_000000#32 (.mfc0 0b10011#5 0b01100#5 0b0000#4) ∧
    Codes 0b010000_00000_10011_11001_00000_000101#32 (.mfc0 0b10011#5 0b11001#5 0b0101#4) ∧
    Codes 0b010000_00001_10011_01100_00000_000000#32 (.dmfc0 0b10011#5 0b01100#5 0b0000#4) ∧
    Codes 0b010000_00001_10011_11001_00000_000101#32 (.dmfc0 0b10011#5 0b11001#5 0b0101#4) ∧
    Codes 0b010000_00100_10011_01100_00000_000000#32 (.mtc0 0b10011#5 0b01100#5 0b0000#4) ∧
    Codes 0b010000_00100_10011_11001_00000_000101#32 (.mtc0 0b10011#5 0b11001#5 0b0101#4) ∧
    Codes 0b010000_00101_10011_01100_00000_000000#32 (.dmtc0 0b10011#5 0b01100#5 0b0000#4) ∧
    Codes 0b010000_00101_10011_11001_00000_000101#32 (.dmtc0 0b10011#5 0b11001#5 0b0101#4) ∧
    Codes 0b010000_1_0000000000000000000_000001#32 (.tlbr) ∧
    Codes 0b010000_1_0000000000000000000_000010#32 (.tlbwi) ∧
    Codes 0b010000_1_0000000000000000000_000110#32 (.tlbwr) ∧
    Codes 0b010000_1_0000000000000000000_001000#32 (.tlbp) ∧
    Codes 0b010000_1_0000000000000000000_011000#32 (.eret) := by repeat' constructor

theorem test_codes_fpuInstructions1 :
    Codes 0b010001_00000_10011_01101_00000_000000#32 (.mfc1 0b10011#5 0b01101#5) ∧
    Codes 0b010001_00001_10011_01101_00000_000000#32 (.dmfc1 0b10011#5 0b01101#5) ∧
    Codes 0b010001_00100_10011_01101_00000_000000#32 (.mtc1 0b10011#5 0b01101#5) ∧
    Codes 0b010001_00101_10011_01101_00000_000000#32 (.dmtc1 0b10011#5 0b01101#5) ∧
    Codes 0b010001_00010_10011_01101_00000_000000#32 (.cfc1 0b10011#5 0b01101#5) ∧
    Codes 0b010001_00110_10011_01101_00000_000000#32 (.ctc1 0b10011#5 0b01101#5) ∧
    Codes 0b110001_10011_01101_1000101000110101#32 (.lwc1 0b10011#5 0b01101#5 0b1000101000110101#16) ∧
    Codes 0b110101_10011_01101_1000101000110101#32 (.ldc1 0b10011#5 0b01101#5 0b1000101000110101#16) ∧
    Codes 0b111001_10011_01101_1000101000110101#32 (.swc1 0b10011#5 0b01101#5 0b1000101000110101#16) ∧
    Codes 0b111101_10011_01101_1000101000110101#32 (.sdc1 0b10011#5 0b01101#5 0b1000101000110101#16) ∧
    Codes 0b010011_10011_01101_00000_00110_000000#32 (.lwxc1 0b10011#5 0b01101#5 0b00110#5) ∧
    Codes 0b010011_10011_01101_00000_00110_000001#32 (.ldxc1 0b10011#5 0b01101#5 0b00110#5) ∧
    Codes 0b010011_10011_01101_00110_00000_001000#32 (.swxc1 0b10011#5 0b01101#5 0b00110#5) ∧
    Codes 0b010011_10011_01101_00110_00000_001001#32 (.sdxc1 0b10011#5 0b01101#5 0b00110#5) := by repeat' constructor

theorem test_codes_fpuInstructions2 :
    Codes 0b010001_01000_110_0_0_1000101000110101#32 (.bc1f 0b110#3 0b1000101000110101#16) ∧
    Codes 0b010001_01000_110_0_1_1000101000110101#32 (.bc1t 0b110#3 0b1000101000110101#16) ∧
    Codes 0b010001_01000_110_1_0_1000101000110101#32 (.bc1fl 0b110#3 0b1000101000110101#16) ∧
    Codes 0b010001_01000_110_1_1_1000101000110101#32 (.bc1tl 0b110#3 0b1000101000110101#16) ∧
    Codes 0b010001_10000_10011_01101_00110_000000#32 (.addS 0b10011#5 0b01101#5 0b00110#5) ∧
    Codes 0b010001_10001_10011_01101_00110_000000#32 (.addD 0b10011#5 0b01101#5 0b00110#5) ∧
    Codes 0b010001_10000_10011_01101_00110_000001#32 (.subS 0b10011#5 0b01101#5 0b00110#5) ∧
    Codes 0b010001_10001_10011_01101_00110_000001#32 (.subD 0b10011#5 0b01101#5 0b00110#5) ∧
    Codes 0b010001_10000_10011_01101_00110_000010#32 (.mulS 0b10011#5 0b01101#5 0b00110#5) ∧
    Codes 0b010001_10001_10011_01101_00110_000010#32 (.mulD 0b10011#5 0b01101#5 0b00110#5) ∧
    Codes 0b010001_10000_10011_01101_00110_000011#32 (.divS 0b10011#5 0b01101#5 0b00110#5) ∧
    Codes 0b010001_10001_10011_01101_00110_000011#32 (.divD 0b10011#5 0b01101#5 0b00110#5) ∧
    Codes 0b010001_10000_00000_10011_01101_000100#32 (.sqrtS 0b10011#5 0b01101#5) ∧
    Codes 0b010001_10001_00000_10011_01101_000100#32 (.sqrtD 0b10011#5 0b01101#5) := by repeat' constructor

theorem test_codes_fpuInstructions3 :
    Codes 0b010001_10000_00000_10011_01101_000101#32 (.absS 0b10011#5 0b01101#5) ∧
    Codes 0b010001_10001_00000_10011_01101_000101#32 (.absD 0b10011#5 0b01101#5) ∧
    Codes 0b010001_10000_00000_10011_01101_000110#32 (.movS 0b10011#5 0b01101#5) ∧
    Codes 0b010001_10001_00000_10011_01101_000110#32 (.movD 0b10011#5 0b01101#5) ∧
    Codes 0b010001_10000_00000_10011_01101_000111#32 (.negS 0b10011#5 0b01101#5) ∧
    Codes 0b010001_10001_00000_10011_01101_000111#32 (.negD 0b10011#5 0b01101#5) ∧
    Codes 0b010001_10000_00000_10011_01101_001000#32 (.roundLS 0b10011#5 0b01101#5) ∧
    Codes 0b010001_10001_00000_10011_01101_001000#32 (.roundLD 0b10011#5 0b01101#5) ∧
    Codes 0b010001_10000_00000_10011_01101_001001#32 (.truncLS 0b10011#5 0b01101#5) ∧
    Codes 0b010001_10001_00000_10011_01101_001001#32 (.truncLD 0b10011#5 0b01101#5) ∧
    Codes 0b010001_10000_00000_10011_01101_001010#32 (.ceilLS 0b10011#5 0b01101#5) ∧
    Codes 0b010001_10001_00000_10011_01101_001010#32 (.ceilLD 0b10011#5 0b01101#5) ∧
    Codes 0b010001_10000_00000_10011_01101_001011#32 (.floorLS 0b10011#5 0b01101#5) ∧
    Codes 0b010001_10001_00000_10011_01101_001011#32 (.floorLD 0b10011#5 0b01101#5) := by repeat' constructor

theorem test_codes_fpuInstructions4 :
    Codes 0b010001_10000_00000_10011_01101_001100#32 (.roundWS 0b10011#5 0b01101#5) ∧
    Codes 0b010001_10001_00000_10011_01101_001100#32 (.roundWD 0b10011#5 0b01101#5) ∧
    Codes 0b010001_10000_00000_10011_01101_001101#32 (.truncWS 0b10011#5 0b01101#5) ∧
    Codes 0b010001_10001_00000_10011_01101_001101#32 (.truncWD 0b10011#5 0b01101#5) ∧
    Codes 0b010001_10000_00000_10011_01101_001110#32 (.ceilWS 0b10011#5 0b01101#5) ∧
    Codes 0b010001_10001_00000_10011_01101_001110#32 (.ceilWD 0b10011#5 0b01101#5) ∧
    Codes 0b010001_10000_00000_10011_01101_001111#32 (.floorWS 0b10011#5 0b01101#5) ∧
    Codes 0b010001_10001_00000_10011_01101_001111#32 (.floorWD 0b10011#5 0b01101#5) ∧
    Codes 0b010001_10001_00000_10011_01101_100000#32 (.cvtSD 0b10011#5 0b01101#5) ∧
    Codes 0b010001_10100_00000_10011_01101_100000#32 (.cvtSW 0b10011#5 0b01101#5) ∧
    Codes 0b010001_10101_00000_10011_01101_100000#32 (.cvtSL 0b10011#5 0b01101#5) ∧
    Codes 0b010001_10000_00000_10011_01101_100001#32 (.cvtDS 0b10011#5 0b01101#5) ∧
    Codes 0b010001_10100_00000_10011_01101_100001#32 (.cvtDW 0b10011#5 0b01101#5) ∧
    Codes 0b010001_10101_00000_10011_01101_100001#32 (.cvtDL 0b10011#5 0b01101#5) := by repeat' constructor

theorem test_codes_fpuInstructions5 :
    Codes 0b010001_10000_00000_10011_01101_100100#32 (.cvtWS 0b10011#5 0b01101#5) ∧
    Codes 0b010001_10001_00000_10011_01101_100100#32 (.cvtWD 0b10011#5 0b01101#5) ∧
    Codes 0b010001_10000_00000_10011_01101_100101#32 (.cvtLS 0b10011#5 0b01101#5) ∧
    Codes 0b010001_10001_00000_10011_01101_100101#32 (.cvtLD 0b10011#5 0b01101#5) ∧
    Codes 0b010001_10000_110_0_0_10011_01101_010001#32 (.movfS 0b110#3 0b10011#5 0b01101#5) ∧
    Codes 0b010001_10001_110_0_0_10011_01101_010001#32 (.movfD 0b110#3 0b10011#5 0b01101#5) ∧
    Codes 0b010001_10000_110_0_1_10011_01101_010001#32 (.movtS 0b110#3 0b10011#5 0b01101#5) ∧
    Codes 0b010001_10001_110_0_1_10011_01101_010001#32 (.movtD 0b110#3 0b10011#5 0b01101#5) ∧
    Codes 0b010001_10000_10011_01101_00110_010010#32 (.movzS 0b10011#5 0b01101#5 0b00110#5) ∧
    Codes 0b010001_10001_10011_01101_00110_010010#32 (.movzD 0b10011#5 0b01101#5 0b00110#5) ∧
    Codes 0b010001_10000_10011_01101_00110_010011#32 (.movnS 0b10011#5 0b01101#5 0b00110#5) ∧
    Codes 0b010001_10001_10011_01101_00110_010011#32 (.movnD 0b10011#5 0b01101#5 0b00110#5) ∧
    Codes 0b010001_10000_00000_10011_01101_010101#32 (.recipS 0b10011#5 0b01101#5) ∧
    Codes 0b010001_10001_00000_10011_01101_010101#32 (.recipD 0b10011#5 0b01101#5) := by repeat' constructor

theorem test_codes_fpuInstructions6 :
    Codes 0b010001_10000_00000_10011_01101_010110#32 (.rsqrtS 0b10011#5 0b01101#5) ∧
    Codes 0b010001_10001_00000_10011_01101_010110#32 (.rsqrtD 0b10011#5 0b01101#5) ∧
    Codes 0b010011_10011_01101_00110_11001_100_000#32 (.maddS 0b10011#5 0b01101#5 0b00110#5 0b11001#5) ∧
    Codes 0b010011_10011_01101_00110_11001_100_001#32 (.maddD 0b10011#5 0b01101#5 0b00110#5 0b11001#5) ∧
    Codes 0b010011_10011_01101_00110_11001_101_000#32 (.msubS 0b10011#5 0b01101#5 0b00110#5 0b11001#5) ∧
    Codes 0b010011_10011_01101_00110_11001_101_001#32 (.msubD 0b10011#5 0b01101#5 0b00110#5 0b11001#5) ∧
    Codes 0b010011_10011_01101_00110_11001_110_000#32 (.nmaddS 0b10011#5 0b01101#5 0b00110#5 0b11001#5) ∧
    Codes 0b010011_10011_01101_00110_11001_110_001#32 (.nmaddD 0b10011#5 0b01101#5 0b00110#5 0b11001#5) ∧
    Codes 0b010011_10011_01101_00110_11001_111_000#32 (.nmsubS 0b10011#5 0b01101#5 0b00110#5 0b11001#5) ∧
    Codes 0b010011_10011_01101_00110_11001_111_001#32 (.nmsubD 0b10011#5 0b01101#5 0b00110#5 0b11001#5) ∧
    Codes 0b010001_10000_10011_01101_110_00_11_0000#32 (.cFS 0b10011#5 0b01101#5 0b110#3) ∧
    Codes 0b010001_10000_10011_01101_110_00_11_0001#32 (.cUnS 0b10011#5 0b01101#5 0b110#3) ∧
    Codes 0b010001_10000_10011_01101_110_00_11_0010#32 (.cEqS 0b10011#5 0b01101#5 0b110#3) ∧
    Codes 0b010001_10000_10011_01101_110_00_11_0011#32 (.cUeqS 0b10011#5 0b01101#5 0b110#3) := by repeat' constructor

theorem test_codes_fpuInstructions7 :
    Codes 0b010001_10000_10011_01101_110_00_11_0100#32 (.cOltS 0b10011#5 0b01101#5 0b110#3) ∧
    Codes 0b010001_10000_10011_01101_110_00_11_0101#32 (.cUltS 0b10011#5 0b01101#5 0b110#3) ∧
    Codes 0b010001_10000_10011_01101_110_00_11_0110#32 (.cOleS 0b10011#5 0b01101#5 0b110#3) ∧
    Codes 0b010001_10000_10011_01101_110_00_11_0111#32 (.cUleS 0b10011#5 0b01101#5 0b110#3) ∧
    Codes 0b010001_10000_10011_01101_110_00_11_1000#32 (.cSfS 0b10011#5 0b01101#5 0b110#3) ∧
    Codes 0b010001_10000_10011_01101_110_00_11_1001#32 (.cNgleS 0b10011#5 0b01101#5 0b110#3) ∧
    Codes 0b010001_10000_10011_01101_110_00_11_1010#32 (.cSeqS 0b10011#5 0b01101#5 0b110#3) ∧
    Codes 0b010001_10000_10011_01101_110_00_11_1011#32 (.cNglS 0b10011#5 0b01101#5 0b110#3) ∧
    Codes 0b010001_10000_10011_01101_110_00_11_1100#32 (.cLtS 0b10011#5 0b01101#5 0b110#3) ∧
    Codes 0b010001_10000_10011_01101_110_00_11_1101#32 (.cNgeS 0b10011#5 0b01101#5 0b110#3) ∧
    Codes 0b010001_10000_10011_01101_110_00_11_1110#32 (.cLeS 0b10011#5 0b01101#5 0b110#3) ∧
    Codes 0b010001_10000_10011_01101_110_00_11_1111#32 (.cNgtS 0b10011#5 0b01101#5 0b110#3) ∧
    Codes 0b010001_10001_10011_01101_110_00_11_0000#32 (.cFD 0b10011#5 0b01101#5 0b110#3) ∧
    Codes 0b010001_10001_10011_01101_110_00_11_0001#32 (.cUnD 0b10011#5 0b01101#5 0b110#3) := by repeat' constructor

theorem test_codes_fpuInstructions8 :
    Codes 0b010001_10001_10011_01101_110_00_11_0010#32 (.cEqD 0b10011#5 0b01101#5 0b110#3) ∧
    Codes 0b010001_10001_10011_01101_110_00_11_0011#32 (.cUeqD 0b10011#5 0b01101#5 0b110#3) ∧
    Codes 0b010001_10001_10011_01101_110_00_11_0100#32 (.cOltD 0b10011#5 0b01101#5 0b110#3) ∧
    Codes 0b010001_10001_10011_01101_110_00_11_0101#32 (.cUltD 0b10011#5 0b01101#5 0b110#3) ∧
    Codes 0b010001_10001_10011_01101_110_00_11_0110#32 (.cOleD 0b10011#5 0b01101#5 0b110#3) ∧
    Codes 0b010001_10001_10011_01101_110_00_11_0111#32 (.cUleD 0b10011#5 0b01101#5 0b110#3) ∧
    Codes 0b010001_10001_10011_01101_110_00_11_1000#32 (.cSfD 0b10011#5 0b01101#5 0b110#3) ∧
    Codes 0b010001_10001_10011_01101_110_00_11_1001#32 (.cNgleD 0b10011#5 0b01101#5 0b110#3) ∧
    Codes 0b010001_10001_10011_01101_110_00_11_1010#32 (.cSeqD 0b10011#5 0b01101#5 0b110#3) ∧
    Codes 0b010001_10001_10011_01101_110_00_11_1011#32 (.cNglD 0b10011#5 0b01101#5 0b110#3) ∧
    Codes 0b010001_10001_10011_01101_110_00_11_1100#32 (.cLtD 0b10011#5 0b01101#5 0b110#3) ∧
    Codes 0b010001_10001_10011_01101_110_00_11_1101#32 (.cNgeD 0b10011#5 0b01101#5 0b110#3) ∧
    Codes 0b010001_10001_10011_01101_110_00_11_1110#32 (.cLeD 0b10011#5 0b01101#5 0b110#3) ∧
    Codes 0b010001_10001_10011_01101_110_00_11_1111#32 (.cNgtD 0b10011#5 0b01101#5 0b110#3) := by repeat' constructor

theorem test_codes_caches :
    Codes 0b101111_10011_01101_1000101000110101#32 (.cache 0b10011#5 0b01101#5 0b1000101000110101#16) := by repeat' constructor

theorem test_codes_rfe :
    Codes 0b010000_1_0000000000000000000_010000#32 (.rfe) := by repeat' constructor

theorem test_codes_cop2 :
    Codes 0b010010_10001010001101010011001101#32 (.cop2 0b10001010001101010011001101#26) ∧
    Codes 0b110010_10001010001101010011001101#32 (.lwc2 0b10001010001101010011001101#26) ∧
    Codes 0b111010_10001010001101010011001101#32 (.swc2 0b10001010001101010011001101#26) ∧
    Codes 0b110110_10001010001101010011001101#32 (.ldc2 0b10001010001101010011001101#26) ∧
    Codes 0b111110_10001010001101010011001101#32 (.sdc2 0b10001010001101010011001101#26) := by repeat' constructor

/-! ## One step -/

/-- The reset machine with a Status value and some general registers. -/
def base (status : Word) (regs : List (RegNum × DWord)) : State :=
  regs.foldl (fun s p => s.rset p.1 p.2)
    { State.reset with cp0 := { State.reset.cp0 with status := status } }

/-- What `f` reads after the step that runs the word `w` from `s`. -/
def after {α : Type} (s : State) (w : Nat) (f : State → α) : Option α :=
  match step (s.withFetchWord 32 w) with
  | .next t => some (f t)
  | _ => none

/-- Kernel mode, BEV, coprocessor 1 usable, FR = 1. -/
def kernel : Word := 0x24400000#32

/-- The word runs in Kernel mode and then `f` reads `v`, with the next word to run. -/
abbrev runs {α : Type} [DecidableEq α] (regs : List (RegNum × DWord)) (w : Nat) (f : State → α) (v : α) : Prop :=
  after (base kernel regs) w (fun t => (f t, t.pc)) = some (v, 0xFFFFFFFFBFC00004#64)

/-- The word takes the exception of this code: entry at the general BEV vector with EPC its address (R1046). -/
abbrev raises (regs : List (RegNum × DWord)) (w : Nat) (code : BitVec 5) : Prop :=
  after (base kernel regs) w (fun t => (t.cp0.excCode, t.cp0.epc, t.pc, t.rget 3#5)) =
    some (code, resetVector, 0xFFFFFFFFBFC00380#64, 0#64)

/-- spec/95 §2.1: ADDU, SUBU, ADDIU, DADD, DADDU, DSUBU, DADDIU, AND, OR, XOR. -/
theorem test_alu1 :
    runs [(1#5, 0x000000007FFFFFFF#64), (2#5, 0x0000000000000001#64)] 0x00221821 (·.rget 3#5) 0xFFFFFFFF80000000#64 ∧
    runs [(1#5, 0x0000000123456789#64), (2#5, 0x0000000000000001#64)] 0x00221821 (·.rget 3#5) 0x000000002345678A#64 ∧
    runs [(1#5, 0x0000000000000000#64), (2#5, 0x0000000000000001#64)] 0x00221823 (·.rget 3#5) 0xFFFFFFFFFFFFFFFF#64 ∧
    runs [(1#5, 0xFFFFFFFF80000000#64)] 0x2423FFFF (·.rget 3#5) 0x000000007FFFFFFF#64 ∧
    runs [] 0x24038000 (·.rget 3#5) 0xFFFFFFFFFFFF8000#64 ∧
    runs [(1#5, 0x000000007FFFFFFF#64), (2#5, 0x0000000000000001#64)] 0x0022182C (·.rget 3#5) 0x0000000080000000#64 ∧
    runs [(1#5, 0x7FFFFFFFFFFFFFFF#64), (2#5, 0x0000000000000001#64)] 0x0022182D (·.rget 3#5) 0x8000000000000000#64 ∧
    runs [(1#5, 0x0000000000000000#64), (2#5, 0x0000000000000001#64)] 0x0022182F (·.rget 3#5) 0xFFFFFFFFFFFFFFFF#64 ∧
    runs [(1#5, 0x0000000000000000#64)] 0x6423FFFF (·.rget 3#5) 0xFFFFFFFFFFFFFFFF#64 ∧
    runs [(1#5, 0xFFFF0000FFFF0000#64), (2#5, 0x0F0F0F0F0F0F0F0F#64)] 0x00221824 (·.rget 3#5) 0x0F0F00000F0F0000#64 ∧
    runs [(1#5, 0xFFFF0000FFFF0000#64), (2#5, 0x0F0F0F0F0F0F0F0F#64)] 0x00221825 (·.rget 3#5) 0xFFFF0F0FFFFF0F0F#64 ∧
    runs [(1#5, 0xFFFF0000FFFF0000#64), (2#5, 0x0F0F0F0F0F0F0F0F#64)] 0x00221826 (·.rget 3#5) 0xF0F00F0FF0F00F0F#64 := by and_intros <;> decide

/-- spec/95 §2.1: NOR, ANDI, ORI, XORI, LUI, SLT, SLTU, SLTI, SLTIU. -/
theorem test_alu2 :
    runs [(1#5, 0xFFFF0000FFFF0000#64), (2#5, 0x0F0F0F0F0F0F0F0F#64)] 0x00221827 (·.rget 3#5) 0x0000F0F00000F0F0#64 ∧
    runs [] 0x00001827 (·.rget 3#5) 0xFFFFFFFFFFFFFFFF#64 ∧
    runs [(1#5, 0xFFFFFFFFFFFFFFFF#64)] 0x30238001 (·.rget 3#5) 0x0000000000008001#64 ∧
    runs [(1#5, 0x0000000000000000#64)] 0x34238001 (·.rget 3#5) 0x0000000000008001#64 ∧
    runs [(1#5, 0xFFFFFFFFFFFFFFFF#64)] 0x3823FFFF (·.rget 3#5) 0xFFFFFFFFFFFF0000#64 ∧
    runs [] 0x3C038000 (·.rget 3#5) 0xFFFFFFFF80000000#64 ∧
    runs [] 0x3C037FFF (·.rget 3#5) 0x000000007FFF0000#64 ∧
    runs [(1#5, 0xFFFFFFFFFFFFFFFF#64), (2#5, 0x0000000000000001#64)] 0x0022182A (·.rget 3#5) 0x0000000000000001#64 ∧
    runs [(1#5, 0xFFFFFFFFFFFFFFFF#64), (2#5, 0x0000000000000001#64)] 0x0022182B (·.rget 3#5) 0x0000000000000000#64 ∧
    runs [(1#5, 0x0000000080000000#64), (2#5, 0x0000000000000000#64)] 0x0022182A (·.rget 3#5) 0x0000000000000000#64 ∧
    runs [(1#5, 0xFFFFFFFFFFFFFFFE#64)] 0x2823FFFF (·.rget 3#5) 0x0000000000000001#64 ∧
    runs [(1#5, 0x0000000000000005#64)] 0x2C23FFFF (·.rget 3#5) 0x0000000000000001#64 := by and_intros <;> decide

/-- spec/95 §2.1: SLTIU, SLL, SRL, SRA, SLLV, SRLV, SRAV, DSLL, DSRL. -/
theorem test_alu3 :
    runs [(1#5, 0xFFFFFFFFFFFFFFFF#64)] 0x2C23FFFF (·.rget 3#5) 0x0000000000000000#64 ∧
    runs [(1#5, 0x1234567880000000#64)] 0x00011800 (·.rget 3#5) 0xFFFFFFFF80000000#64 ∧
    runs [(1#5, 0x0000000000000001#64)] 0x00011FC0 (·.rget 3#5) 0xFFFFFFFF80000000#64 ∧
    runs [(1#5, 0xFFFFFFFF80000000#64)] 0x00011802 (·.rget 3#5) 0xFFFFFFFF80000000#64 ∧
    runs [(1#5, 0xFFFFFFFF80000000#64)] 0x00011842 (·.rget 3#5) 0x0000000040000000#64 ∧
    runs [(1#5, 0xFFFFFFFF80000000#64)] 0x00011843 (·.rget 3#5) 0xFFFFFFFFC0000000#64 ∧
    runs [(1#5, 0xFFFFFFFF80000000#64)] 0x00011FC3 (·.rget 3#5) 0xFFFFFFFFFFFFFFFF#64 ∧
    runs [(1#5, 0x0000000000000001#64), (2#5, 0x0000000000000021#64)] 0x00411804 (·.rget 3#5) 0x0000000000000002#64 ∧
    runs [(1#5, 0xFFFFFFFF80000000#64), (2#5, 0x0000000000000024#64)] 0x00411806 (·.rget 3#5) 0x0000000008000000#64 ∧
    runs [(1#5, 0xFFFFFFFF80000000#64), (2#5, 0xFFFFFFFFFFFFFFE4#64)] 0x00411807 (·.rget 3#5) 0xFFFFFFFFF8000000#64 ∧
    runs [(1#5, 0x0000000000000003#64)] 0x00011FF8 (·.rget 3#5) 0x0000000180000000#64 ∧
    runs [(1#5, 0xFFFFFFFF80000000#64)] 0x0001187A (·.rget 3#5) 0x7FFFFFFFC0000000#64 := by and_intros <;> decide

/-- spec/95 §2.1: DSRA, DSLL32, DSRL32, DSRA32, DSLLV, DSRLV, DSRAV, MOVN, MOVZ. -/
theorem test_alu4 :
    runs [(1#5, 0xFFFFFFFF80000000#64)] 0x0001187B (·.rget 3#5) 0xFFFFFFFFC0000000#64 ∧
    runs [(1#5, 0xFFFFFFFF80000001#64)] 0x0001183C (·.rget 3#5) 0x8000000100000000#64 ∧
    runs [(1#5, 0x0000000000000001#64)] 0x00011FFC (·.rget 3#5) 0x8000000000000000#64 ∧
    runs [(1#5, 0x8000000012345678#64)] 0x0001183E (·.rget 3#5) 0x0000000080000000#64 ∧
    runs [(1#5, 0x8000000012345678#64)] 0x0001183F (·.rget 3#5) 0xFFFFFFFF80000000#64 ∧
    runs [(1#5, 0x8000000000000000#64)] 0x00011FFF (·.rget 3#5) 0xFFFFFFFFFFFFFFFF#64 ∧
    runs [(1#5, 0x0000000000000001#64), (2#5, 0x000000000000007F#64)] 0x00411814 (·.rget 3#5) 0x8000000000000000#64 ∧
    runs [(1#5, 0x8000000000000000#64), (2#5, 0x0000000000000040#64)] 0x00411816 (·.rget 3#5) 0x8000000000000000#64 ∧
    runs [(1#5, 0x8000000000000000#64), (2#5, 0x000000000000003C#64)] 0x00411817 (·.rget 3#5) 0xFFFFFFFFFFFFFFF8#64 ∧
    runs [(1#5, 0x000000000000AAAA#64), (2#5, 0x0000000000000000#64), (3#5, 0x0000000000005555#64)] 0x0022180B (·.rget 3#5) 0x0000000000005555#64 ∧
    runs [(1#5, 0x000000000000AAAA#64), (2#5, 0x0000000100000000#64), (3#5, 0x0000000000005555#64)] 0x0022180B (·.rget 3#5) 0x000000000000AAAA#64 ∧
    runs [(1#5, 0x000000000000AAAA#64), (2#5, 0x0000000000000000#64), (3#5, 0x0000000000005555#64)] 0x0022180A (·.rget 3#5) 0x000000000000AAAA#64 := by and_intros <;> decide

/-- spec/95 §2.1: MOVZ. -/
theorem test_alu5 :
    runs [(1#5, 0x000000000000AAAA#64), (2#5, 0x0000000000000001#64), (3#5, 0x0000000000005555#64)] 0x0022180A (·.rget 3#5) 0x0000000000005555#64 := by decide

/-- spec/95 §2.1: Integer Overflow. -/
theorem test_overflow :
    raises [(1#5, 0x000000007FFFFFFF#64), (2#5, 0x0000000000000001#64)] 0x00221820 12#5 ∧
    raises [(1#5, 0xFFFFFFFF80000000#64), (2#5, 0xFFFFFFFFFFFFFFFF#64)] 0x00221820 12#5 ∧
    raises [(1#5, 0xFFFFFFFF80000000#64), (2#5, 0x0000000000000001#64)] 0x00221822 12#5 ∧
    raises [(1#5, 0x0000000000000000#64), (2#5, 0xFFFFFFFF80000000#64)] 0x00221822 12#5 ∧
    raises [(1#5, 0xFFFFFFFF80000000#64)] 0x2023FFFF 12#5 ∧
    raises [(1#5, 0x000000007FFF8001#64)] 0x20237FFF 12#5 ∧
    raises [(1#5, 0x7FFFFFFFFFFFFFFF#64), (2#5, 0x0000000000000001#64)] 0x0022182C 12#5 ∧
    raises [(1#5, 0x8000000000000000#64), (2#5, 0x0000000000000001#64)] 0x0022182E 12#5 ∧
    raises [(1#5, 0x7FFFFFFFFFFFFFFF#64)] 0x60230001 12#5 := by and_intros <;> decide

/-- spec/95 §2.2: MULT, MULTU, DIV, DIVU, DMULT, DMULTU, DDIV, DDIVU. -/
theorem test_mulDiv :
    runs [(1#5, 0x0000000000000007#64), (2#5, 0xFFFFFFFFFFFFFFFD#64)] 0x00220018 (fun t => (t.hi, t.lo)) (0xFFFFFFFFFFFFFFFF#64, 0xFFFFFFFFFFFFFFEB#64) ∧
    runs [(1#5, 0xFFFFFFFF80000000#64), (2#5, 0xFFFFFFFF80000000#64)] 0x00220018 (fun t => (t.hi, t.lo)) (0x0000000040000000#64, 0x0000000000000000#64) ∧
    runs [(1#5, 0xFFFFFFFFFFFFFFFF#64), (2#5, 0xFFFFFFFFFFFFFFFF#64)] 0x00220019 (fun t => (t.hi, t.lo)) (0xFFFFFFFFFFFFFFFE#64, 0x0000000000000001#64) ∧
    runs [(1#5, 0xFFFFFFFF80000000#64), (2#5, 0x0000000000000002#64)] 0x00220019 (fun t => (t.hi, t.lo)) (0x0000000000000001#64, 0x0000000000000000#64) ∧
    runs [(1#5, 0x0000000000000007#64), (2#5, 0x0000000000000002#64)] 0x0022001A (fun t => (t.hi, t.lo)) (0x0000000000000001#64, 0x0000000000000003#64) ∧
    runs [(1#5, 0xFFFFFFFFFFFFFFF9#64), (2#5, 0x0000000000000002#64)] 0x0022001A (fun t => (t.hi, t.lo)) (0xFFFFFFFFFFFFFFFF#64, 0xFFFFFFFFFFFFFFFD#64) ∧
    runs [(1#5, 0xFFFFFFFFFFFFFFFF#64), (2#5, 0x0000000000000002#64)] 0x0022001B (fun t => (t.hi, t.lo)) (0x0000000000000001#64, 0x000000007FFFFFFF#64) ∧
    runs [(1#5, 0xFFFFFFFFFFFFFFF9#64), (2#5, 0xFFFFFFFFFFFFFFFE#64)] 0x0022001B (fun t => (t.hi, t.lo)) (0xFFFFFFFFFFFFFFF9#64, 0x0000000000000000#64) ∧
    runs [(1#5, 0xFFFFFFFFFFFFFFFF#64), (2#5, 0xFFFFFFFFFFFFFFFF#64)] 0x0022001C (fun t => (t.hi, t.lo)) (0x0000000000000000#64, 0x0000000000000001#64) ∧
    runs [(1#5, 0x7FFFFFFFFFFFFFFF#64), (2#5, 0x0000000000000002#64)] 0x0022001C (fun t => (t.hi, t.lo)) (0x0000000000000000#64, 0xFFFFFFFFFFFFFFFE#64) ∧
    runs [(1#5, 0xFFFFFFFFFFFFFFFF#64), (2#5, 0xFFFFFFFFFFFFFFFF#64)] 0x0022001D (fun t => (t.hi, t.lo)) (0xFFFFFFFFFFFFFFFE#64, 0x0000000000000001#64) ∧
    runs [(1#5, 0x0000000100000000#64), (2#5, 0x0000000100000000#64)] 0x0022001D (fun t => (t.hi, t.lo)) (0x0000000000000001#64, 0x0000000000000000#64) ∧
    runs [(1#5, 0xFFFFFFFFFFFFFFF9#64), (2#5, 0x0000000000000002#64)] 0x0022001E (fun t => (t.hi, t.lo)) (0xFFFFFFFFFFFFFFFF#64, 0xFFFFFFFFFFFFFFFD#64) ∧
    runs [(1#5, 0x8000000000000000#64), (2#5, 0xFFFFFFFFFFFFFFFF#64)] 0x0022001E (fun t => (t.hi, t.lo)) (0x0000000000000000#64, 0x8000000000000000#64) ∧
    runs [(1#5, 0xFFFFFFFFFFFFFFFF#64), (2#5, 0x0000000000000002#64)] 0x0022001F (fun t => (t.hi, t.lo)) (0x0000000000000001#64, 0x7FFFFFFFFFFFFFFF#64) ∧
    runs [(1#5, 0xFFFFFFFFFFFFFFFF#64), (2#5, 0xFFFFFFFFFFFFFFFF#64)] 0x0022001F (fun t => (t.hi, t.lo)) (0x0000000000000000#64, 0x0000000000000001#64) := by and_intros <;> decide

/-- spec/95 §2.1, §2.2: MOVF, MOVT, MFHI, MFLO, MTHI, MTLO. -/
theorem test_condition_hilo :
    runs [(1#5, 0xAAAA#64), (3#5, 0x5555#64)] 0x00281801 (·.rget 3#5) 0xAAAA#64 ∧
    runs [(1#5, 0xAAAA#64), (3#5, 0x5555#64)] 0x00211801 (·.rget 3#5) 0x5555#64 ∧
    after { base kernel [] with hi := 0x0123456789ABCDEF#64 } 0x00001810 (·.rget 3#5) = some 0x0123456789ABCDEF#64 ∧
    after { base kernel [] with lo := 0xFFFFFFFF00000001#64 } 0x00001812 (·.rget 3#5) = some 0xFFFFFFFF00000001#64 ∧
    runs [(1#5, 0x8000000000000001#64)] 0x00200011 (·.hi) 0x8000000000000001#64 ∧
    runs [(1#5, 0x00000000FFFFFFFF#64)] 0x00200013 (·.lo) 0x00000000FFFFFFFF#64 := by and_intros <;> decide

/-- A zero divisor raises nothing and the pc advances (spec/95 §2.2, U19). -/
theorem test_divide_zero : (∀ w ∈ [0x0022001A, 0x0022001B, 0x0022001E, 0x0022001F],
    after (base kernel [(1#5, 7#64)]) w (·.pc) = some 0xFFFFFFFFBFC00004#64) := by decide

/-! ### Loads and stores (spec/95 §2.3), uncached through kseg1 -/

/-- The sixteen bytes of spec/95 §2.3 at physical 0x2000, register 1 naming them, register 2 the store value. -/
def data (be : Bool) (r2 : DWord) : State :=
  let s := base kernel [(1#5, 0xFFFFFFFFA0002000#64), (2#5, r2)]
  { s with
    mem := Memory.writeList [] 0x2000 [0x80#8, 0x91#8, 0xA2#8, 0xB3#8, 0xC4#8, 0xD5#8, 0xE6#8, 0xF7#8, 0x08#8, 0x19#8,
      0x2A#8, 0x3B#8, 0x4C#8, 0x5D#8, 0x6E#8, 0x7F#8]
    hw := { s.hw with modeBits := if be then s.hw.modeBits ||| 0x8000#64 else s.hw.modeBits &&& ~~~0x8000#64 } }

/-- Register 2 after the load `w`, big-endian and little-endian. -/
abbrev loads (w : Nat) (b l : DWord) : Prop :=
  after (data true 0x5555555555555555#64) w (·.rget 2#5) = some b ∧
    after (data false 0x5555555555555555#64) w (·.rget 2#5) = some l

/-- The eight bytes at 0x2000 after the store `w`, as a number read from the lowest address up. -/
def bytesAt (s : State) : Nat :=
  (List.range 8).foldl (fun n i => n * 256 + (Memory.read s.mem (0x2000 + i)).toNat) 0

abbrev stores (w : Nat) (b l : Nat) : Prop :=
  after (data true 0x1122334455667788#64) w bytesAt = some b ∧ after (data false 0x1122334455667788#64) w bytesAt = some l

theorem test_loads :
    loads 0x80220007 0xFFFFFFFFFFFFFFF7#64 0xFFFFFFFFFFFFFFF7#64 ∧
    loads 0x90220000 0x0000000000000080#64 0x0000000000000080#64 ∧
    loads 0x84220002 0xFFFFFFFFFFFFA2B3#64 0xFFFFFFFFFFFFB3A2#64 ∧
    loads 0x94220000 0x0000000000008091#64 0x0000000000009180#64 ∧
    loads 0x8C220004 0xFFFFFFFFC4D5E6F7#64 0xFFFFFFFFF7E6D5C4#64 ∧
    loads 0x9C220000 0x000000008091A2B3#64 0x00000000B3A29180#64 ∧
    loads 0xDC220008 0x08192A3B4C5D6E7F#64 0x7F6E5D4C3B2A1908#64 ∧
    loads 0xC0220000 0xFFFFFFFF8091A2B3#64 0xFFFFFFFFB3A29180#64 ∧
    loads 0xD0220008 0x08192A3B4C5D6E7F#64 0x7F6E5D4C3B2A1908#64 := by and_intros <;> decide

theorem test_unaligned_loads :
    loads 0x88220001 0xFFFFFFFF91A2B355#64 0xFFFFFFFF91805555#64 ∧
    loads 0x88220003 0xFFFFFFFFB3555555#64 0xFFFFFFFFB3A29180#64 ∧
    loads 0x98220002 0x00000000558091A2#64 0x000000005555B3A2#64 ∧
    loads 0x98220003 0xFFFFFFFF8091A2B3#64 0x00000000555555B3#64 ∧
    loads 0x68220003 0xB3C4D5E6F7555555#64 0xB3A2918055555555#64 ∧
    loads 0x68220006 0xE6F7555555555555#64 0xE6D5C4B3A2918055#64 ∧
    loads 0x6C220001 0x5555555555558091#64 0x55F7E6D5C4B3A291#64 ∧
    loads 0x6C220006 0x558091A2B3C4D5E6#64 0x555555555555F7E6#64 := by and_intros <;> decide

theorem test_stores :
    stores 0xA0220005 0x8091A2B3C488E6F7 0x8091A2B3C488E6F7 ∧ stores 0xA4220006 0x8091A2B3C4D57788 0x8091A2B3C4D58877 ∧
    stores 0xAC220004 0x8091A2B355667788 0x8091A2B388776655 ∧ stores 0xFC220000 0x1122334455667788 0x8877665544332211 ∧
    stores 0xA8220001 0x80556677C4D5E6F7 0x6655A2B3C4D5E6F7 ∧ stores 0xB8220002 0x667788B3C4D5E6F7 0x80918877C4D5E6F7 ∧
    stores 0xB0220002 0x8091112233445566 0x332211B3C4D5E6F7 ∧ stores 0xB4220005 0x334455667788E6F7 0x8091A2B3C4887766 := by
  and_intros <;> decide

/-- The same load through kseg0 with K0 = 3: a miss that refills both caches. -/
theorem test_cached_load :
    after ((data true 0#64).rset 1#5 0xFFFFFFFF80002000#64) 0x8C220004 (fun t => (t.rget 2#5, t.dByte 0x100 false 4)) =
      some (0xFFFFFFFFC4D5E6F7#64, 0xC4#8) := by decide

/-- Address Error for misaligned references (spec/95 §2.3). -/
theorem test_misaligned :
    after (data true 0#64) 0x84220001 (fun t => (t.cp0.excCode, t.cp0.badVAddr)) = some (4#5, 0xFFFFFFFFA0002001#64) ∧
    after (data true 0#64) 0xFC220004 (fun t => (t.cp0.excCode, t.cp0.badVAddr, bytesAt t)) =
      some (5#5, 0xFFFFFFFFA0002004#64, 0x8091A2B3C4D5E6F7) := by and_intros <;> decide

/-- SC and SCD with and without the link, LL and LLD setting it (spec/95 §2.3). -/
theorem test_conditional :
    after { data true 0x1122334455667788#64 with llbit := true } 0xE0220000 (fun t => (t.rget 2#5, bytesAt t, t.llbit)) =
      some (1#64, 0x55667788C4D5E6F7, false) ∧
    after (data true 0x1122334455667788#64) 0xE0220000 (fun t => (t.rget 2#5, bytesAt t)) =
      some (0#64, 0x8091A2B3C4D5E6F7) ∧
    after { data true 8#64 with llbit := true } 0xF0220000 (fun t => (t.rget 2#5, bytesAt t, t.llbit)) =
      some (1#64, 8, false) ∧
    after (data true 0#64) 0xC0220000 (·.llbit) = some true := by and_intros <;> decide

/-- SYNC, PREF of an unmapped misaligned address, PREFX: nothing but the pc (spec/95 §2.3). -/
theorem test_sync_prefetch :
    runs [] 0x0000000F (fun t => (t.mem.length, t.llbit)) (1, false) ∧
    runs [(1#5, 3#64)] 0xCC200000 (·.rget 1#5) 3#64 ∧ runs [(1#5, 3#64)] 0x4C22000F (·.rget 1#5) 3#64 := by and_intros <;> decide

/-! ### Branches, jumps, traps (spec/95 §2.4, §2.5) -/

/-- The pc, the delay slot's successor and register 31 after a branch at 0xFFFFFFFFBFC00000. -/
abbrev branches (regs : List (RegNum × DWord)) (w : Nat) (pc : DWord) (slot : Option DWord) (link : DWord) : Prop :=
  after (base kernel regs) w (fun t => (t.pc, t.delaySlot, t.rget 31#5)) = some (pc, slot, link)

theorem test_branches :
    branches [(1#5, 5#64), (2#5, 5#64)] 0x1022FFFF 0xFFFFFFFFBFC00004#64 (some 0xFFFFFFFFBFC00000#64) 0#64 ∧
    branches [(1#5, 1#64)] 0x14207FFF 0xFFFFFFFFBFC00004#64 (some 0xFFFFFFFFBFC20000#64) 0#64 ∧
    branches [(1#5, 0#64)] 0x18200004 0xFFFFFFFFBFC00004#64 (some 0xFFFFFFFFBFC00014#64) 0#64 ∧
    branches [(1#5, 0x8000000000000000#64)] 0x1C20FFFF 0xFFFFFFFFBFC00004#64 none 0#64 ∧
    branches [(1#5, 0xFFFFFFFFFFFFFFFF#64)] 0x04200002 0xFFFFFFFFBFC00004#64 (some 0xFFFFFFFFBFC0000C#64) 0#64 ∧
    branches [(1#5, 0#64)] 0x04210002 0xFFFFFFFFBFC00004#64 (some 0xFFFFFFFFBFC0000C#64) 0#64 ∧
    branches [(1#5, 1#64)] 0x04300002 0xFFFFFFFFBFC00004#64 none 0xFFFFFFFFBFC00008#64 ∧
    branches [] 0x04110002 0xFFFFFFFFBFC00004#64 (some 0xFFFFFFFFBFC0000C#64) 0xFFFFFFFFBFC00008#64 := by and_intros <;> decide

theorem test_likely :
    branches [(1#5, 1#64)] 0x50220002 0xFFFFFFFFBFC00008#64 none 0#64 ∧
    branches [(1#5, 1#64)] 0x54220002 0xFFFFFFFFBFC00004#64 (some 0xFFFFFFFFBFC0000C#64) 0#64 ∧
    branches [(1#5, 5#64)] 0x58200002 0xFFFFFFFFBFC00008#64 none 0#64 ∧
    branches [(1#5, 5#64)] 0x5C200002 0xFFFFFFFFBFC00004#64 (some 0xFFFFFFFFBFC0000C#64) 0#64 ∧
    branches [(1#5, 5#64)] 0x04220002 0xFFFFFFFFBFC00008#64 none 0#64 ∧
    branches [(1#5, 5#64)] 0x04230002 0xFFFFFFFFBFC00004#64 (some 0xFFFFFFFFBFC0000C#64) 0#64 ∧
    branches [(1#5, 5#64)] 0x04320002 0xFFFFFFFFBFC00008#64 none 0xFFFFFFFFBFC00008#64 ∧
    branches [(1#5, 5#64)] 0x04330002 0xFFFFFFFFBFC00004#64 (some 0xFFFFFFFFBFC0000C#64) 0xFFFFFFFFBFC00008#64 := by
  and_intros <;> decide

theorem test_jumps :
    branches [] 0x08000410 0xFFFFFFFFBFC00004#64 (some 0xFFFFFFFFB0001040#64) 0#64 ∧
    branches [] 0x0C000410 0xFFFFFFFFBFC00004#64 (some 0xFFFFFFFFB0001040#64) 0xFFFFFFFFBFC00008#64 ∧
    branches [(2#5, 0xFFFFFFFF80002001#64)] 0x00400008 0xFFFFFFFFBFC00004#64 (some 0xFFFFFFFF80002001#64) 0#64 ∧
    branches [(31#5, 0xFFFFFFFF80004000#64)] 0x03E0F809 0xFFFFFFFFBFC00004#64 (some 0xFFFFFFFF80004000#64)
      0xFFFFFFFFBFC00008#64 := by and_intros <;> decide

/-- The branches on a condition bit, FCC[1] set (spec/95 §2.9). -/
theorem test_fp_branches :
    ∀ s, s = { base kernel [] with fpu := { State.reset.fpu with fcr31 := 0x02000000#32 } } →
    after s 0x45050002 (fun t => (t.pc, t.delaySlot)) = some (0xFFFFFFFFBFC00004#64, some 0xFFFFFFFFBFC0000C#64) ∧
    after s 0x45020001 (fun t => (t.pc, t.delaySlot)) = some (0xFFFFFFFFBFC00004#64, some 0xFFFFFFFFBFC00008#64) ∧
    after s 0x45060001 (fun t => (t.pc, t.delaySlot)) = some (0xFFFFFFFFBFC00008#64, none) ∧
    after s 0x45000001 (fun t => (t.pc, t.delaySlot)) = some (0xFFFFFFFFBFC00004#64, some 0xFFFFFFFFBFC00008#64) := by
  rintro s rfl; and_intros <;> decide

theorem test_traps :
    runs [(1#5, 0xFFFFFFFFFFFFFFFF#64), (2#5, 1#64)] 0x00220030 (·.note) .done ∧
    raises [(1#5, 0xFFFFFFFFFFFFFFFF#64), (2#5, 1#64)] 0x00220031 13#5 ∧
    raises [(1#5, 0xFFFFFFFFFFFFFFFF#64), (2#5, 1#64)] 0x00220032 13#5 ∧
    runs [(1#5, 0xFFFFFFFFFFFFFFFF#64), (2#5, 1#64)] 0x00220033 (·.note) .done ∧
    runs [(1#5, 0x0000000100000000#64)] 0x00220034 (·.note) .done ∧ raises [(1#5, 0x0000000100000000#64)] 0x00220036 13#5 ∧
    raises [(1#5, 0xFFFFFFFFFFFFFFFF#64)] 0x0428FFFF 13#5 ∧
    runs [(1#5, 0xFFFFFFFFFFFFFFFE#64)] 0x0429FFFF (·.note) .done ∧
    raises [(1#5, 0x8000000000000000#64)] 0x042A0005 13#5 ∧ raises [] 0x042BFFFF 13#5 ∧
    raises [(1#5, 16#64)] 0x042C0010 13#5 ∧ raises [(1#5, 0x00000000FFFFFFFF#64)] 0x042EFFFF 13#5 := by and_intros <;> decide

theorem test_always_trap :
    raises [] 0x0000004C 8#5 ∧ raises [] 0x0000000D 9#5 ∧ raises [] 0x70000000 10#5 ∧ raises [] 0x42000010 10#5 ∧
    raises [] 0x48000000 11#5 ∧ raises [] 0xC8000000 11#5 ∧ raises [] 0xE8000000 11#5 ∧ raises [] 0xD8000000 11#5 ∧
    raises [] 0xF8000000 11#5 ∧ after (base kernel []) 0x48000000 (·.cp0.causeCE) = some 2#2 := by and_intros <;> decide

/-! ### Coprocessor 0, TLB, CACHE, reset (spec/95 §2.6 to §2.11) -/

theorem test_cp0_moves :
    after (base 0x80000001#32 []) 0x40026000 (·.rget 2#5) = some 0xFFFFFFFF80000001#64 ∧
    runs [] 0x40027800 (·.rget 2#5) 0x900#64 ∧
    runs [(2#5, 0xFFFFFFFFFFFFFFFF#64)] 0x40826800 (fun t => (t.cp0.softIp, t.cp0.excCode, t.cp0.causeBD)) (3#2, 0#5, false) ∧
    runs [(2#5, 0xFFFFFFFFFFFFFFFF#64)] 0x40820000 (fun t => cp0Read t 0#5 0#4) 0x3F#64 ∧
    runs [(2#5, 0xFFFFFFFFFFFFFFFF#64)] 0x40822800 (fun t => cp0Read t 5#5 0#4) 0x01FFE000#64 ∧
    runs [(2#5, 8#64)] 0x40823000 (fun t => (t.cp0.wired, t.random)) (8#6, 63#6) ∧
    runs [(2#5, 0xFFFFFFFFFFFFFFFF#64)] 0x40A25000 (·.cp0.entryHi) 0xC0000FFFFFFFE0FF#64 ∧
    runs [(2#5, 0xFFFFFFFF8000001F#64)] 0x40821000 (·.cp0.entryLo0) 0xC00000038000001F#64 ∧
    runs [(2#5, 0xFFFFFFFFFFFFFFFF#64)] 0x40A22000 (·.cp0.context) 0xFFFFFFFFFF800000#64 := by and_intros <;> decide

/-- CP0 in User mode: Coprocessor Unusable, then Reserved Instruction without MIPS III (spec/95 §2.6). -/
theorem test_cp0_gate :
    exec (.dmfc0 2#5 14#5 0#4) (base 0x00000010#32 []) =
      .next (takeException (.copUnusable 0#2) (base 0x00000010#32 [])) ∧
    exec (.dmfc0 2#5 14#5 0#4) (base 0x10000010#32 []) = .next (takeException .reservedInstr (base 0x10000010#32 [])) :=
  ⟨rfl, rfl⟩

theorem test_eret :
    ∀ s, s = base 0x00000006#32 [] → ∀ t, t = { s with
      llbit := true, cp0 := { s.cp0 with errorEpc := 0xFFFFFFFF80003000#64, epc := 0xFFFFFFFF80004000#64 } } →
    after t 0x42000018 (fun t => (t.pc, t.cp0.status, t.llbit)) = some (0xFFFFFFFF80003000#64, 2#32, false) := by
  rintro s rfl t rfl; decide

/-- TLBWI, TLBR and TLBP on one entry, written at Index 5. -/
theorem test_tlb :
    ∀ s, s = { base kernel [] with
      cp0 := { (base kernel []).cp0 with
        index := 5#6
        entryHi := 0x0000000000402013#64
        entryLo0 := 0x0000000000001006#64
        entryLo1 := 0x0000000000001046#64 } } →
    after s 0x42000002 (fun t => (t.tlbAt 5).vpn2) = some 0x201#31 ∧
    after s 0x42000008 (·.cp0.probeFail) = some true ∧
    after { s with cp0 := { s.cp0 with entryHi := 0#64 }, tlb := s.tlb.set 5 { TlbEntry.empty with vpn2 := 0x201#31, asid := 0x13#8 } }
      0x42000001 (·.cp0.entryHi) = some 0x0000000000402013#64 := by
  rintro s rfl; and_intros <;> decide

/-- Index Store Tag and Index Load Tag of the data cache, Cache Barrier (spec/95 §2.10). -/
theorem test_cache_ops :
    after { base kernel [(1#5, 0x40#64)] with cp0 := { (base kernel []).cp0 with tagLo := 0x00012340#32 } } 0xBC290000
      (fun t => (dtagLo defaultTagLayout (t.dtag 2 false) (t.dlru 2), t.pc)) = some (0x00012340#32, 0xFFFFFFFFBFC00004#64) ∧
    after { base kernel [] with llbit := true } 0xBC140000 (fun t => (t.llbit, t.caches)) = some (false, Caches.empty) := by
  and_intros <;> decide

/-- The boundary scan order has one position for each of the 333 cells (R1004). -/
theorem test_scan_order : scanOrder.length = 333 ∧ scanOrder.Nodup := by decide +kernel

/-- The reset and NMI values of spec/70 R1175. -/
theorem test_reset_nmi :
    (State.reset.configReg, State.reset.pc) = (0x6C118E2B#32, 0xFFFFFFFFBFC00000#64) ∧
    (takeNmi (base 0x0000FF01#32 [])).cp0.status = 0x0058FF05#32 := by and_intros <;> decide

/-- A TLB Refill of a load in Kernel mode (spec/95 §2.7 row 6). -/
theorem test_refill :
    after (base 0x00400000#32 [(1#5, 0x1000#64)]) 0x8C220000
      (fun t => (t.cp0.excCode, t.cp0.badVAddr, t.cp0.status, t.pc)) =
      some (2#5, 0x1000#64, 0x00400002#32, 0xFFFFFFFFBFC00200#64) := by decide

/-- Interrupts, and a refused branch in a delay slot. -/
theorem test_interrupt :
    (match step { base 0x00000401#32 [] with cp0 := { (base 0x00000401#32 []).cp0 with interrupt := 1#5 } } with
      | .next t => (t.cp0.excCode, t.cp0.epc, t.cp0.status, t.pc)
      | _ => (1#5, 0#64, 0#32, 0#64)) = (0#5, resetVector, 0x403#32, 0xFFFFFFFF80000180#64) ∧
    (match exec (.j 0#26) { base kernel [] with delaySlot := some 0#64 } with
      | .refused r => decide (r = .branchInDelaySlot)
      | _ => false) = true := by and_intros <;> decide

/-! ### Floating point (spec/95 §2.9) -/

/-- FPR 0, FCR31 and the exception code after `w`, from FPR 2, 4, 6 and FCR31. -/
def fp (f2 f4 f6 : DWord) (fcr31 : Word) (w : Nat) : Option (DWord × Word × BitVec 5) :=
  after { base kernel [] with fpu := { fpr := (((Vector.replicate 32 0#64).set 2 f2).set 4 f4).set 6 f6, fcr31 := fcr31 } } w
    (fun t => (t.fraw 0#5, t.fpu.fcr31, t.cp0.excCode))

theorem test_fp_arith :
    fp 0x3FC00000#64 0x40000000#64 0#64 0#32 0x46041002 = some (0x40400000#64, 0#32, 0#5) ∧
    fp 0x7F7FFFFF#64 0x40000000#64 0#64 0#32 0x46041002 = some (0x7F800000#64, 0x5014#32, 0#5) ∧
    fp 0x7F7FFFFF#64 0x40000000#64 0#64 0x200#32 0x46041002 = some (0#64, 0x5200#32, 15#5) ∧
    fp 0x00800000#64 0x3F000000#64 0#64 0#32 0x46041002 = some (0#64, 0x20000#32, 15#5) ∧
    fp 0x7F800000#64 0xFF800000#64 0#64 0#32 0x46041000 = some (0x7FBFFFFF#64, 0x10040#32, 0#5) ∧
    fp 0x7FBFFFFF#64 0x3F800000#64 0#64 0#32 0x46041000 = some (0#64, 0x20000#32, 15#5) ∧
    fp 0x4010000000000000#64 0#64 0#64 0#32 0x46201004 = some (0x4000000000000000#64, 0#32, 0#5) ∧
    fp 0xBFF0000000000000#64 0#64 0#64 0#32 0x46201004 = some (0x7FF7FFFFFFFFFFFF#64, 0x10040#32, 0#5) ∧
    fp 0#64 0#64 0#64 0#32 0x46001007 = some (0x80000000#64, 0#32, 0#5) ∧
    fp 0xC004000000000000#64 0#64 0#64 0#32 0x46201005 = some (0x4004000000000000#64, 0#32, 0#5) ∧
    fp 0x3E800000#64 0x3FC00000#64 0x40000000#64 0#32 0x4C462038 = some (0xC0300000#64, 0#32, 0#5) := by and_intros <;> decide +kernel

theorem test_fp_convert :
    fp 0x3FF0000000000001#64 0#64 0#64 2#32 0x46201020 = some (0x3F800001#64, 0x1006#32, 0#5) ∧
    fp 0x3FC00000#64 0#64 0#64 0#32 0x46001021 = some (0x3FF8000000000000#64, 0#32, 0#5) ∧
    fp 0x01000001#64 0#64 0#64 0#32 0x46801020 = some (0x4B800000#64, 0x1004#32, 0#5) ∧
    fp 3#64 0#64 0#64 0#32 0x46A01021 = some (0x4008000000000000#64, 0#32, 0#5) ∧
    fp 0xC004000000000000#64 0#64 0#64 0#32 0x46201025 = some (0xFFFFFFFFFFFFFFFE#64, 0x1004#32, 0#5) ∧
    fp 0x40200000#64 0#64 0#64 3#32 0x4600100C = some (2#64, 0x1007#32, 0#5) ∧
    fp 0xC004000000000000#64 0#64 0#64 0#32 0x4620100E = some (0xFFFFFFFE#64, 0x1004#32, 0#5) ∧
    fp 0xC004000000000000#64 0#64 0#64 0#32 0x4620100F = some (0xFFFFFFFD#64, 0x1004#32, 0#5) ∧
    fp 0x7F800000#64 0#64 0#64 0#32 0x46001024 = some (0#64, 0x20000#32, 15#5) := by and_intros <;> decide

theorem test_fp_compare :
    fp 0#64 0x8000000000000000#64 0#64 0#32 0x46241032 = some (0#64, 0x00800000#32, 0#5) ∧
    fp 0x3FE0000000000000#64 0x4000000000000000#64 0#64 0#32 0x46241737 = some (0#64, 0x80000000#32, 0#5) ∧
    fp 0x7FBFFFFF#64 0x3F800000#64 0#64 0#32 0x46041031 = some (0#64, 0x00800000#32, 0#5) ∧
    fp 0x7FBFFFFF#64 0x3F800000#64 0#64 0x00800800#32 0x4604103C = some (0#64, 0x00810800#32, 15#5) := by and_intros <;> decide

theorem test_fp_moves :
    runs [(2#5, 0x12345678AABBCCDD#64)] 0x44820800 (·.fraw 1#5) 0xAABBCCDD#64 ∧
    runs [(3#5, 0x0123456789ABCDEF#64)] 0x44A31000 (·.fraw 2#5) 0x0123456789ABCDEF#64 ∧
    runs [(2#5, 0x7C0003#64)] 0x44C2F800 (·.fpu.fcr31) 3#32 ∧
    after (base 0x20400000#32 [(2#5, 0xAABBCCDD#64)]) 0x44820800 (·.fraw 0#5) = some 0xAABBCCDD00000000#64 ∧
    runs [] 0x44420000 (·.rget 2#5) 0x900#64 ∧ after (base 0x00400000#32 []) 0x44420000 (·.cp0.causeCE) = some 1#2 ∧
    fp 0x1111222233334444#64 0#64 0#64 0x00800000#32 0x46211011 = some (0x1111222233334444#64, 0x00800000#32, 0#5) ∧
    after ((base 0x20400000#32 []).setFraw 2#5 0x3F800000#64) 0x46041011 (·.fraw 0#5) = some 0x3F800000#64 := by and_intros <;> decide

theorem test_fp_memory :
    after (data true 0#64) 0xC4210000 (·.fraw 1#5) = some 0x8091A2B3#64 ∧
    after (data false 0#64) 0xD4220008 (·.fraw 2#5) = some 0x7F6E5D4C3B2A1908#64 ∧
    after (data true 8#64) 0x4C220000 (·.fraw 0#5) = some 0x08192A3B#64 ∧
    after ((data true 0#64).setFraw 1#5 0xDEADBEEF01020304#64) 0xE4210004 bytesAt = some 0x8091A2B301020304 ∧
    after ((data false 0#64).setFraw 2#5 0x1122334455667788#64) 0xF4220000 bytesAt = some 0x8877665544332211 := by and_intros <;> decide


/-! ## Witnesses: states and operands that meet the hypotheses of the statements

One theorem per statement that has hypotheses, named for it; a clause of its own for each clause of the statement. -/

/-- User mode without MIPS III, MIPS IV, coprocessor 0 or coprocessor 1. -/
def user (regs : List (RegNum × DWord)) : State := base 0x00000010#32 regs

/-- Register 1 names an address that goes uncached to memory: ERL = 1 in Kernel mode. -/
def flat (va : DWord) : State := base 0x24400004#32 [(1#5, va)]

/-- The translation of such an address. -/
def flatX (va : DWord) : Xlate := { va := va, pa := va.setWidth 40, ca := 2#3, uc := 0#2 }

theorem flat_live (va : DWord) : watchLive (flat va) = false := by
  unfold watchLive State.statusBit
  rw [show (flat va).cp0 = (flat 0#64).cp0 from rfl]; decide

theorem flat_ram (va : DWord) (pa : PAddr) (n : Nat) (k : AccessKind)
    (h : translate (flat va) va k = .ok (flatX va) (flat va)) : UncachedRam (flat va) va pa n k (flatX va) :=
  ⟨⟨h, .inl rfl, fun _ => flat_live va, rfl, ⟨rfl, rfl, rfl, rfl, rfl, rfl, rfl, rfl⟩, fun _ _ _ => rfl⟩, rfl⟩

/-- The same machine with a Watch on the doubleword of `pa`, and with a response to come. -/
def flatWatched (va : DWord) : State :=
  { flat va with cp0 := { (flat va).cp0 with watchLo := va.setWidth 32 &&& 0xFFFFFFF8#32 ||| 3#32 } }
def flatReply (va : DWord) (r : Reply) : State := { flat va with ext := { (flat va).ext with replies := [r] } }

/-- A machine that watches physical address 0x2000, register 1 naming `va`, and the translation of kseg1. -/
def watching (va : DWord) : State :=
  { base kernel [(1#5, va)] with cp0 := { (base kernel []).cp0 with watchLo := 0x2003#32 } }
def kseg1X : Xlate := { va := 0xFFFFFFFFA0002000#64, pa := 0x2000#40, ca := 2#3, uc := 3#2 }

/-- A line of the data cache at kseg0 address 0xFFFFFFFF80002000, its block in way 0 of the secondary cache in the state
`st`; the block in way 0 alone; and neither. -/
def lineOf (st : BitVec 2) (mod : BitVec 3) (s : State) : State :=
  (s.setDtag 256 false (DTag.of 0x2#28 st mod false)).setStag (sSet s.hw 0x2000#40) false
    (STag.of (stagOf 0x2000#40) (vindexOf 0xFFFFFFFF80002000#64) st)
def cachedState : State := lineOf 3#2 0#3 (base kernel [(1#5, 0xFFFFFFFF80002000#64)])
def uncachedState : State := base kernel [(1#5, 0xFFFFFFFF80002000#64)]

def cachedX : Xlate := { va := 0xFFFFFFFF80002000#64, pa := 0x2000#40, ca := 3#3, uc := 3#2 }

theorem properTag_of_decide {t : STag} (h : decide (t = STag.of t.tag t.vindex t.st) = true) : properTag t := by
  unfold properTag; exact of_decide_eq_true h

theorem cached_hit (st : BitVec 2) (mod : BitVec 3) (k : AccessKind) (h : st ≠ 0#2) (hm : mod = 0#3 ∨ mod = 1#3)
    (ht : translate (lineOf st mod uncachedState) 0xFFFFFFFF80002000#64 k =
      .ok cachedX (lineOf st mod uncachedState)) :
    DataHit (lineOf st mod uncachedState) 0xFFFFFFFF80002000#64 0x2000#40 k cachedX false := by
  refine ⟨ht, by decide, fun e => absurd e ?_, ?_, ?_, ?_⟩ <;> clear ht
  · have : watchMatch (lineOf st mod uncachedState) 0x2000#40 k = watchMatch uncachedState 0x2000#40 k := rfl
    rw [this]; cases k <;> decide
  all_goals revert st mod; decide

theorem cached_block : BlockMiss uncachedState 0x2000#40 :=
  ⟨fun w => ⟨properTag_of_decide (by revert w; decide), by revert w; decide⟩, ⟨rfl, rfl, rfl, rfl, rfl, rfl, rfl, rfl⟩, rfl, rfl,
    fun _ _ _ => rfl⟩

theorem cached_miss (k : AccessKind) (h : translate uncachedState 0xFFFFFFFF80002000#64 k = .ok cachedX uncachedState) :
    DataMiss uncachedState 0xFFFFFFFF80002000#64 0x2000#40 k cachedX :=
  ⟨cached_block, h, by decide, by clear h; cases k <;> decide, by decide, by decide, by decide⟩

/-- A load of `n` bytes of each kind that loadSource lists. -/
theorem load_sources (n : Nat) (hn : n < 9) (cause : BitVec 2) (link : Bool) :
    (∀ va pa, translate (flat va) va .load = .ok (flatX va) (flat va) →
      ∃ b, loadSource (flat va) va pa n (flatX va) cause link b (afterUncachedRead pa n 0#2 cause link)) ∧
    (∃ b, loadSource cachedState 0xFFFFFFFF80002000#64 0x2000#40 n cachedX cause link b
      (afterReadHit cachedX.va 0x2000#40 false link)) ∧
    ∃ b, loadSource uncachedState 0xFFFFFFFF80002000#64 0x2000#40 n cachedX cause link b
      (afterReadMiss cachedX.va 0x2000#40 3#3 cause link) := by
  refine ⟨fun va pa h => ⟨_, .inl ⟨flat_ram _ _ _ _ h, fun _ => rfl, rfl⟩⟩,
    ⟨_, .inr (.inl ⟨false, cached_hit _ _ _ (by decide) (by decide) rfl, ?_, fun _ => rfl, rfl⟩)⟩,
    ⟨_, .inr (.inr ⟨by decide, cached_miss _ rfl, fun _ => rfl, rfl⟩)⟩⟩
  revert n; decide

/-- The secondary block of a line. -/
theorem line_block (st : BitVec 2) (h : st ≠ 0#2) :
    InSecondary (lineOf st 0#3 uncachedState) cachedX.va 0x2000#40 false st :=
  ⟨by revert st; decide, properTag_of_decide (by revert st; decide), by revert st; decide⟩

/-- A store of each kind that storeTarget lists. -/
theorem store_targets (n : Nat) (cause : BitVec 2) (b : Nat → Byte) :
    (∀ va pa, translate (flat va) va .store = .ok (flatX va) (flat va) →
      storeTarget (flat va) va pa n (flatX va) cause b (afterUncachedWrite false pa n b 0#2 1#2)) ∧
    storeTarget (lineOf 3#2 0#3 uncachedState) 0xFFFFFFFF80002000#64 0x2000#40 n cachedX cause b
      (afterWriteHit cachedX.va 0x2000#40 false n b) ∧
    (∀ s, s = lineOf 1#2 0#3 uncachedState → storeTarget s 0xFFFFFFFF80002000#64 0x2000#40 n cachedX cause b
      (afterWriteOwned cachedX.va 0x2000#40 false false n b
        { s.ext with bus := .upgrade 0#3 0x2000#40 cause 1#2 false :: s.ext.bus })) ∧
    (∀ s, s = lineOf 2#2 0#3 uncachedState → storeTarget s 0xFFFFFFFF80002000#64 0x2000#40 n cachedX cause b
      (afterWriteOwned cachedX.va 0x2000#40 false false n b s.ext)) ∧
    storeTarget uncachedState 0xFFFFFFFF80002000#64 0x2000#40 n cachedX cause b
      (afterWriteMiss cachedX.va 0x2000#40 3#3 cause n b) := by
  have hit := fun st (h : st ≠ 0#2) ht => cached_hit st 0#3 .store h (.inl rfl) ht
  refine ⟨fun va pa h => .inl ⟨rfl, flat_ram _ _ _ _ h, rfl⟩, .inr ⟨by decide, .inl ⟨false, hit _ (by decide) rfl, by decide, rfl⟩⟩,
    ?_, ?_, .inr ⟨by decide, .inr (.inr ⟨cached_miss _ rfl, rfl⟩)⟩⟩
  · rintro s rfl
    exact .inr ⟨by decide, .inr (.inl ⟨false, false, hit _ (by decide) rfl, by decide, ⟨rfl, rfl, rfl, rfl, rfl, rfl, rfl, rfl⟩,
      .inl ⟨line_block _ (by decide), rfl, rfl⟩⟩)⟩
  · rintro s rfl
    exact .inr ⟨by decide, .inr (.inl ⟨false, false, hit _ (by decide) rfl, by decide, ⟨rfl, rfl, rfl, rfl, rfl, rfl, rfl, rfl⟩,
      .inr ⟨line_block _ (by decide), rfl⟩⟩)⟩

theorem witness_AddSubWord :
    (¬ fits 32 ((base kernel [(1#5, 0x7FFFFFFF#64), (2#5, 1#64)]).word 1#5).toInt.succ) ∧
    fits 32 (((base kernel [(1#5, 0x7FFFFFFE#64)]).word 1#5).toInt + 1) ∧
    (¬ fits 32 (((base kernel [(1#5, 0x80000000#64)]).word 1#5).toInt - 1)) ∧
    fits 32 (((base kernel [(1#5, 0x80000001#64)]).word 1#5).toInt - 1) ∧
    (¬ fits 32 (((base kernel [(1#5, 0x80000000#64)]).word 1#5).toInt + (0xFFFF#16).toInt)) ∧
    fits 32 (((base kernel [(1#5, 0x80000001#64)]).word 1#5).toInt + (0xFFFF#16).toInt) := by
  unfold fits; decide

theorem witness_AddSubDouble :
    (user []).mips3 = false ∧ (base kernel []).mips3 = true ∧
    (¬ fits 64 (((base kernel [(1#5, 0x7FFFFFFFFFFFFFFF#64)]).rget 1#5).toInt + 1)) ∧
    fits 64 (((base kernel [(1#5, 0x7FFFFFFFFFFFFFFE#64)]).rget 1#5).toInt + 1) ∧
    (¬ fits 64 (((base kernel [(1#5, 0x8000000000000000#64)]).rget 1#5).toInt - 1)) ∧
    fits 64 (((base kernel [(1#5, 0x8000000000000001#64)]).rget 1#5).toInt - 1) ∧
    (¬ fits 64 (((base kernel [(1#5, 0x8000000000000000#64)]).rget 1#5).toInt + (0xFFFF#16).toInt)) ∧
    fits 64 (((base kernel [(1#5, 0x8000000000000001#64)]).rget 1#5).toInt + (0xFFFF#16).toInt) := by
  unfold fits; decide

theorem witness_ShiftDouble : (user []).mips3 = false ∧ (base kernel []).mips3 = true := by decide

theorem witness_ConditionalMoves :
    (user []).mips4 = false ∧ ((base 0x00400000#32 []).mips4 = true ∧ (base 0x00400000#32 []).cp1Usable = false) ∧
    (base kernel [(2#5, 1#64)]).rget 2#5 ≠ 0#64 ∧ (base kernel []).rget 2#5 = 0#64 ∧
    ((base kernel []).mips4 = true ∧ (base kernel []).cp1Usable = true ∧ (base kernel []).fcc 7#3 = false) ∧
    ((base kernel []).setFcr31 0x80000000#32).fcc 7#3 = true := by decide

theorem witness_Multiply : (user []).mips3 = false ∧ (base kernel []).mips3 = true := by decide

theorem witness_Divide :
    (base kernel [(2#5, 1#64)]).word 2#5 ≠ 0#32 ∧ (base kernel [(2#5, 0x100000000#64)]).word 2#5 = 0#32 ∧
    (user []).mips3 = false ∧
    ((base kernel [(2#5, 0x100000000#64)]).mips3 = true ∧ (base kernel [(2#5, 0x100000000#64)]).rget 2#5 ≠ 0#64) ∧
    (base kernel []).rget 2#5 = 0#64 := by decide

/-- Registers 1 and 2 equal, and register 1 the smaller or the greater, signed and unsigned, of a register and the
immediate 5. -/
theorem witness_ConditionalTraps :
    ∀ e l g, e = base kernel [(1#5, 5#64), (2#5, 5#64)] → l = base kernel [(1#5, 4#64), (2#5, 5#64)] →
      g = base kernel [(1#5, 6#64), (2#5, 5#64)] →
    (e.rget 1#5).toInt ≥ (e.rget 2#5).toInt ∧ ¬ (l.rget 1#5).toInt ≥ (l.rget 2#5).toInt ∧
    (e.rget 1#5).toNat ≥ (e.rget 2#5).toNat ∧ ¬ (l.rget 1#5).toNat ≥ (l.rget 2#5).toNat ∧
    (l.rget 1#5).toInt < (l.rget 2#5).toInt ∧ ¬ (e.rget 1#5).toInt < (e.rget 2#5).toInt ∧
    (l.rget 1#5).toNat < (l.rget 2#5).toNat ∧ ¬ (e.rget 1#5).toNat < (e.rget 2#5).toNat ∧
    e.rget 1#5 = e.rget 2#5 ∧ g.rget 1#5 ≠ g.rget 2#5 ∧
    (e.rget 1#5).toInt ≥ (5#16).toInt ∧ ¬ (l.rget 1#5).toInt ≥ (5#16).toInt ∧
    (e.rget 1#5).toNat ≥ (sext64 5#16).toNat ∧ ¬ (l.rget 1#5).toNat ≥ (sext64 5#16).toNat ∧
    e.rget 1#5 = sext64 5#16 ∧ g.rget 1#5 ≠ sext64 5#16 := by
  rintro e l g rfl rfl rfl; decide

theorem witness_AlwaysTrapping :
    (user []).statusBit 30 = false ∧ (base 0x40000000#32 []).statusBit 30 = true ∧ (user []).cp0Usable = false ∧
    (base kernel []).cp0Usable = true := by decide

theorem witness_Jumps : (base kernel []).delaySlot = none := by decide

theorem witness_Branches :
    (base kernel []).delaySlot = none ∧
    ∃ T : DWord, T = (base kernel []).pc + 4#64 + BitVec.ofInt 64 (4 * (0x8000#16).toInt) := ⟨by decide, _, rfl⟩

theorem witness_LikelyBranches :
    ∀ s t, s = base kernel [(1#5, 0x8000000000000000#64)] → t = base kernel [] →
    s.delaySlot = none ∧ t.delaySlot = none ∧ t.rget 1#5 = t.rget 2#5 ∧ s.rget 1#5 ≠ s.rget 2#5 ∧
    (t.rget 1#5).toInt ≤ 0 ∧ ¬ ((base kernel [(1#5, 1#64)]).rget 1#5).toInt ≤ 0 ∧
    0 < ((base kernel [(1#5, 1#64)]).rget 1#5).toInt ∧ ¬ 0 < (t.rget 1#5).toInt ∧ (s.rget 1#5).toInt < 0 ∧
    ¬ (t.rget 1#5).toInt < 0 ∧ 0 ≤ (t.rget 1#5).toInt ∧ ¬ 0 ≤ (s.rget 1#5).toInt := by
  rintro s t rfl rfl; decide

theorem witness_FpBranches :
    (user []).cp1Usable = false ∧
    ((base 0x20000010#32 []).cp1Usable = true ∧ (1#3 : BitVec 3) ≠ 0#3 ∧ (base 0x20000010#32 []).mips4 = false) ∧
    ((base kernel []).cp1Usable = true ∧ (base kernel []).mips4 = true ∧ (base kernel []).delaySlot = none ∧
      (base kernel []).fcc 7#3 = false ∧ ((base kernel []).setFcr31 0x80000000#32).fcc 7#3 = true) := by decide

theorem witness_BranchInDelaySlot :
    ∀ s, s = { base kernel [] with delaySlot := some 0#64 } →
    s.delaySlot ≠ none ∧ s.cp1Usable = true ∧ s.mips4 = true ∧ s.cp0Usable = true := by rintro s rfl; decide

/-- EXL clear in and out of a delay slot, EXL set, the three mapped regions, and the exceptions that are no refill. -/
theorem witness_ExceptionEntry :
    (user []).statusBit 1 = false ∧ (user []).delaySlot = none ∧
    ({ user [] with delaySlot := some 0#64 } : State).delaySlot ≠ none ∧ (base 0x00000002#32 []).statusBit 1 = true ∧
    ((0xC000000000000000#64 : DWord).extractLsb' 62 2 = 3#2 ∧ (0x4000000000000000#64 : DWord).extractLsb' 62 2 = 1#2 ∧
      (0#64 : DWord).extractLsb' 62 2 = 0#2) ∧
    (∀ va k, Exc.overflow ≠ .tlbRefill va k) := by
  refine ⟨?_, ?_, ?_, ?_, ?_, fun _ _ h => nomatch h⟩ <;> decide

theorem witness_ExceptionRegisters :
    Exc.syscall ≠ .watch ∧ ∀ va k, Exc.overflow ≠ .tlbRefill va k ∧ Exc.overflow ≠ .tlbInvalid va k ∧
      Exc.overflow ≠ .tlbModified va ∧ Exc.overflow ≠ .addressError va k :=
  ⟨by decide, fun _ _ => ⟨(nomatch ·), (nomatch ·), (nomatch ·), (nomatch ·)⟩⟩

theorem witness_ReturnFromException :
    (user []).cp0Usable = false ∧
    ((base kernel []).cp0Usable = true ∧ (base kernel []).delaySlot = none ∧ (base kernel []).statusBit 2 = false) ∧
    (flat 0#64).statusBit 2 = true := by decide

theorem witness_DecodeEncode : (Instr.mfc0 2#5 25#5 15#4).wellFormed = true ∧ (Instr.mtc0 2#5 31#5 0#4).wellFormed = true := by
  decide

theorem witness_ReservedEncodings :
    ((0x70000000#32 : Word).extractLsb' 26 6 = 0b011100#6 ∧ (0xEC000000#32 : Word).extractLsb' 26 6 = 0b111011#6) ∧
    ((0x00000005#32 : Word).extractLsb' 26 6 = 0#6 ∧ (0x00000005#32 : Word).extractLsb' 0 6 = 0b000101#6) ∧
    ((0x041F0000#32 : Word).extractLsb' 26 6 = 1#6 ∧ (0x041F0000#32 : Word).extractLsb' 16 5 = 31#5) ∧
    ((0x44600000#32 : Word).extractLsb' 26 6 = 0b010001#6 ∧ (0x44600000#32 : Word).extractLsb' 21 5 = 0b00011#5) ∧
    ((0x47E00000#32 : Word).extractLsb' 25 1 = 1#1 ∧
      (0x47E00000#32 : Word).extractLsb' 21 5 ∉ [0b10000#5, 0b10001#5, 0b10100#5, 0b10101#5]) ∧
    ((0x46000010#32 : Word).extractLsb' 26 6 = 0b010001#6 ∧ (0x46000010#32 : Word).extractLsb' 21 5 = 0b10000#5 ∧ (0x46000010#32 : Word).extractLsb' 0 6 = 16#6) ∧
    ((0x46000020#32 : Word).extractLsb' 21 5 = 0b10000#5 ∧ (0x46000020#32 : Word).extractLsb' 0 6 = 0b100000#6) ∧
    ((0x46200021#32 : Word).extractLsb' 21 5 = 0b10001#5 ∧ (0x46200021#32 : Word).extractLsb' 0 6 = 0b100001#6) ∧
    ((0x46A00022#32 : Word).extractLsb' 21 5 = 0b10101#5 ∧ (0x46A00022#32 : Word).extractLsb' 0 6 ∉ [0b100000#6, 0b100001#6]) ∧
    ((0x4C000002#32 : Word).extractLsb' 26 6 = 0b010011#6 ∧ (0x4C000002#32 : Word).extractLsb' 0 6 = 2#6) ∧
    (user []).mips4 = false ∧ ((base kernel []).mips4 = true) ∧
    ((base 0x00400000#32 []).mips4 = true ∧ (base 0x00400000#32 []).cp1Usable = false) ∧
    (user []).cp1Usable = false ∧ (base kernel []).cp1Usable = true := by and_intros <;> decide

/-- The reset machine is about to run the word 0, and a machine in a delay slot the jump 0x08000000, which is refused; and
one whose counter 0 counts event 15 in User mode. -/
theorem witness_StepRunsDecoded :
    State.reset.quiet ∧ (∃ p t, p = State.reset.fresh ∧
      fetchWord { p with ext := { p.ext with intWait := 0 } } = .ok 0#32 t) ∧
    decode 0#32 = .ok (.sll 0#5 0#5 0#5) ∧
    (∃ t, exec (.sll 0#5 0#5 0#5) State.reset = .next t ∧ t.ext.outgoing = [] ∧ t.ext.fifo = [] ∧
      t.ext.gathered = [] ∧ t.ext.probes = [] ∧ t.ext.agentStores = [] ∧ t.note ≠ .waiting) ∧
    (∃ t, exec (.sync 0#5) { State.reset with ext := { State.reset.ext with gblPerf := false } } = .next t ∧ t.note = .waiting) ∧ decode 0x08000000#32 = .ok (.j 0#26) ∧
    exec (.j 0#26) { State.reset with delaySlot := some 0#64 } = .refused .branchInDelaySlot ∧
    ((user []).hw.variant = .r10000 ∧ (0x1E8#32 : Word).extractLsb' 5 4 = 15#4 ∧ (0x1E8#32 : Word).getLsbD 3 = true ∧
      (user []).statusBit 2 = false ∧ (user []).cp0.status.extractLsb' 3 2 = 2#2 ∧ (user []).statusBit 1 = false) :=
  ⟨⟨rfl, rfl, rfl, rfl, rfl, rfl, rfl, rfl⟩, ⟨_, _, rfl, rfl⟩, rfl, ⟨_, rfl, rfl, rfl, rfl, rfl, rfl, by decide⟩, ⟨_, rfl, rfl⟩, rfl, rfl, by decide⟩

theorem witness_StepInvariant :
    State.reset.canonical = true ∧ State.reset.reservedClear = true ∧
    (match step State.reset with | .next _ => true | _ => false) = true := by decide

theorem witness_ColdReset :
    ({ State.reset.ext with inbox := [.coldReset 0x118E2B#64] } : Ext).inbox = .coldReset 0x118E2B#64 :: [] ∧
    reservedMode State.reset.hw.variant 0x118E2B#64 = false ∧ reservedMode State.reset.hw.variant 0x118E28#64 = true := by
  decide

theorem witness_PendingOrder :
    (∀ s, s = { State.reset with ext := { State.reset.ext with inbox := [.nmi] } } →
      s.ext.inbox = .nmi :: [] ∧ EnvEvent.nmi ≠ .quiet) ∧
    (∀ s, s = { State.reset with ext := { State.reset.ext with inbox := [.quiet] } } → ∃ es, s.ext.inbox = .quiet :: es) ∧
    (State.reset.ext.inbox = [] ∧ State.reset.ext.hung = false ∧ State.reset.ext.test.active = false ∧
      State.reset.ext.nmiLatch = false ∧ State.reset.statusBit 2 = true ∧ State.reset.cp0.watchPending = false) ∧
    ((user []).statusBit 2 = false ∧ (user []).statusBit 1 = false ∧ (user []).ext.posted.first = none ∧
      ({ PostedErrors.none with dcache := some 1#32 } : PostedErrors).first = some (.dcache, 1#32)) ∧
    (∀ s, s = { base 0x00000401#32 [] with cp0 := { (base 0x00000401#32 []).cp0 with interrupt := 1#5 } } →
      interruptCondition s = true ∧ s.ext.intWait = 0 ∧ s.ext.intDelays = [] ∧ s.cp0.watchPending = false) ∧
    (interruptCondition State.reset = false ∧ ({ State.reset.ext with busErr := some .load } : Ext).busErr = some .load) ∧
    ({ State.reset.ext with hung := true } : Ext).hung = true ∧ ({ State.reset.ext with nmiLatch := true } : Ext).nmiLatch = true ∧
    ({ (user []).cp0 with watchPending := true } : Cp0).watchPending = true ∧
    ({ State.reset.ext.test with active := true } : TestMode).active = true := by
  refine ⟨?_, ?_, ?_, ?_, ?_, ?_⟩
  · rintro s rfl; exact ⟨rfl, nofun⟩
  · rintro s rfl; exact ⟨_, rfl⟩
  · decide
  · decide
  · rintro s rfl; decide
  · decide

/-- A User-mode instruction that completes, and one that traps. -/
theorem witness_UserPrivilege :
    (user []).cp0Usable = false ∧ (user []).note = .done ∧ (∃ t, exec (.addu 1#5 2#5 3#5) (user []) = .next t) ∧
    ∃ t, exec (.tlbwi) (user []) = .next t := ⟨by decide, by decide, ⟨_, rfl⟩, ⟨_, rfl⟩⟩

/-- A misaligned pc; an uncached fetch, answered with good data or not; a fetch that hits and one that misses; and a
reserved algorithm. -/
theorem witness_Fetch :
    (({ State.reset with pc := 2#64 } : State).pc.toNat % 4 ≠ 0) ∧
    (State.reset.pc.toNat % 4 = 0 ∧ translate State.reset State.reset.pc .fetch =
      .ok { va := State.reset.pc, pa := 0x1FC00000#40, ca := 2#3, uc := 3#2 } State.reset ∧ State.reset.ext.replies = [] ∧
      State.reset.busFree ∧ State.reset.physAt 0x1FC00000 = .ram) ∧
    (readFails { completion := .err, st := 0#2, bad := 0#16, withData := false } ∧
      readFails { completion := .ack, st := 0#2, bad := 1#16, withData := true }) ∧
    (∀ r d, r = ({ completion := .ack, st := 0#2, bad := 0#16, withData := true, data := [(0, d)] } : Reply) →
      r.completion = .ack ∧ r.withData = true ∧ r.bad.getLsbD 0 = false ∧ r.data.lookup 0 = some d) ∧
    (∀ s x, s = { base kernel [] with pc := 0xFFFFFFFF80002000#64 }.setItag 128 true (ITag.of 0x2#28 true) →
      x = ({ va := 0xFFFFFFFF80002000#64, pa := 0x2000#40, ca := 3#3, uc := 3#2 } : Xlate) →
      translate s s.pc .fetch = .ok x s ∧ isCached x.ca = true ∧ (checkITags x.va s).1 = false ∧
        iHit s x.va x.pa = some true ∧ (s.iword (iSet x.va) true (x.va.extractLsb' 2 4).toNat).parBad = false) ∧
    (∀ s, s = { uncachedState with pc := 0xFFFFFFFF80002000#64 } → s.caches.wf = true ∧ FetchMiss s cachedX) ∧
    (∀ s, s = { base kernel [] with pc := 0xFFFFFFFF80002000#64, cp0 := { (base kernel []).cp0 with k0 := 0#3 } } →
      translate s s.pc .fetch = .ok { va := 0xFFFFFFFF80002000#64, pa := 0x2000#40, ca := 0#3, uc := 3#2 } s) := by
  refine ⟨by decide, ⟨by decide, rfl, rfl, ⟨rfl, rfl, rfl, rfl, rfl, rfl, rfl, rfl⟩, rfl⟩, ⟨.inl rfl, .inr ⟨rfl, rfl, rfl⟩⟩, ?_, ?_, ?_, ?_⟩
  · rintro r d rfl; exact ⟨rfl, rfl, by simp, rfl⟩
  · rintro s x rfl rfl
    exact ⟨rfl, by decide, by decide, by decide, by decide⟩
  · rintro s rfl; exact ⟨by decide, ⟨cached_block.secondary, ⟨rfl, rfl, rfl, rfl, rfl, rfl, rfl, rfl⟩, rfl, rfl, fun _ _ _ => rfl⟩, rfl, by decide, by decide, by decide⟩
  · rintro s rfl; rfl

/-- An xkphys address under Uncached accelerated, in a block and at its start, and its translation. -/
def fast (pa : PAddr) (g : Option Gather) : State :=
  { base 0x24400080#32 [(1#5, 0xB800#16 ++ 0#8 ++ pa)] with ext := { State.reset.ext with gather := g } }
def fastX (pa : PAddr) : Xlate := { va := 0xB800#16 ++ 0#8 ++ pa, pa := pa, ca := 7#3, uc := 0#2 }

/-- Answered at once, watched with the exception postponed, with a bad response, with data, under algorithm 7, and watched live. -/
theorem witness_LoadUncached :
    (UncachedRam (flat 0x1001#64) 0x1001#64 0x1001#40 1 .load (flatX 0x1001#64)) ∧
    (UncachedRam (flat 0x1002#64) 0x1002#64 0x1002#40 2 .load (flatX 0x1002#64) ∧ 0x1002 % 2 = 0) ∧
    (UncachedRam (flat 0x7FFFFFFC#64) 0x7FFFFFFC#64 0x7FFFFFFC#40 4 .load (flatX 0x7FFFFFFC#64) ∧ 0x7FFFFFFC % 4 = 0) ∧
    (UncachedRam (flat 0#64) 0#64 0#40 8 .load (flatX 0#64) ∧ 0 % 8 = 0 ∧ (flat 0#64).mips3 = true) ∧
    (flat 0#64).rget 1#5 + sext64 0#16 = 0#64 ∧ (user []).mips3 = false ∧
    (UncachedRam (flatWatched 0x1000#64) 0x1000#64 0x1000#40 8 .load (flatX 0x1000#64) ∧
      watchMatch (flatWatched 0x1000#64) 0x1000#40 .load = true) ∧
    (∀ r, r = { completion := .err, st := 0#2, bad := 0#16, withData := false } ∨
        r = { completion := .ack, st := 0#2, bad := 1#16, withData := true } →
      readFails r ∧ UncachedRef (flatReply 0x1000#64 r) 0x1000#64 0x1000#40 8 .load (flatX 0x1000#64)) ∧
    (∀ r, r = { completion := .ack, st := 0#2, bad := 0#16, withData := true, data := [(0, 0x0123456789ABCDEF#64)] } →
      BringsData r 0x0123456789ABCDEF#64 ∧
      UncachedRef (flatReply 0x1004#64 r) 0x1004#64 0x1004#40 4 .load (flatX 0x1004#64)) ∧
    (∀ pa, pa = 0x1008#40 → ∀ n ∈ [1, 2, 4, 8], UncachedRam (fast pa none) (fastX pa).va pa n .load (fastX pa)) ∧
    (∀ s, s = watching 0xFFFFFFFFA0002000#64 → translate s 0xFFFFFFFFA0002000#64 .load = .ok kseg1X s ∧
      watchMatch s 0x2000#40 .load = true ∧ watchLive s = true) := by
  refine ⟨flat_ram _ _ _ _ rfl, ⟨flat_ram _ _ _ _ rfl, by decide⟩, ⟨flat_ram _ _ _ _ rfl, by decide⟩,
    ⟨flat_ram _ _ _ _ rfl, by decide, by decide⟩, by decide, by decide,
    ⟨⟨⟨rfl, .inl rfl, fun _ => rfl, rfl, ⟨rfl, rfl, rfl, rfl, rfl, rfl, rfl, rfl⟩, fun _ _ _ => rfl⟩, rfl⟩, by decide⟩,
    ?_, ?_, ?_, ?_⟩
  · rintro r (rfl | rfl)
    · exact ⟨.inl rfl, rfl, .inl rfl, fun _ => by decide, rfl, ⟨rfl, rfl, rfl, rfl, rfl, rfl, rfl, rfl⟩, fun _ _ _ => rfl⟩
    · exact ⟨.inr ⟨rfl, rfl, rfl⟩, rfl, .inl rfl, fun _ => by decide, rfl, ⟨rfl, rfl, rfl, rfl, rfl, rfl, rfl, rfl⟩, fun _ _ _ => rfl⟩
  · rintro r rfl
    exact ⟨⟨rfl, rfl, rfl, rfl, rfl, rfl⟩, rfl, .inl rfl, fun _ => by decide, rfl, ⟨rfl, rfl, rfl, rfl, rfl, rfl, rfl, rfl⟩, fun _ _ _ => rfl⟩
  · rintro pa rfl n -
    exact ⟨⟨rfl, .inr ⟨rfl, rfl⟩, fun h => absurd h (by decide), rfl, ⟨rfl, rfl, rfl, rfl, rfl, rfl, rfl, rfl⟩, fun _ _ _ => rfl⟩, rfl⟩
  · rintro s rfl; exact ⟨rfl, by decide, by decide⟩

/-- A block in no cache, a line in the data cache, and the same watched. -/
theorem witness_LoadHit :
    DataMiss uncachedState 0xFFFFFFFF80002000#64 0x2000#40 .load cachedX ∧ uncachedState.caches.wf = true ∧
    DataHit cachedState 0xFFFFFFFF80002000#64 cachedX.pa .load cachedX false ∧
    cachedState.rget 1#5 + sext64 0#16 = 0xFFFFFFFF80002000#64 ∧ cachedState.mips3 = true ∧
    (∀ n ∈ [1, 2, 4, 8], dBytesBad cachedState (dSet cachedX.va) false (cachedX.pa.toNat % 32) n = false ∧
      (0xFFFFFFFF80002000#64 : DWord).toNat % n = 0) ∧
    (∀ s, s = lineOf 3#2 0#3 (watching 0xFFFFFFFF80002000#64) → translate s 0xFFFFFFFF80002000#64 .load = .ok cachedX s ∧
      dHit s cachedX.va cachedX.pa = some false ∧ watchMatch s cachedX.pa .load = true ∧ watchLive s = true) := by
  refine ⟨cached_miss _ rfl,
    by decide, cached_hit _ _ _ (by decide) (by decide) rfl, by decide, by decide, by decide, ?_⟩
  rintro s rfl; exact ⟨rfl, by decide, by decide, by decide⟩

/-- A gathering at 0x1000 of `n` bytes. -/
def gathering (m : GatherMode) (n : Nat) : Option Gather :=
  some { base := 0x1000#40, uc := 0#2, mode := m, n := n, stores := [(0x1000#40, List.replicate n 0#8)] }

/-- A machine at an uncached address with a gathering. -/
def flatGathering (va : DWord) : State :=
  { flat va with ext := { (flat va).ext with gather := gathering .sequential 4 } }

/-- Uncached stores; a live Watch; then the accelerated ones: a single store, one that starts a gathering, continues it in
either mode or completes it, and a doubleword after an unpaired word; and those that flush a gathering: by the mode, the
address or the uncached attribute, a halfword store, an ordinary store and a load. -/
theorem witness_StoreUncached :
    (flat 0#64).mem.wf = true ∧ (flat 0#64).mips3 = true ∧ (user []).mips3 = false ∧
    (∀ n ∈ [1, 2, 4, 8], UncachedRam (flat 0#64) 0#64 0#40 n .store (flatX 0#64) ∧ (0#64 : DWord).toNat % n = 0) ∧
    (∀ s, s = watching 0xFFFFFFFFA0002000#64 → translate s 0xFFFFFFFFA0002000#64 .store = .ok kseg1X s ∧
      watchMatch s 0x2000#40 .store = true ∧ watchLive s = true) ∧
    (∀ pa g, translate (fast pa g) (fastX pa).va .store = .ok (fastX pa) (fast pa g) →
      AcceleratedRef (fast pa g) (fastX pa).va pa (fastX pa)) ∧
    (∀ pa ∈ [0x1008#40, 0x1000#40, 0x1004#40, 0x103C#40], ∀ g ∈ [none, gathering .sequential 4, gathering .undetermined 8,
        gathering .sequential 60], translate (fast pa g) (fastX pa).va .store = .ok (fastX pa) (fast pa g)) ∧
    (0x1008#40 : PAddr).toNat % 2 ^ (fast 0x1008#40 none).hw.blkLog ≠ 0 ∧
    (0x1000#40 : PAddr).toNat % 2 ^ (fast 0x1000#40 none).hw.blkLog = 0 ∧
    (∀ a, (fast 0x1008#40 none).physAt a = .ram) ∧
    (∀ g, gathering .sequential 4 = some g → g.mode = .sequential ∧ g.n % 8 = 4 ∧ (0x1004#40 : PAddr).toNat = g.base.toNat + g.n ∧
      g.n + 4 ≠ 2 ^ (fast 0x1004#40 (some g)).hw.blkLog) ∧
    (∀ g, gathering .undetermined 8 = some g → g.mode ≠ .sequential ∧ g.mode ≠ .identical ∧ 0x1000#40 = g.base ∧ g.n ≠ 0) ∧
    (∀ g, gathering .sequential 60 = some g → (0x103C#40 : PAddr).toNat = g.base.toNat + g.n ∧
      g.n + 4 = 2 ^ (fast 0x103C#40 (some g)).hw.blkLog ∧
      (storesBytes (g.stores ++ [(0x103C#40, List.replicate 4 1#8)])).length = g.n + 4) ∧
    (∀ g, gathering .sequential 4 = some g → storesToRam (fast 0x1000#40 (some g)) g.stores ∧ g.mode ≠ .identical ∧
      0x1008 ≠ g.base.toNat + g.n ∧ g.uc ≠ 1#2) ∧
    (∀ g, gathering .identical 4 = some g → g.mode = .identical ∧ 0x1004#40 ≠ g.base) ∧
    (∀ g, gathering .sequential 4 = some g → ∀ k,
      FlushRef (flatGathering 0x1000#64) 0x1000#64 0x1000#40 k (flatX 0x1000#64) g ∧
      FlushRef (fast 0x1000#40 (some g)) (fastX 0x1000#40).va 0x1000#40 k (fastX 0x1000#40) g) := by
  refine ⟨by decide, by decide, by decide, fun n hn => ⟨flat_ram _ _ _ _ rfl, by simp⟩, ?_,
    fun pa g h => ⟨h, rfl, fun h => absurd h ?_, ⟨rfl, rfl, rfl, rfl, rfl, rfl, rfl, rfl⟩⟩, ?_, by decide, by decide, fun _ => rfl, ?_, ?_, ?_,
    ?_, ?_, ?_⟩
  · rintro s rfl; exact ⟨rfl, by decide, by decide⟩
  · have : watchMatch (fast pa g) pa .store = false := by
      unfold watchMatch
      rw [show (fast pa g).cp0 = (fast 0#40 none).cp0 from rfl]
      exact Bool.and_false _
    rw [this]; decide
  · intro pa hp g hg; fin_cases hp <;> fin_cases hg <;> rfl
  · rintro g ⟨⟩; decide
  · rintro g ⟨⟩; decide
  · rintro g ⟨⟩; decide
  · rintro g ⟨⟩; exact ⟨fun _ _ _ _ _ => rfl, by decide, by decide, by decide⟩
  · rintro g ⟨⟩; decide
  · rintro g ⟨⟩ k
    exact ⟨⟨by cases k <;> rfl, .inl rfl, by cases k <;> decide, rfl, ⟨rfl, rfl, rfl, rfl, rfl, rfl, rfl, rfl⟩, fun _ _ _ _ _ => rfl⟩,
      ⟨by cases k <;> rfl, .inr rfl, by cases k <;> decide, rfl, ⟨rfl, rfl, rfl, rfl, rfl, rfl, rfl, rfl⟩, fun _ _ _ _ _ => rfl⟩⟩

/-- A DirtyExclusive, a Shared and a CleanExclusive line, a block in no cache, and a watched line. -/
theorem witness_StoreHit :
    (∀ st ∈ [1#2, 2#2, 3#2], ∀ s, s = lineOf st 0#3 uncachedState → s.caches.wf = true ∧
      DataHit s 0xFFFFFFFF80002000#64 cachedX.pa .store cachedX false ∧ (s.dtag (dSet cachedX.va) false).st = st ∧
      s.busFree ∧ s.ext.replies = [] ∧ InSecondary s cachedX.va cachedX.pa false st) ∧
    (uncachedState.caches.wf = true ∧ DataMiss uncachedState 0xFFFFFFFF80002000#64 cachedX.pa .store cachedX) ∧
    (∀ n ∈ [1, 2, 4, 8], (0xFFFFFFFF80002000#64 : DWord).toNat % n = 0) ∧
    (∀ s, s = lineOf 3#2 0#3 (watching 0xFFFFFFFF80002000#64) → translate s 0xFFFFFFFF80002000#64 .store = .ok cachedX s ∧
      dHit s cachedX.va cachedX.pa = some false ∧ watchMatch s cachedX.pa .store = true ∧ watchLive s = true) := by
  refine ⟨?_, ⟨by decide, cached_miss _ rfl⟩, by decide, ?_⟩
  · rintro st h s rfl
    exact ⟨by revert st; decide, cached_hit _ _ _ (by rintro rfl; simp at h) (.inl rfl) (by fin_cases h <;> rfl),
      by revert st; decide, ⟨rfl, rfl, rfl, rfl, rfl, rfl, rfl, rfl⟩, rfl,
      ⟨by revert st; decide, properTag_of_decide (by revert st; decide), by revert st; decide⟩⟩
  · rintro s rfl; exact ⟨rfl, by decide, by decide, by decide⟩

/-- A misaligned uncached address, and the first byte of a line that hits and of one that misses; each form in each size. -/
theorem witness_UnalignedLoads :
    (user []).mips3 = false ∧ ∀ n ∈ [4, 8], ∀ s va x pa, (s, va, x, pa) ∈
        [(flat 0x1003#64, 0x1003#64, flatX 0x1003#64, 0x1000#40), (cachedState, 0xFFFFFFFF80002000#64, cachedX, 0x2000#40),
          (uncachedState, 0xFFFFFFFF80002000#64, cachedX, 0x2000#40)] →
      s.mips3 = true ∧ va = s.rget 1#5 + sext64 0#16 ∧ pa = BitVec.ofNat 40 (x.pa.toNat / n * n) ∧
      ∀ k, k = (if s.bigEndianCpu then n - 1 - x.va.toNat % n else x.va.toNat % n) →
        (∃ b after, loadSource s va (pa + BitVec.ofNat 40 (if s.bigEndianCpu then n - 1 - k else 0)) (k + 1) x 1#2 false b after) ∧
        ∃ b after, loadSource s va (pa + BitVec.ofNat 40 (if s.bigEndianCpu then 0 else k)) (n - k) x 1#2 false b after := by
  refine ⟨by decide, fun n hn s va x pa h => ?_⟩
  have hn8 : n = 4 ∨ n = 8 := by simpa using hn
  simp only [List.mem_cons, Prod.mk.injEq, List.not_mem_nil, or_false] at h
  rcases h with ⟨rfl, rfl, rfl, rfl⟩ | ⟨rfl, rfl, rfl, rfl⟩ | ⟨rfl, rfl, rfl, rfl⟩
  · refine ⟨by decide, by decide, by rcases hn8 with rfl | rfl <;> decide, fun k _ => ⟨?_, ?_⟩⟩
    · exact ⟨_, _, .inl ⟨flat_ram _ _ _ _ rfl, fun _ => rfl, rfl⟩⟩
    · exact ⟨_, _, .inl ⟨flat_ram _ _ _ _ rfl, fun _ => rfl, rfl⟩⟩
  all_goals
    refine ⟨by decide, by decide, by rcases hn8 with rfl | rfl <;> decide, ?_⟩
    rintro k rfl
  · have h : ∀ m, m < 9 → ∃ b after, loadSource cachedState 0xFFFFFFFF80002000#64 0x2000#40 m cachedX 1#2 false b after :=
      fun m hm => (load_sources m hm 1#2 false).2.1.imp fun _ h => ⟨_, h⟩
    rcases hn8 with rfl | rfl <;> exact ⟨h _ (by decide), h _ (by decide)⟩
  · have h : ∀ m, m < 9 → ∃ b after, loadSource uncachedState 0xFFFFFFFF80002000#64 0x2000#40 m cachedX 1#2 false b after :=
      fun m hm => (load_sources m hm 1#2 false).2.2.imp fun _ h => ⟨_, h⟩
    rcases hn8 with rfl | rfl <;> exact ⟨h _ (by decide), h _ (by decide)⟩

/-- The same for the stores, on a line in each state. -/
theorem witness_UnalignedStores :
    (user []).mips3 = false ∧ ∀ n ∈ [4, 8], ∀ s va x pa, (s, va, x, pa) ∈
        [(flat 0x1003#64, 0x1003#64, flatX 0x1003#64, 0x1000#40),
          (lineOf 3#2 0#3 uncachedState, 0xFFFFFFFF80002000#64, cachedX, 0x2000#40),
          (lineOf 1#2 0#3 uncachedState, 0xFFFFFFFF80002000#64, cachedX, 0x2000#40),
          (lineOf 2#2 0#3 uncachedState, 0xFFFFFFFF80002000#64, cachedX, 0x2000#40),
          (uncachedState, 0xFFFFFFFF80002000#64, cachedX, 0x2000#40)] →
      s.mips3 = true ∧ va = s.rget 1#5 + sext64 0#16 ∧ pa = BitVec.ofNat 40 (x.pa.toNat / n * n) ∧
      ∀ k, k = (if s.bigEndianCpu then n - 1 - x.va.toNat % n else x.va.toNat % n) → ∀ b,
        (∃ after, storeTarget s va (pa + BitVec.ofNat 40 (if s.bigEndianCpu then n - 1 - k else 0)) (k + 1) x 1#2 b after) ∧
        ∃ after, storeTarget s va (pa + BitVec.ofNat 40 (if s.bigEndianCpu then 0 else k)) (n - k) x 1#2 b after := by
  refine ⟨by decide, fun n hn s va x pa h => ?_⟩
  have hn8 : n = 4 ∨ n = 8 := by simpa using hn
  simp only [List.mem_cons, Prod.mk.injEq, List.not_mem_nil, or_false] at h
  rcases h with ⟨rfl, rfl, rfl, rfl⟩ | ⟨rfl, rfl, rfl, rfl⟩ | ⟨rfl, rfl, rfl, rfl⟩ | ⟨rfl, rfl, rfl, rfl⟩ | ⟨rfl, rfl, rfl, rfl⟩
  · exact ⟨by decide, by decide, by rcases hn8 with rfl | rfl <;> decide,
      fun k _ b => ⟨⟨_, (store_targets _ _ _).1 _ _ rfl⟩, ⟨_, (store_targets _ _ _).1 _ _ rfl⟩⟩⟩
  all_goals
    refine ⟨by decide, by decide, by rcases hn8 with rfl | rfl <;> decide, ?_⟩
    rintro k rfl b
  · rcases hn8 with rfl | rfl <;> exact ⟨⟨_, (store_targets _ _ _).2.1⟩, ⟨_, (store_targets _ _ _).2.1⟩⟩
  · rcases hn8 with rfl | rfl <;> exact ⟨⟨_, (store_targets _ _ _).2.2.1 _ rfl⟩, ⟨_, (store_targets _ _ _).2.2.1 _ rfl⟩⟩
  · rcases hn8 with rfl | rfl <;> exact ⟨⟨_, (store_targets _ _ _).2.2.2.1 _ rfl⟩, ⟨_, (store_targets _ _ _).2.2.2.1 _ rfl⟩⟩
  · rcases hn8 with rfl | rfl <;> exact ⟨⟨_, (store_targets _ _ _).2.2.2.2⟩, ⟨_, (store_targets _ _ _).2.2.2.2⟩⟩

/-- An uncached address, a line that hits and one that misses, in both sizes. -/
theorem witness_LinkedLoad :
    (flat 0x1000#64).mips3 = true ∧ (user []).mips3 = false ∧ cachedState.mips3 = true ∧ uncachedState.mips3 = true ∧
    ∀ n ∈ [4, 8], (0x1000 % n = 0 ∧ (0xFFFFFFFF80002000#64 : DWord).toNat % n = 0) ∧
      (∃ b, loadSource (flat 0x1000#64) 0x1000#64 0x1000#40 n (flatX 0x1000#64) 2#2 true b
        (afterUncachedRead 0x1000#40 n 0#2 2#2 true)) ∧
      (∃ b, loadSource cachedState 0xFFFFFFFF80002000#64 cachedX.pa n cachedX 2#2 true b
        (afterReadHit cachedX.va cachedX.pa false true)) ∧
      ∃ b, loadSource uncachedState 0xFFFFFFFF80002000#64 cachedX.pa n cachedX 2#2 true b
        (afterReadMiss cachedX.va cachedX.pa 3#3 2#2 true) := by
  refine ⟨by decide, by decide, by decide, by decide, fun n hn => ⟨by revert n; decide, ?_⟩⟩
  have h := load_sources n (by revert n; decide) 2#2 true
  exact ⟨h.1 _ _ rfl, h.2⟩

/-- Without the link, and with it on an uncached address, a line in each state and a block in no cache; and a live Watch, of
both kinds. -/
theorem witness_ConditionalStore :
    (flat 0x1000#64).mips3 = true ∧ (flat 0x1000#64).llbit = false ∧ (user []).mips3 = false ∧
    (∀ n ∈ [4, 8], 0x1000 % n = 0 ∧ (0xFFFFFFFF80002000#64 : DWord).toNat % n = 0) ∧
    translate (flat 0x1000#64) 0x1000#64 .store = .ok (flatX 0x1000#64) (flat 0x1000#64) ∧
    watchLive (flat 0x1000#64) = false ∧
    (∀ s, s = { flat 0x1000#64 with llbit := true } → s.llbit = true ∧ ∀ n b, ∃ after,
      storeTarget s 0x1000#64 0x1000#40 n (flatX 0x1000#64) 2#2 b after) ∧
    (∀ st ∈ [1#2, 2#2, 3#2], ∀ s, s = lineOf st 0#3 { uncachedState with llbit := true } → s.llbit = true ∧ ∀ n b, ∃ after,
      storeTarget s 0xFFFFFFFF80002000#64 cachedX.pa n cachedX 2#2 b after) ∧
    (∀ s, s = { uncachedState with llbit := true } → s.llbit = true ∧ ∀ n b, ∃ after,
      storeTarget s 0xFFFFFFFF80002000#64 cachedX.pa n cachedX 2#2 b after) ∧
    (∀ s, s = watching 0xFFFFFFFFA0002000#64 → translate s 0xFFFFFFFFA0002000#64 .store = .ok kseg1X s ∧
      watchMatch s 0x2000#40 .store = true ∧ watchLive s = true) ∧
    (∀ s, s = lineOf 3#2 0#3 (watching 0xFFFFFFFF80002000#64) → translate s 0xFFFFFFFF80002000#64 .store = .ok cachedX s ∧
      dHit s cachedX.va cachedX.pa = some false ∧ watchMatch s cachedX.pa .store = true ∧ watchLive s = true) := by
  have free : ∀ s : State, s.ext = State.reset.ext → s.busFree := by
    intro s h; constructor <;> rw [h] <;> rfl
  refine ⟨by decide, by decide, by decide, by decide, rfl, flat_live _, ?_, ?_, ?_, ?_, ?_⟩
  · rintro s rfl
    exact ⟨rfl, fun n b => ⟨_, .inl ⟨by decide, ⟨⟨rfl, .inl rfl, fun _ => flat_live 0x1000#64, rfl, free _ rfl, fun _ _ _ => rfl⟩, rfl⟩, rfl⟩⟩⟩
  · rintro st h s rfl
    refine ⟨rfl, fun n b => ?_⟩
    fin_cases h
    · exact ⟨_, .inr ⟨by decide, .inr (.inl ⟨false, false, ⟨rfl, rfl, by decide, by decide, by decide, by decide⟩, by decide, free _ rfl,
        .inl ⟨(fun L => ⟨L.here, L.proper, L.alone⟩ : InSecondary (lineOf 1#2 0#3 uncachedState) cachedX.va 0x2000#40 false 1#2 → _) (line_block 1#2 (by decide)), rfl, rfl⟩⟩)⟩⟩
    · exact ⟨_, .inr ⟨by decide, .inr (.inl ⟨false, false, ⟨rfl, rfl, by decide, by decide, by decide, by decide⟩, by decide, free _ rfl,
        .inr ⟨(fun L => ⟨L.here, L.proper, L.alone⟩ : InSecondary (lineOf 2#2 0#3 uncachedState) cachedX.va 0x2000#40 false 2#2 → _) (line_block 2#2 (by decide)), rfl⟩⟩)⟩⟩
    · exact ⟨_, .inr ⟨by decide, .inl ⟨false, ⟨rfl, rfl, by decide, by decide, by decide, by decide⟩, by decide, rfl⟩⟩⟩
  · rintro s rfl
    have m := cached_miss .store rfl
    exact ⟨rfl, fun n b => ⟨_, .inr ⟨by decide, .inr (.inr ⟨⟨⟨m.secondary, free _ rfl, rfl, rfl, m.ram⟩, rfl, m.cached, by decide,
      m.goodTags, m.settled, m.primary⟩, rfl⟩)⟩⟩⟩
  · rintro s rfl; exact ⟨rfl, by decide, by decide⟩
  · rintro s rfl; exact ⟨rfl, by decide, by decide, by decide⟩

theorem witness_AlignmentErrors :
    (flat 0x1001#64).rget 1#5 + sext64 0#16 = 0x1001#64 ∧ (flat 0x1001#64).rget 1#5 + (flat 0x1001#64).rget 2#5 = 0x1001#64 ∧
    (flat 0x1001#64).mips3 = true ∧ (flat 0x1001#64).mips4 = true ∧ (flat 0x1001#64).cp1Usable = true ∧
    (flat 0x1001#64).fr = true ∧ ((base 0x20400000#32 []).cp1Usable = true ∧ (base 0x20400000#32 []).fr = false ∧
      (2#5 : RegNum).getLsbD 0 = false) ∧ ∀ n ∈ [2, 4, 8], 0x1001 % n ≠ 0 := by decide

/-- The synchronisation signal both ways and an uncached store pending, accelerated or not; a hint that is not listed; an address that does
not translate, one that is uncached and one that hits, for a shared and for an exclusive hint. -/
theorem witness_SyncPrefetch :
    ((base kernel []).ext.gblPerf = true ∧ storePending (base kernel []) = false) ∧
    ({ State.reset.ext with gblPerf := false } : Ext).gblPerf = false ∧
    (∀ s accel, s = { base kernel [] with ext := { State.reset.ext with
        fifo := [{ pa := 0#40, bytes := [0#8], uc := 0#2, accel := accel, whole := false }] } } ∨
      s = { base kernel [] with ext := { State.reset.ext with gathered := [[.dspWrite accel 0#40 [0#8] 0#2 1#2]] } } →
      storePending s = !accel) ∧
    (user []).mips4 = false ∧ ((flat 0#64).mips4 = true ∧ (flat 0#64).cp1Usable = true) ∧
    (31#5 : BitVec 5) ∉ [0#5, 1#5, 4#5, 5#5, 6#5, 7#5] ∧
    (translate (base kernel []) 0#64 .load = .exc (.tlbRefill 0#64 .load) (base kernel [])) ∧
    (translate (flat 0#64) 0#64 .load = .ok (flatX 0#64) (flat 0#64) ∧ isCached (flatX 0#64).ca = false) ∧
    DataHit cachedState 0xFFFFFFFF80002000#64 cachedX.pa .load cachedX false ∧
    (cachedState.dtag (dSet cachedX.va) false).st = 3#2 := by
  refine ⟨by decide, by decide, ?_, by decide, by decide, by decide, rfl, ⟨rfl, by decide⟩, cached_hit _ _ _ (by decide) (by decide) rfl,
    by decide⟩
  rintro s accel (rfl | rfl) <;> cases accel <;> decide

/-- The first and last addresses of the segments, and addresses beyond them. -/
theorem witness_UnmappedSegments :
    ((base kernel []).mode = .kernel ∧ 0xFFFFFFFF8#36 ++ 0#28 + zext64 (0#29) = 0xFFFFFFFF80000000#64 ∧
      0xFFFFFFFFA#36 ++ 0#28 + zext64 (0x1FFFFFFF#29) = 0xFFFFFFFFBFFFFFFF#64) ∧
    ((flat 0#64).statusBit 2 = true ∧ (0x7FFFFFFF#64 : DWord).toNat < 2 ^ 31) ∧
    ((base 0x00000080#32 []).mode = .kernel ∧ (base 0x00000080#32 []).statusBit 7 = true ∧
      (0x9000000000001000#64 : DWord) = (2#2 ++ 2#3 ++ 0#2 ++ 0#17 ++ 0x1000#40 : BitVec (2 + 3 + 2 + 17 + 40)) ∧
      (1#17 : BitVec 17) ≠ 0#17) ∧
    ((user []).mode = .user ∧ (user []).statusBit 5 = false ∧ 2 ^ 31 ≤ (0x80000000#64 : DWord).toNat ∧
      (0x80000000#64 : DWord).getLsbD 31 = true) ∧
    ((base 0x00000030#32 []).mode = .user ∧ (base 0x00000030#32 []).statusBit 5 = true ∧
      2 ^ 44 ≤ (0x100000000000#64 : DWord).toNat) ∧
    ((base 0x00000008#32 []).mode = .supervisor ∧ ¬ mappedIn (base 0x00000008#32 []) 0x80000000 ∧
      ¬ mappedIn (base 0x00000008#32 []) 0x4000000000000000) ∧
    (∀ s, s = base 0#32 [] → s.mode = .kernel ∧ ¬ mappedIn s 0x80000000 ∧ ¬ mappedIn s 0x9000000000000000 ∧
      s.statusBit 7 = false) := by
  have hs : ∀ x : Nat, (base 0x00000008#32 []).mode = .supervisor := fun _ => by decide
  refine ⟨?_, ?_, ?_, ?_, ?_, ⟨by decide, ?_, ?_⟩, ?_⟩
  rotate_left 5
  · unfold mappedIn; rw [hs 0]; simp; decide
  · unfold mappedIn; rw [hs 0]; simp; decide
  · rintro s rfl
    have h : (base 0#32 []).mode = .kernel := by decide
    refine ⟨h, ?_, ?_, by decide⟩ <;> unfold mappedIn <;> rw [h] <;> simp <;> decide
  all_goals and_intros <;> decide

/-- The User-mode machine with one TLB entry for the pages of 0x400000, or two. -/
def mapped (mask : BitVec 12) (odd : TlbPage) (twice : Bool) : State :=
  let e : TlbEntry := { TlbEntry.empty with mask := mask, vpn2 := 0x200#31, g := true, odd := odd, matchable := true }
  { user [] with tlb := if twice then ((user []).tlb.set 63 e).set 0 e else (user []).tlb.set 63 e }

/-- TlbLookup's matching condition at entry `i` for the address `va`. -/
abbrev matchesAt (s : State) (r : BitVec 2) (vpn2 : BitVec 31) (i : Nat) : Prop :=
  (s.tlbAt i).matchable = true ∧ (s.tlbAt i).r = r ∧
    (s.tlbAt i).vpn2 &&& ~~~((s.tlbAt i).mask.setWidth 31) = vpn2 &&& ~~~((s.tlbAt i).mask.setWidth 31) ∧
    ((s.tlbAt i).g = true ∨ (s.tlbAt i).asid = s.cp0.entryHi.extractLsb' 0 8)

theorem witness_TlbLookup :
    (mappedIn (user []) (0x401000#64 : DWord).toNat ∧ mappedIn (base 0x00000030#32 []) (0xFFFFFFFFFFF#64 : DWord).toNat) ∧
    (mappedIn (base 0x00000008#32 []) 0xFFFFFFFFC0000000 ∧ mappedIn (base 0x00000048#32 []) (2 ^ 62 + 2 ^ 44 - 1)) ∧
    (mappedIn (base 0#32 []) 0xFFFFFFFFFFFFFFFF ∧ mappedIn (base 0x00000080#32 []) 0xC0000FFEFFFFFFFF ∧
      mappedIn (base 0x000000A4#32 []) 0xC000000000000000) ∧
    (∀ i, i < 64 → ¬ matchesAt (user []) 0#2 0x200#31 i) ∧
    (∀ j, j < 64 → (matchesAt (mapped 0#12 .zero false) 0#2 0x200#31 j ↔ j = 63)) ∧
    ((mapped 0#12 .zero false).tlbAt 63).odd.v = false ∧
    ((mapped 0#12 { TlbPage.zero with v := true } false).tlbAt 63).odd = { TlbPage.zero with v := true } ∧
    (0x401000#64 : DWord).getLsbD 12 = true ∧ ((mapped 0xFFF#12 .zero false).tlbAt 63).mask = 0xFFF#12 ∧
    matchesAt (mapped 0#12 .zero true) 0#2 0x200#31 0 ∧ matchesAt (mapped 0#12 .zero true) 0#2 0x200#31 63 := by
  refine ⟨⟨.inl (by decide), .inr (by decide)⟩, ⟨.inr (.inl (by decide)), .inr (.inr ⟨by decide, .inr (by decide)⟩)⟩,
    ⟨.inr (.inl (by decide)), .inr (.inr ⟨by decide, .inr (.inr (by decide))⟩),
      .inr (.inr ⟨by decide, .inr (.inr (by decide))⟩)⟩, ?_⟩
  and_intros <;> decide

theorem witness_Cp0Gate :
    (user []).cp0Usable = false ∧ (base 0x10000010#32 []).cp0Usable = true ∧ (base 0x10000010#32 []).mips3 = false := by decide

/-- Every performance register of both variants is named by some `sel`, and the Diagnostic layout is the default one. -/
theorem witness_MoveFromCp0 :
    (base kernel []).cp0Usable = true ∧ (base kernel []).mips3 = true ∧ (base kernel []).hw.variant = .r10000 ∧
    (∀ n : Fin 4, ∃ sel : BitVec 4, n.val = sel.toNat / 2 ∧ sel.getLsbD 0 = false) ∧
    (∀ n : Fin 4, ∃ sel : BitVec 4, n.val = sel.toNat / 2 ∧ sel.getLsbD 0 = true) ∧
    (base kernel []).hw.diagLayout = defaultDiagLayout ∧ (base kernel []).cp0.diag.inSlot = false ∧
    (1#2 : BitVec 2) ≠ 0#2 := by
  refine ⟨by decide, by decide, by decide, ?_, ?_, by decide, by decide, by decide⟩
  · exact fun n => ⟨BitVec.ofNat 4 (2 * n.val), by revert n; decide⟩
  · exact fun n => ⟨BitVec.ofNat 4 (2 * n.val + 1), by revert n; decide⟩

theorem witness_MoveToCp0 :
    (base kernel []).cp0Usable = true ∧ (base kernel []).mips3 = true ∧ (base kernel []).hw.variant = .r10000 ∧
    (∃ (n : Fin 4) (sel : BitVec 4), n.val = sel.toNat / 2 ∧ n.val < 2 ∧ sel.getLsbD 0 = true) ∧
    (∀ s, s = { base kernel [] with hw := { State.reset.hw with variant := .r12000 } } →
      s.cp0Usable = true ∧ s.hw.variant ≠ .r10000 ∧ 8 ≤ (8#4 : BitVec 4).toNat) := by
  refine ⟨by decide, by decide, by decide, ⟨1, 3#4, by decide⟩, ?_⟩
  rintro s rfl; decide

theorem witness_TlbReadProbe :
    (∀ s, s = { mapped 0#12 .zero false with cp0 := { (base kernel []).cp0 with entryHi := 0x400000#64 } } →
      s.cp0Usable = true ∧ ∀ j, j < 64 → (matchesAt s 0#2 (s.cp0.entryHi.extractLsb' 13 31) j ↔ j = 63)) ∧
    (∀ i, i < 64 → ¬ matchesAt (base kernel []) 0#2 0#31 i) ∧
    (∀ s, s = { mapped 0#12 .zero true with cp0 := { (base kernel []).cp0 with entryHi := 0x400000#64 } } →
      matchesAt s 0#2 (s.cp0.entryHi.extractLsb' 13 31) 0 ∧ matchesAt s 0#2 (s.cp0.entryHi.extractLsb' 13 31) 63) := by
  refine ⟨?_, by decide, ?_⟩
  · rintro s rfl; decide
  · rintro s rfl; decide

/-- A write at Index 0 with a legal mask, with and without another entry that overlaps it, and with an illegal mask. -/
theorem witness_TlbWrite :
    (base kernel []).cp0Usable = true ∧ (base kernel []).cp0.index = 0#6 ∧
    (∀ n : TlbEntry, n = { TlbEntry.empty with matchable := true } →
      n.mask = (base kernel []).cp0.pageMask ∧ n.r = (base kernel []).cp0.entryHi.extractLsb' 62 2 ∧
      n.vpn2 = (base kernel []).cp0.entryHi.extractLsb' 13 31 ∧ n.asid = (base kernel []).cp0.entryHi.extractLsb' 0 8 ∧
      n.g = ((base kernel []).cp0.entryLo0.getLsbD 0 && (base kernel []).cp0.entryLo1.getLsbD 0) ∧
      n.even.pfn = ((base kernel []).cp0.entryLo0.extractLsb' 18 16 ++ (base kernel []).cp0.entryLo0.extractLsb' 6 12) ∧
      n.mask ∈ [0x000#12, 0x003#12, 0x00F#12, 0x03F#12, 0x0FF#12, 0x3FF#12, 0xFFF#12]) ∧
    (∀ s, s = { base kernel [] with tlb := (base kernel []).tlb.set 63 { TlbEntry.empty with matchable := true } } →
      63 ≠ 0 ∧ (s.tlbAt 63).matchable = true ∧ (s.tlbAt 63).r = 0#2 ∧ (s.tlbAt 63).vpn2 = 0#31 ∧ (s.tlbAt 63).asid = 0#8) ∧
    (0x001#12 : BitVec 12) ∉ [0x000#12, 0x003#12, 0x00F#12, 0x03F#12, 0x0FF#12, 0x3FF#12, 0xFFF#12] := by
  refine ⟨by decide, by decide, ?_, ?_, by decide⟩
  · rintro n rfl; decide
  · rintro s rfl; decide

/-- Translations that succeed, on a miss and on a hit in each primary cache, and one that fails; an Inconsistent line with
good parity, the only one inside its block; and the secondary set of a block that is in no way, in one way, and
DirtyExclusive there. -/
theorem witness_CacheOps :
    ((base kernel []).cp0Usable = true ∧ (base kernel []).hw.tagLayout = defaultTagLayout) ∧
    (∀ s, s = uncachedState → translate s 0xFFFFFFFF80002000#64 .load = .ok cachedX s ∧
      (checkITags cachedX.va s).1 = false ∧ iHit s cachedX.va cachedX.pa = none ∧ (checkDTags cachedX.va s).1 = false ∧
      dHit s cachedX.va cachedX.pa = none ∧ (∀ v, properTag (s.stag (sSet s.hw cachedX.pa) v)) ∧
      (∀ v, (s.stag (sSet s.hw cachedX.pa) v).st = 0#2) ∧ s.ext.outgoing = []) ∧
    (∀ s, s = lineOf 3#2 1#3 uncachedState → s.cp0Usable = true ∧ s.caches.wf = true ∧
      translate s 0xFFFFFFFF80002000#64 .load = .ok cachedX s ∧ (checkDTags cachedX.va s).1 = false ∧
      dHit s cachedX.va cachedX.pa = some false ∧ (s.dtag (dSet cachedX.va) false).mod = 1#3 ∧
      (s.dtag (dSet cachedX.va) false).st ≠ 0#2 ∧
      (∀ k, k < 8 → (s.dword (dSet cachedX.va) false k).par = wordParity (s.dword (dSet cachedX.va) false k).word) ∧
      (∀ v, properTag (s.stag (sSet s.hw cachedX.pa) v)) ∧ (s.stag (sSet s.hw cachedX.pa) false).st = 3#2 ∧
      (s.stag (sSet s.hw cachedX.pa) false).tag = stagOf cachedX.pa ∧ (s.stag (sSet s.hw cachedX.pa) true).st = 0#2 ∧
      (∀ pa, pa = sBlockPa s.hw (sSet s.hw cachedX.pa) (s.stag (sSet s.hw cachedX.pa) false).tag →
        sSet s.hw pa = sSet s.hw cachedX.pa ∧ insideD s 2#2 pa 256 false ∧ cleanLines 2#2 pa false s ∧
        ∀ k, k < sQuads s.hw → s.squad (sSet s.hw cachedX.pa) false k = SQuad.of (s.squad (sSet s.hw cachedX.pa) false k).data)) ∧
    (cachedState.dtag (dSet cachedX.va) false).mod ≠ 1#3 ∧
    (∀ s, s = (base kernel []).setItag 128 true (ITag.of 0x2#28 true) →
      translate s 0xFFFFFFFF80002000#64 .load = .ok cachedX s ∧ (checkITags cachedX.va s).1 = false ∧
      iHit s cachedX.va cachedX.pa = some true) ∧
    translate (base kernel []) 0#64 .load = .exc (.tlbRefill 0#64 .load) (base kernel []) := by
  refine ⟨by decide, ?_, ?_, by decide, ?_, rfl⟩
  · rintro s rfl; exact ⟨rfl, by decide, by decide, by decide, by decide, fun v => properTag_of_decide (by revert v; decide), by decide, rfl⟩
  · rintro s rfl
    refine ⟨by decide, by decide, rfl, by decide, by decide, by decide, by decide, by decide, fun v => properTag_of_decide (by revert v; decide), by decide,
      by decide, by decide, ?_⟩
    rintro pa rfl
    have one : ∀ d w, ((lineOf 3#2 1#3 uncachedState).dtag d w).st ≠ 0#2 → d = 256 ∧ w = false := by
      intro d w h
      by_contra hn
      exact h (by rw [show (lineOf 3#2 1#3 uncachedState).dtag d w =
        (uncachedState.setDtag 256 false (DTag.of 0x2#28 3#2 1#3 false)).dtag d w from rfl, dtag_set rfl, if_neg hn]; rfl)
    refine ⟨by decide, ⟨⟨0, by decide, by decide⟩, by decide, by decide⟩, ⟨?_, ?_⟩, by decide⟩
    · rintro d w ⟨_, _, h⟩ _
      obtain ⟨rfl, rfl⟩ := one d w h
      exact ⟨by decide, by decide⟩
    · rintro d ⟨⟨_, _, _⟩, ⟨_, _, h⟩⟩
      exact absurd (one d true h).2 (by decide)
  · rintro s rfl; exact ⟨rfl, by decide, by decide⟩

theorem witness_FpGates :
    (user []).cp1Usable = false ∧ ((base 0x20000010#32 []).cp1Usable = true ∧ (base 0x20000010#32 []).mips3 = false ∧
      (base 0x20000010#32 []).mips4 = false ∧ (7#3 : BitVec 3) ≠ 0#3) ∧
    ((base 0x00400000#32 []).mips4 = true ∧ (base 0x00400000#32 []).cp1Usable = false) := by decide

theorem witness_FpMoves :
    ((base kernel []).cp1Usable = true ∧ (base kernel []).mips3 = true ∧ (base kernel []).fr = true) ∧
    ((base 0x20400000#32 []).cp1Usable = true ∧ (base 0x20400000#32 []).mips3 = true ∧
      (base 0x20400000#32 []).fr = false ∧ (31#5 : BitVec 5).getLsbD 0 = true ∧ (30#5 : BitVec 5).getLsbD 0 = false) ∧
    ((0x00020000#32 : Word).getLsbD 17 = true ∧ (0x1080#32 : Word).extractLsb' 12 5 &&& (0x1080#32 : Word).extractLsb' 7 5 ≠ 0#5 ∧
      (0x1004#32 : Word).getLsbD 17 = false ∧
      (0x1004#32 : Word).extractLsb' 12 5 &&& (0x1004#32 : Word).extractLsb' 7 5 = 0#5) := by decide

/-- The gates; and every source of a load and target of a store, in both sizes. -/
theorem witness_FpMemory :
    ((flat 0x1000#64).cp1Usable = true ∧ (flat 0x1000#64).mips4 = true ∧ (flat 0x1000#64).fr = true) ∧
    (cachedState.cp1Usable = true ∧ cachedState.mips4 = true ∧ cachedState.fr = true) ∧
    ((flat 0x1000#64).rget 1#5 + sext64 0#16 = 0x1000#64 ∧ (flat 0x1000#64).rget 1#5 + (flat 0x1000#64).rget 2#5 = 0x1000#64) ∧
    (cachedState.rget 1#5 + sext64 0#16 = 0xFFFFFFFF80002000#64 ∧
      cachedState.rget 1#5 + cachedState.rget 2#5 = 0xFFFFFFFF80002000#64) ∧
    (∀ n ∈ [4, 8], (0x1000 % n = 0 ∧ (0xFFFFFFFF80002000#64 : DWord).toNat % n = 0) ∧
      (∃ b after, loadSource (flat 0x1000#64) 0x1000#64 0x1000#40 n (flatX 0x1000#64) 1#2 false b after) ∧
      (∃ b after, loadSource cachedState 0xFFFFFFFF80002000#64 cachedX.pa n cachedX 1#2 false b after) ∧
      (∃ b after, loadSource uncachedState 0xFFFFFFFF80002000#64 cachedX.pa n cachedX 1#2 false b after) ∧
      ∀ b, (∃ after, storeTarget (flat 0x1000#64) 0x1000#64 0x1000#40 n (flatX 0x1000#64) 1#2 b after) ∧
        (∀ st ∈ [1#2, 2#2, 3#2], ∃ after,
          storeTarget (lineOf st 0#3 uncachedState) 0xFFFFFFFF80002000#64 cachedX.pa n cachedX 1#2 b after) ∧
        ∃ after, storeTarget uncachedState 0xFFFFFFFF80002000#64 cachedX.pa n cachedX 1#2 b after) ∧
    ((base 0x20400000#32 []).fr = false ∧ (31#5 : BitVec 5).getLsbD 0 = true) := by
  refine ⟨by decide, by decide, by decide, by decide, fun n hn => ⟨by revert n; decide, ?_⟩, by decide⟩
  have h := load_sources n (by revert n; decide) 1#2 false
  refine ⟨(h.1 _ _ rfl).imp fun _ h => ⟨_, h⟩, h.2.1.imp fun _ h => ⟨_, h⟩, h.2.2.imp fun _ h => ⟨_, h⟩, fun b => ?_⟩
  have t := store_targets n 1#2 b
  refine ⟨⟨_, t.1 _ _ rfl⟩, fun st hst => ?_, ⟨_, t.2.2.2.2⟩⟩
  fin_cases hst
  · exact ⟨_, t.2.2.1 _ rfl⟩
  · exact ⟨_, t.2.2.2.1 _ rfl⟩
  · exact ⟨_, t.2.1⟩

/-- A machine whose registers 2, 4 and 6 hold operands, outside flush mode and (an R12000 with FCR31.FS set) in it. -/
def operands (flush : Bool) (f2 f4 f6 : DWord) : State :=
  { ((((base kernel []).setFraw 2#5 f2).setFraw 4#5 f4).setFraw 6#5 f6).setFcr31 (if flush then 0x01000000#32 else 0#32) with
    hw := { State.reset.hw with variant := if flush then .r12000 else .r10000 } }

/-- Every kind of operand occurs among the single-precision bits `v` gives. -/
abbrev Kinds (v : DWord → Nat) : Prop :=
  unpack fmtS (v 0x7FC00000#64) = .nan true ∧ unpack fmtS (v 0x7FBFFFFF#64) = .nan false ∧
  unpack fmtS (v 0xFF800000#64) = .inf true ∧ unpack fmtS (v 0#64) = .num false 0 (-149) ∧
  isDenorm fmtS (v 1#64) = true ∧ unpack fmtS (v 1#64) = .num false 1 (-149) ∧
  isDenorm fmtS (v 0x7FC00000#64) = false ∧ isDenorm fmtS (v 0x7FBFFFFF#64) = false ∧ isDenorm fmtS (v 0#64) = false ∧
  isDenorm fmtS (v 0xBF800000#64) = false ∧ unpack fmtS (v 0xBF800000#64) = .num true 0x800000 (-23)

/-- The operands of every clause, in each register and mode, and the modes. -/
theorem operand_kinds (flush : Bool) :
    (operands flush 0#64 0#64 0#64).flushMode = flush ∧ (operands flush 0#64 0#64 0#64).cp1Usable = true ∧
    (operands flush 0#64 0#64 0#64).mips4 = true ∧ (operands flush 0#64 0#64 0#64).mips3 = true ∧
    Kinds (fun y => (operands flush y 0#64 0#64).fval false 2#5) ∧ Kinds (fun y => (operands flush 0#64 y 0#64).fval false 4#5) ∧
    Kinds (fun y => (operands flush 0#64 0#64 y).fval false 6#5) := by
  revert flush; decide

/-- The operand kinds of operand_kinds for all three registers; a product that is unimplemented, one that is no number
and one that is; and flushed operands that others decide and do not decide. -/
theorem witness_FpArith :
    (∀ flush, Kinds (fun y => (operands flush y 0#64 0#64).fval false 2#5) ∧ (operands flush 0#64 0#64 0#64).flushMode = flush ∧
      (operands flush 0#64 0#64 0#64).cp1Usable = true ∧ (operands flush 0#64 0#64 0#64).mips4 = true) ∧
    (mulVal fmtS 0#2 false (.num false 0x800000 (-149)) (.num false 0x800000 (-24))).cause.getLsbD 5 = true ∧
    (mulVal fmtS 0#2 false (.inf true) (.num false 0 (-149))).cause.getLsbD 5 = false ∧
    unpack fmtS (mulVal fmtS 0#2 false (.inf true) (.num false 0 (-149))).bits = .nan false ∧
    unpack fmtS (mulVal fmtS 0#2 false (.num true 0x800000 (-23)) (.num true 0x800000 (-23))).bits = .num false 0x800000 (-23) ∧
    (∀ a b, a = (operands true 1#64 0xFF800000#64 0#64).fval false 2#5 →
      b = (operands true 1#64 0xFF800000#64 0#64).fval false 4#5 → isDenorm fmtS a = true ∧ unpack fmtS b = .inf true) ∧
    (∀ a b, a = (operands true 1#64 0#64 0#64).fval false 2#5 → b = (operands true 1#64 0#64 0#64).fval false 4#5 →
      isDenorm fmtS a = true ∧ unpack fmtS b = .num false 0 (-149)) := by
  refine ⟨fun f => ⟨(operand_kinds f).2.2.2.2.1, (operand_kinds f).1, (operand_kinds f).2.1, (operand_kinds f).2.2.1⟩,
    by decide +kernel, by decide +kernel, by decide +kernel, by decide +kernel, ?_, ?_⟩
  all_goals rintro a b rfl rfl; decide

/-- Every kind of operand, with a limit on conversions of 64-bit integers and with none; and integer operands. -/
theorem witness_FpConvert :
    (∀ flush, Kinds (fun y => (operands flush y 0#64 0#64).fval false 2#5) ∧ (operands flush 0#64 0#64 0#64).flushMode = flush ∧
      (operands flush 0#64 0#64 0#64).cp1Usable = true ∧ (operands flush 0#64 0#64 0#64).mips3 = true) ∧
    (∃ l : Option Nat, l = State.reset.hw.longConvLimit) ∧
    ((operands false 0#64 0#64 0#64).readS 2#5).toInt = 0 ∧ ((operands false 5#64 0#64 0#64).readS 2#5).toInt ≠ 0 ∧
    ((operands false 0#64 0#64 0#64).readD 2#5).toInt = 0 ∧ ((operands false 5#64 0#64 0#64).readD 2#5).toInt ≠ 0 :=
  ⟨fun f => ⟨(operand_kinds f).2.2.2.2.1, (operand_kinds f).1, (operand_kinds f).2.1, (operand_kinds f).2.2.2.1⟩, ⟨_, rfl⟩,
    by decide, by decide, by decide, by decide⟩

theorem witness_FpCompare (flush : Bool) :
    (operands flush 0#64 0#64 0#64).flushMode = flush ∧ (operands flush 0#64 0#64 0#64).cp1Usable = true ∧
    (operands flush 0#64 0#64 0#64).mips4 = true ∧ Kinds (fun y => (operands flush y 0#64 0#64).fval false 2#5) ∧
    Kinds (fun y => (operands flush 0#64 y 0#64).fval false 4#5) :=
  ⟨(operand_kinds flush).1, (operand_kinds flush).2.1, (operand_kinds flush).2.2.1, (operand_kinds flush).2.2.2.2.1,
    (operand_kinds flush).2.2.2.2.2.1⟩

theorem witness_FpCondMoves :
    ((base kernel []).cp1Usable = true ∧ (base kernel []).mips4 = true ∧ (base kernel []).fr = true ∧
      (base kernel []).fcc 7#3 = false ∧ (base kernel []).rget 3#5 = 0#64) ∧
    ((base 0x20400000#32 []).cp1Usable = true ∧ (base 0x20400000#32 []).mips4 = true ∧ (base 0x20400000#32 []).fr = false) ∧
    ((base kernel []).setFcr31 0x80000000#32).fcc 7#3 = true ∧ (base kernel [(3#5, 1#64)]).rget 3#5 ≠ 0#64 := by decide

/-- Denormalized, quiet NaN, signaling NaN, infinite, zero and ordinary operands, outside flush mode and in it. -/
theorem witness_FpScreening (flush : Bool) :
    (operands flush 0#64 0#64 0#64).flushMode = flush ∧ Kinds (fun y => (operands flush y 0#64 0#64).fval false 2#5) ∧
    Kinds (fun y => (operands flush 0#64 y 0#64).fval false 4#5) ∧ (0 : Nat) < 0x800000 ∧
    (0x80000000 < 2 ^ (fmtS.eb + fmtS.fb + 1) ∧ unpack fmtS 0x80000000 = .num true 0 (-149)) :=
  ⟨(operand_kinds flush).1, (operand_kinds flush).2.2.2.2.1, (operand_kinds flush).2.2.2.2.2.1, by decide, by decide, by decide⟩

/-- One and one in single precision: every hypothesis of every clause. -/
theorem witness_FpRounding :
    fmtS ∈ [fmtS, fmtD] ∧ unpack fmtS 0x3F800000 = .num false 0x800000 (-23) ∧
    ∀ a : ℚ, a = (unpack fmtS 0x3F800000).toRat → a + a ≠ 0 ∧ a * a ≠ 0 ∧ a ≠ 0 ∧ 0 < a ∧
      (1 : ℤ) ≠ 0 ∧ (1 : ℤ).natAbs ≤ 2 ^ 63 := by
  refine ⟨by simp, by decide, ?_⟩
  rintro a rfl
  have h : (unpack fmtS 0x3F800000).toRat = 1 := by
    rw [show unpack fmtS 0x3F800000 = .num false 0x800000 (-23) by decide]
    norm_num [FVal.toRat]
  rw [h]; norm_num

end Sys2Proof.Machine.Tests
end

section
/-! PROOFS. The family `10_state.md`: the privileged state without access to coprocessor 0 (O32), what a Cold Reset leaves
(O27), and the state after reset (O26, O28). -/

namespace Sys2Proof.Machine

/-! ## The privileged state -/

/-- What an instruction without access to coprocessor 0 leaves alone: CP0 but for what a memory access records in it, the TLB
and the hardware; and the record of the step, which only an exception or a wait writes. -/
structure Privileged where
  cp0  : Cp0
  tlb  : Vector TlbEntry 64
  hw   : Hw
  note : StepNote

/-- The privileged part of a state. -/
def State.privileged (s : State) : Privileged := { cp0 := s.cp0.stable, tlb := s.tlb, hw := s.hw, note := s.note }

@[simp] theorem advance_privileged (s : State) : (advance s).privileged = s.privileged := rfl
@[simp] theorem toTarget_privileged (a : DWord) (s : State) : (toTarget a s).privileged = s.privileged := rfl
@[simp] theorem breakLl_privileged (s : State) : (breakLl s).privileged = s.privileged := rfl
@[simp] theorem State.setHiLo_privileged (s : State) (hi lo : DWord) : (s.setHiLo hi lo).privileged = s.privileged := rfl
@[simp] theorem State.setFcr31_privileged (s : State) (v : Word) : (s.setFcr31 v).privileged = s.privileged := rfl
@[simp] theorem State.setFcc_privileged (s : State) (cc : BitVec 3) (b : Bool) :
    (s.setFcc cc b).privileged = s.privileged := rfl
@[simp] theorem State.setFraw_privileged (s : State) (i : RegNum) (v : DWord) :
    (s.setFraw i v).privileged = s.privileged := rfl

@[simp] theorem State.rset_privileged (s : State) (r : RegNum) (v : DWord) : (s.rset r v).privileged = s.privileged := by
  unfold State.rset; split <;> rfl

@[simp] theorem branchTo_privileged (taken : Bool) (a : DWord) (s : State) :
    (branchTo taken a s).privileged = s.privileged := by
  cases taken <;> rfl

@[simp] theorem likelyTo_privileged (taken : Bool) (a : DWord) (s : State) :
    (likelyTo taken a s).privileged = s.privileged := by
  cases taken <;> rfl

/-- The end of a branch, likely or ordinary. -/
theorem branchEnd_privileged (likely taken : Bool) (a : DWord) (s : State) :
    (if likely then likelyTo taken a s else branchTo taken a s).privileged = s.privileged := by
  cases likely
  · exact branchTo_privileged taken a s
  · exact likelyTo_privileged taken a s

@[simp] theorem State.fstore_privileged (s : State) (d : Bool) (i : RegNum) (v : Nat) :
    (s.fstore d i v).privileged = s.privileged := by
  cases d <;> rfl

@[simp] theorem State.writeMove_privileged (s : State) (i : RegNum) (w : Word) :
    (s.writeMove i w).privileged = s.privileged := by
  unfold State.writeMove
  split
  · rfl
  · split <;> rfl

@[simp] theorem movcHigh_privileged (d : Bool) (fd : RegNum) (s : State) :
    (movcHigh d fd s).privileged = s.privileged := by
  unfold movcHigh; split <;> rfl

/-- The memory system leaves the privileged state alone. -/
theorem KeptLink.privileged {s t : State} (h : KeptLink s t) : t.privileged = s.privileged := by
  unfold State.privileged; rw [h.cp0, h.tlb, h.hw, h.note]

/-- The operating mode is a function of Status. -/
theorem State.mode_congr {s t : State} (h : t.cp0.status = s.cp0.status) : t.mode = s.mode := by
  unfold State.mode State.ksu State.statusBit; rw [h]

/-- CP0 registers that agree but for what a memory access records. -/
theorem Cp0.eq_of_stable {c d : Cp0} (h : d.stable = c.stable) :
    d = { c with watchPending := d.watchPending,
                 perf := { c.perf with missAddr := d.perf.missAddr, syndrome := d.perf.syndrome } } :=
  (congrArg (fun x : Cp0 => { x with
    watchPending := d.watchPending
    perf := { x.perf with missAddr := d.perf.missAddr, syndrome := d.perf.syndrome } }) h :)

/-! ## Exceptions -/

/-- The registers an exception records do not include Status. -/
theorem recordExc_status (e : Exc) (s : State) : (recordExc e s).cp0.status = s.cp0.status := by cases e <;> rfl

/-- An exception sets EXL and no other bit of Status (R1046). -/
theorem takeException_status (e : Exc) (s : State) : (takeException e s).cp0.status = s.cp0.status ||| 2#32 :=
  congrArg (· ||| 2#32) (recordExc_status e s)

/-- With EXL set the mode is Kernel (R46). -/
theorem State.mode_of_exl {s : State} (h : s.statusBit 1 = true) : s.mode = .kernel := by
  unfold State.mode; rw [h]; simp

/-- With ERL set the mode is Kernel (R46). -/
theorem State.mode_of_erl {s : State} (h : s.statusBit 2 = true) : s.mode = .kernel := by
  unfold State.mode; rw [h]; rfl

/-- An exception enters Kernel mode (R1045). -/
theorem takeException_mode (e : Exc) (s : State) : (takeException e s).mode = .kernel :=
  State.mode_of_exl (by unfold State.statusBit; rw [takeException_status]; simp)

/-! ## Pieces of an instruction that keep the privileged state -/

/-- Every state that a piece of an instruction can leave has the privileged state `p`. -/
def Res.Keeps {α : Type} (p : Privileged) (x : Res α) : Prop := Res.Holds (fun t => t.privileged = p) x

section Pieces

variable {p : Privileged} {s : State}

theorem Res.Keeps.bind {α β : Type} {x : Res α} {f : α → State → Res β} (k : x.Keeps p)
    (kf : ∀ a t, t.privileged = p → (f a t).Keeps p) : (x.bind f).Keeps p :=
  Res.Holds.bind k (fun _ => id) kf

/-- An access to memory, with or without the link. -/
theorem Res.Holds.keeps {α : Type} {x : Res α} (k : Res.Holds (KeptLink s) x) (h : s.privileged = p) : x.Keeps p :=
  k.imp fun _ kt => kt.privileged.trans h

variable (h : s.privileged = p)
include h

theorem needMips3_keeps : (needMips3 s).Keeps p := by unfold needMips3; split <;> exact h
theorem needMips4_keeps : (needMips4 s).Keeps p := by unfold needMips4; split <;> exact h
theorem needCp1_keeps : (needCp1 s).Keeps p := by unfold needCp1; split <;> exact h
theorem needCop1x_keeps : (needCop1x s).Keeps p := (needMips4_keeps h).bind fun _ _ => needCp1_keeps

theorem needEvenDouble_keeps (i : RegNum) : (needEvenDouble i s).Keeps p := by
  unfold needEvenDouble
  split
  · exact h
  · trivial

theorem notInSlot_keeps : (notInSlot s).Keeps p := by
  unfold notInSlot
  split
  · trivial
  · exact h

theorem trapping_keeps (ovf : Bool) (v : DWord) : (trapping ovf v s).Keeps p := by unfold trapping; split <;> exact h

theorem moveIf_keeps (c : Bool) (rd : RegNum) (v : DWord) : (moveIf c rd v s).Keeps p := by
  cases c
  · exact h
  · exact (s.rset_privileged rd v).trans h

/-- The end of a floating-point operation that writes no privileged state. -/
theorem fpComplete_keeps (c : BitVec 6) {write : State → State} (hw : ∀ t, (write t).privileged = t.privileged) :
    (fpComplete c write s).Keeps p := by
  unfold fpComplete
  dsimp only
  split
  · exact h
  · exact (hw _).trans h

theorem fpResult_keeps (d : Bool) (fd : RegNum) (r : FRes) : (fpResult d fd r s).Keeps p :=
  fpComplete_keeps h _ fun t => t.fstore_privileged d fd r.bits

theorem needFpOp_keeps (enabled : Bool) : (needFpOp enabled s).Keeps p := by
  refine (needCp1_keeps h).bind fun _ t ht => ?_
  split
  · exact ht
  · exact fpComplete_keeps ht _ fun _ => rfl

theorem fpLoadWord_keeps (ft : RegNum) (va : State → DWord) : (fpLoadWord ft va s).Keeps p :=
  ((memRead_holds _ _ s).keeps h).bind fun v t ht => (t.writeMove_privileged ft (v.setWidth 32)).trans ht

theorem fpLoadDouble_keeps (ft : RegNum) (va : State → DWord) : (fpLoadDouble ft va s).Keeps p :=
  (needEvenDouble_keeps h ft).bind fun _ t ht => ((memRead_holds _ _ t).keeps ht).bind fun _ _ hu => hu

theorem fpStoreWord_keeps (ft : RegNum) (va : State → DWord) : (fpStoreWord ft va s).Keeps p :=
  (memWrite_holds _ _ _ s).keeps h

theorem fpStoreDouble_keeps (ft : RegNum) (va : State → DWord) : (fpStoreDouble ft va s).Keeps p :=
  (needEvenDouble_keeps h ft).bind fun _ t ht => (memWrite_holds _ _ _ t).keeps ht

end Pieces

/-- Without access to coprocessor 0 nothing comes after the gate: the instruction raises Coprocessor Unusable (R710). -/
theorem needCp0_bind_keeps {α : Type} {s : State} (h : s.cp0Usable = false) (f : Unit → State → Res α) :
    ((needCp0 s).bind f).Keeps s.privileged := by
  rw [needCp0_off h]; exact rfl

/-! ## Outcomes -/

/-- The outcome of an instruction confined by R45: a next state keeps the privileged state, or has just entered Kernel mode by
an exception. -/
def Confined (s : State) (o : Out) : Prop :=
  s.note = .done → ∀ t, o = .next t →
    t.tlb = s.tlb ∧ t.hw = s.hw ∧
    ((t.note = .done ∨ t.note = .waiting) ∧ t.mode = s.mode ∧
        t.cp0 = { s.cp0 with watchPending := t.cp0.watchPending,
                             perf := { s.cp0.perf with missAddr := t.cp0.perf.missAddr,
                                                       syndrome := t.cp0.perf.syndrome } } ∨
      ∃ e, t.note = .raised e ∧ t.mode = .kernel ∧ t.cp0.status = s.cp0.status ||| 2#32)

/-- A piece that keeps the privileged state ends in a confined outcome: completed and waiting states keep it, and an exception
enters Kernel mode. -/
theorem Confined.finishAt {s : State} {x : Res Unit} (h : x.Keeps s.privileged) : Confined s x.finishAt := by
  rintro hn t ht
  cases x with
  | ok _ u =>
    obtain rfl : u = t := by simpa using ht
    have hc : u.cp0.stable = s.cp0.stable := congrArg Privileged.cp0 h
    exact ⟨congrArg Privileged.tlb h, congrArg Privileged.hw h, .inl ⟨.inl ((congrArg Privileged.note h).trans hn),
      State.mode_congr (congrArg Cp0.status hc :), Cp0.eq_of_stable hc⟩⟩
  | retry u =>
    obtain rfl : { u with note := .waiting } = t := by simpa [Res.finishAt] using ht
    have hc : u.cp0.stable = s.cp0.stable := congrArg Privileged.cp0 h
    exact ⟨congrArg Privileged.tlb h, congrArg Privileged.hw h,
      .inl ⟨.inr rfl, State.mode_congr (congrArg Cp0.status hc :), Cp0.eq_of_stable hc⟩⟩
  | exc e u =>
    obtain rfl : takeException e u = t := by simpa using ht
    have hc : u.cp0.stable = s.cp0.stable := congrArg Privileged.cp0 h
    refine ⟨(takeException_tlb u e).trans (congrArg Privileged.tlb h),
      (takeException_hw u e).trans (congrArg Privileged.hw h),
      .inr ⟨e, takeException_note u e, takeException_mode e u, (takeException_status e u).trans ?_⟩⟩
    exact congrArg (· ||| 2#32) (congrArg Cp0.status hc :)
  | fault f => cases ht
  | refuse r => cases ht

theorem Confined.finish {s : State} {x : Res Unit} (h : x.Keeps s.privileged) : Confined s x.finish :=
  .finishAt (h.bind fun _ _ ht => ht)

theorem Confined.finishGpr {s : State} {rd : RegNum} {x : Res DWord} (h : x.Keeps s.privileged) :
    Confined s (Res.finishGpr rd x) :=
  .finish (h.bind fun v t ht => (t.rset_privileged rd v).trans ht)

/-! ## The shapes of the meanings -/

section Shapes

variable (s : State)

theorem aluOp_confined (rd : RegNum) (v : State → DWord) : Confined s (aluOp rd v s) :=
  .finishGpr (x := .ok (v s) s) rfl

theorem aluOp64_confined (rd : RegNum) (v : State → DWord) : Confined s (aluOp64 rd v s) :=
  .finishGpr (.bind (needMips3_keeps rfl) fun _ _ ht => ht)

theorem hiLoOp_confined (hi lo : State → DWord) : Confined s (hiLoOp hi lo s) :=
  .finish (x := .ok () (s.setHiLo (hi s) (lo s))) rfl

theorem hiLoOp64_confined (hi lo : State → DWord) : Confined s (hiLoOp64 hi lo s) :=
  .finish (.bind (needMips3_keeps rfl) fun _ _ ht => ht)

theorem jumpOp_confined (target : DWord) (link : Option RegNum) : Confined s (jumpOp target link s) := by
  refine .finishAt (.bind (notInSlot_keeps rfl) fun _ t ht => ?_)
  cases link with
  | none => exact ht
  | some rd => exact (t.rset_privileged rd _).trans ht

theorem condOp_confined (likely taken : Bool) (link : Option RegNum) (offset : BitVec 16) :
    Confined s (condOp likely taken link offset s) := by
  refine .finishAt (.bind (notInSlot_keeps rfl) fun _ t ht => ?_)
  cases link with
  | none => exact (branchEnd_privileged _ _ _ t).trans ht
  | some rd => exact (branchEnd_privileged _ _ _ _).trans ((t.rset_privileged rd _).trans ht)

theorem fpBranchOp_confined (likely want : Bool) (cc : BitVec 3) (offset : BitVec 16) :
    Confined s (fpBranchOp likely want cc offset s) := by
  refine .finishAt (.bind (needCp1_keeps rfl) fun _ t ht => Res.Keeps.bind ?_ fun _ u hu => ?_)
  · split
    · exact ht
    · exact notInSlot_keeps ht
  · exact (branchEnd_privileged _ _ _ u).trans hu

theorem trapOp_confined (c : Bool) : Confined s (trapOp c s) :=
  .finish (by split <;> exact rfl)

theorem raise_confined (e : Exc) : Confined s (raise e s) := .finish (x := .exc e s) rfl

theorem loadOp_confined (n : Nat) (f : DWord → DWord) (base rt : RegNum) (offset : BitVec 16) :
    Confined s (loadOp n f base rt offset s) :=
  .finishGpr (.bind ((memRead_holds _ n s).keeps rfl) fun _ _ ht => ht)

theorem loadOp64_confined (n : Nat) (f : DWord → DWord) (base rt : RegNum) (offset : BitVec 16) :
    Confined s (loadOp64 n f base rt offset s) :=
  .finishGpr (.bind (needMips3_keeps rfl) fun _ t ht => .bind ((memRead_holds _ n t).keeps ht) fun _ _ hu => hu)

theorem storeOp_confined (n : Nat) (base rt : RegNum) (offset : BitVec 16) : Confined s (storeOp n base rt offset s) :=
  .finish ((memWrite_holds _ n _ s).keeps rfl)

theorem execSync_confined (stype : BitVec 5) : Confined s (execSync stype s) :=
  .finish (by split <;> exact rfl)

theorem fpArith_confined (enabled d : Bool) (fd : RegNum) (r : State → FRes) : Confined s (fpArith enabled d fd r s) :=
  .finish (.bind (needFpOp_keeps rfl enabled) fun _ t ht => fpResult_keeps ht d fd (r t))

theorem maddOp_confined (d sub neg : Bool) (fr fs ft fd : RegNum) : Confined s (maddOp d sub neg fr fs ft fd s) :=
  .finish (.bind (needCop1x_keeps rfl) fun _ _ ht => fpResult_keeps ht d fd _)

theorem compareOp_confined (d : Bool) (cond : BitVec 4) (cc : BitVec 3) (fs ft : RegNum) :
    Confined s (compareOp d cond cc fs ft s) :=
  .finish (.bind (needFpOp_keeps rfl _) fun _ _ ht => fpComplete_keeps ht _ fun u => u.setFcc_privileged cc _)

theorem fpMoveIf_confined (d : Bool) (c : State → Bool) (fs fd : RegNum) : Confined s (fpMoveIf d c fs fd s) := by
  refine .finish (.bind (needFpOp_keeps rfl _) fun _ _ ht => fpComplete_keeps ht _ fun u => ?_)
  rw [movcHigh_privileged]
  split
  · exact u.fstore_privileged d fd _
  · rfl

theorem execCtc1_confined (rt fs : RegNum) : Confined s (execCtc1 rt fs s) := by
  refine .finish (.bind (needCp1_keeps rfl) fun _ t ht => ?_)
  split
  · dsimp only; split <;> exact ht
  · exact ht

end Shapes

/-! ## Every instruction -/

/-- One case for each shape of meaning: no shape but those behind the coprocessor 0 gate can write the privileged state. -/
theorem exec_confined (i : Instr) {s : State} (hc : s.cp0Usable = false) : Confined s (exec i s) := by
  unfold exec
  cases i with
  | addu | subu | addiu | and | or | xor | nor | andi | ori | xori | lui | slt | sltu | slti | sltiu | sll | srl | sra
  | sllv | srlv | srav => exact aluOp_confined s _ _
  | daddu | dsubu | daddiu | dsll | dsrl | dsra | dsllv | dsrlv | dsrav | dsll32 | dsrl32 | dsra32 =>
    exact aluOp64_confined s _ _
  | add | sub | addi => exact .finishGpr (trapping_keeps rfl _ _)
  | dadd | dsub | daddi => exact .finishGpr (.bind (needMips3_keeps rfl) fun _ _ ht => trapping_keeps ht _ _)
  | movn | movz => exact .finish (.bind (needMips4_keeps rfl) fun _ _ ht => moveIf_keeps ht _ _ _)
  | movf | movt => exact .finish (.bind (needCop1x_keeps rfl) fun _ _ ht => moveIf_keeps ht _ _ _)
  | mult | multu | div | divu | mthi | mtlo => exact hiLoOp_confined s _ _
  | dmult | dmultu | ddiv | ddivu => exact hiLoOp64_confined s _ _
  | mfhi => exact aluOp_confined s _ (fun s => s.hi)
  | mflo => exact aluOp_confined s _ (fun s => s.lo)
  | lb | lbu | lh | lhu | lw => exact loadOp_confined s _ _ _ _ _
  | lwu | ld => exact loadOp64_confined s _ _ _ _ _
  | sb | sh | sw => exact storeOp_confined s _ _ _ _
  | sd => exact .finish (.bind (needMips3_keeps rfl) fun _ t ht => (memWrite_holds _ _ _ t).keeps ht)
  | lwl | lwr =>
    exact .finishGpr (.bind ((unalignedRead_holds _ _ _ s).keeps rfl) fun _ _ ht => ht)
  | ldl | ldr =>
    exact .finishGpr (.bind (needMips3_keeps rfl) fun _ t ht =>
      .bind ((unalignedRead_holds _ _ _ t).keeps ht) fun _ _ hu => hu)
  | swl | swr => exact .finish ((unalignedWrite_holds _ _ _ _ s).keeps rfl)
  | sdl | sdr =>
    exact .finish (.bind (needMips3_keeps rfl) fun _ t ht => (unalignedWrite_holds _ _ _ _ t).keeps ht)
  | ll => exact .finishGpr (.bind ((linkedRead_holds _ _ s).keeps rfl) fun _ _ ht => ht)
  | lld => exact .finishGpr (.bind (needMips3_keeps rfl) fun _ t ht => (linkedRead_holds _ _ t).keeps ht)
  | sc => exact .finishGpr (.bind ((conditionalWrite_holds _ _ _ s).keeps rfl) fun _ _ ht => ht)
  | scd =>
    exact .finishGpr (.bind (needMips3_keeps rfl) fun _ t ht =>
      .bind ((conditionalWrite_holds _ _ _ t).keeps ht) fun _ _ hu => hu)
  | sync => exact execSync_confined s _
  | pref =>
    exact .finish (.bind (needMips4_keeps rfl) fun _ t ht => (prefetch_kept _ _ t).privileged.trans ht)
  | prefx =>
    exact .finish (.bind (needCop1x_keeps rfl) fun _ t ht => (prefetch_kept _ _ t).privileged.trans ht)
  | j | jal | jr | jalr => exact jumpOp_confined s _ _
  | beq | bne | blez | bgtz | bltz | bgez | bltzal | bgezal | beql | bnel | blezl | bgtzl | bltzl | bgezl | bltzall
  | bgezall => exact condOp_confined s _ _ _ _
  | bc1f | bc1t | bc1fl | bc1tl => exact fpBranchOp_confined s _ _ _ _
  | tge | tgeu | tlt | tltu | teq | tne | tgei | tgeiu | tlti | tltiu | teqi | tnei => exact trapOp_confined s _
  | syscall | brk | cop2 | lwc2 | swc2 | ldc2 | sdc2 => exact raise_confined s _
  | mfc0 | dmfc0 => exact .finishGpr (needCp0_bind_keeps hc _)
  | mtc0 | dmtc0 | tlbr | tlbwi | tlbwr | tlbp | rfe | cache => exact .finish (needCp0_bind_keeps hc _)
  | eret => exact .finishAt (needCp0_bind_keeps hc _)
  | mfc1 | cfc1 => exact .finishGpr (.bind (needCp1_keeps rfl) fun _ _ ht => ht)
  | dmfc1 =>
    exact .finishGpr (.bind (needCp1_keeps rfl) fun _ _ ht => .bind (needMips3_keeps ht) fun _ _ hu =>
      .bind (needEvenDouble_keeps hu _) fun _ _ hv => hv)
  | mtc1 =>
    exact .finish (.bind (needCp1_keeps rfl) fun _ t ht => (t.writeMove_privileged _ _).trans ht)
  | dmtc1 =>
    exact .finish (.bind (needCp1_keeps rfl) fun _ _ ht => .bind (needMips3_keeps ht) fun _ _ hu =>
      .bind (needEvenDouble_keeps hu _) fun _ _ hv => hv)
  | ctc1 => exact execCtc1_confined s _ _
  | lwc1 => exact .finish (.bind (needCp1_keeps rfl) fun _ _ ht => fpLoadWord_keeps ht _ _)
  | ldc1 => exact .finish (.bind (needCp1_keeps rfl) fun _ _ ht => fpLoadDouble_keeps ht _ _)
  | swc1 => exact .finish (.bind (needCp1_keeps rfl) fun _ _ ht => fpStoreWord_keeps ht _ _)
  | sdc1 => exact .finish (.bind (needCp1_keeps rfl) fun _ _ ht => fpStoreDouble_keeps ht _ _)
  | lwxc1 => exact .finish (.bind (needCop1x_keeps rfl) fun _ _ ht => fpLoadWord_keeps ht _ _)
  | ldxc1 => exact .finish (.bind (needCop1x_keeps rfl) fun _ _ ht => fpLoadDouble_keeps ht _ _)
  | swxc1 => exact .finish (.bind (needCop1x_keeps rfl) fun _ _ ht => fpStoreWord_keeps ht _ _)
  | sdxc1 => exact .finish (.bind (needCop1x_keeps rfl) fun _ _ ht => fpStoreDouble_keeps ht _ _)
  | addS | addD | subS | subD | mulS | mulD | divS | divD | sqrtS | sqrtD | absS | absD | movS | movD | negS | negD
  | roundLS | roundLD | truncLS | truncLD | ceilLS | ceilLD | floorLS | floorLD | roundWS | roundWD | truncWS | truncWD
  | ceilWS | ceilWD | floorWS | floorWD | cvtSD | cvtSW | cvtSL | cvtDS | cvtDW | cvtDL | cvtWS | cvtWD | cvtLS | cvtLD
  | recipS | recipD | rsqrtS | rsqrtD => exact fpArith_confined s _ _ _ _
  | movfS | movfD | movtS | movtD | movzS | movzD | movnS | movnD => exact fpMoveIf_confined s _ _ _ _
  | maddS | maddD | msubS | msubD | nmaddS | nmaddD | nmsubS | nmsubD => exact maddOp_confined s _ _ _ _ _ _ _
  | cFS | cUnS | cEqS | cUeqS | cOltS | cUltS | cOleS | cUleS | cSfS | cNgleS | cSeqS | cNglS | cLtS | cNgeS | cLeS
  | cNgtS | cFD | cUnD | cEqD | cUeqD | cOltD | cUltD | cOleD | cUleD | cSfD | cNgleD | cSeqD | cNglD | cLtD | cNgeD
  | cLeD | cNgtD => exact compareOp_confined s _ _ _ _ _

/-- Settles O32: by the shape of each meaning, `exec_confined`. -/
theorem userPrivilege : Obligations.UserPrivilege := by
  unfold Obligations.UserPrivilege
  exact fun i _ t hc hn ht => exec_confined i hc hn t ht

/-! ## The state after a reset -/

section Cold

variable (hw : Hw) (e : BitVec 64) (mem : Memory) (c : Caches) (x : Ext) (n : Nat)

theorem State.cold_rget (r : RegNum) : (State.cold hw e mem c x n).rget r = 0#64 := by
  unfold State.rget
  split
  · rfl
  · exact Vector.getElem_replicate _

theorem State.cold_fraw (q : RegNum) : (State.cold hw e mem c x n).fraw q = 0#64 := Vector.getElem_replicate _

/-- No entry of the TLB matches after a reset (log 4). -/
theorem State.cold_tlbAt (i : Nat) : (State.cold hw e mem c x n).tlbAt i = TlbEntry.empty := by
  show (Vector.replicate 64 TlbEntry.empty).toList.getD i TlbEntry.empty = _
  rw [Vector.toList_replicate, List.getD_eq_getElem?_getD, List.getElem?_replicate]
  split <;> rfl

end Cold

/-- Settles O26: nothing is listed in memory or the caches, and the reserved fields are zero. -/
theorem resetInvariant : Obligations.ResetInvariant := by
  unfold Obligations.ResetInvariant
  exact ⟨rfl, by decide⟩

/-- Settles O28: the registers by `State.cold_rget` and `State.cold_fraw`, the TLB by `State.cold_tlbAt`, the rest as
`State.reset` writes it. -/
theorem resetState : Obligations.ResetState := by
  unfold Obligations.ResetState
  rintro s rfl
  exact ⟨rfl, rfl, rfl, State.mode_of_erl rfl, State.cold_rget _ _ _ _ _ _, rfl, rfl, State.cold_fraw _ _ _ _ _ _,
    rfl, rfl, rfl, rfl, rfl, by decide, by decide, by decide, rfl, fun _ => rfl, fun _ _ => ⟨rfl, rfl, rfl⟩,
    fun i => congrArg TlbEntry.matchable (State.cold_tlbAt _ _ _ _ _ _ i)⟩

/-! ## Config -/

/-- Config as a number: its fields by their weights (R130). -/
theorem State.configReg_toNat (s : State) :
    s.configReg.toNat = ((27 * 4 + (s.isR12k && s.hw.modeBits.getLsbD 24).toNat) * 4 * 524288 +
      (s.hw.modeBits.extractLsb' 3 19).toNat) * 8 + s.cp0.k0.toNat := by
  unfold State.configReg
  rw [BitVec.toNat_cast]
  simp only [append_toNat, BitVec.toNat_ofBool]
  rfl

/-- Config[31:26] holds the sizes of the primary caches. -/
theorem State.configReg_sizes (s : State) : s.configReg.extractLsb' 26 6 = 0b011011#6 := by
  apply BitVec.eq_of_toNat_eq
  rw [BitVec.extractLsb'_toNat, configReg_toNat, Nat.shiftRight_eq_div_pow]
  have := Bool.toNat_lt (s.isR12k && s.hw.modeBits.getLsbD 24)
  have := (s.hw.modeBits.extractLsb' 3 19).isLt; have := s.cp0.k0.isLt
  simp only [BitVec.toNat_ofNat]
  omega

/-- Config[21:3] holds the mode bits of the same places. -/
theorem State.configReg_modeBits (s : State) : s.configReg.extractLsb' 3 19 = s.hw.modeBits.extractLsb' 3 19 := by
  apply BitVec.eq_of_toNat_eq
  rw [show (s.configReg.extractLsb' 3 19).toNat = _ from BitVec.extractLsb'_toNat .., configReg_toNat, Nat.shiftRight_eq_div_pow]
  have := (s.hw.modeBits.extractLsb' 3 19).isLt; have := s.cp0.k0.isLt
  omega

/-- Config[2:0] is K0. -/
theorem State.configReg_k0 (s : State) : s.configReg.extractLsb' 0 3 = s.cp0.k0 := by
  apply BitVec.eq_of_toNat_eq
  rw [BitVec.extractLsb'_toNat, configReg_toNat, Nat.shiftRight_eq_div_pow]
  have := s.cp0.k0.isLt
  omega

/-! ## The performance controls at the end of a step -/

@[simp] theorem addCounter_ctl (p : Perf) (n : Fin 4) (d : Nat) : (addCounter p n d).ctl = p.ctl := by
  unfold addCounter; split <;> rfl

@[simp] theorem triggerCounter_ctl (p : Perf) : (triggerCounter p).ctl = p.ctl := rfl

@[simp] theorem windowCounter_ctl (p : Perf) (d : Nat) : (windowCounter p d).ctl = p.ctl := rfl

theorem triggeredPerf_ctl (p : Perf) (oneShotOnly : Bool) (d0 d1 d2 d3 : Nat) :
    (triggeredPerf p oneShotOnly d0 d1 d2 d3).ctl = p.ctl := by
  unfold triggeredPerf
  dsimp only
  split
  · rw [triggerCounter_ctl]; split <;> simp
  · split <;> simp

/-- The counters advance at the end of a step; the control registers are as they were. -/
theorem tickPerf_ctl (s : State) (r : StepRecord) (p : Perf) : (tickPerf s r p).ctl = p.ctl := by
  unfold tickPerf
  dsimp only
  split
  · exact triggeredPerf_ctl p _ _ _ _ _
  · simp

/-! ## A Cold Reset -/

/-- The cache test mode heeds a Cold Reset as well (R1020). -/
theorem envEvent_coldReset (m : BitVec 64) (s : State) : envEvent (.coldReset m) s = coldReset m s :=
  if_pos (by unfold heeded; simp)

/-- Reserved mode bits are refused (log 37). -/
theorem coldReset_reserved {s : State} {m : BitVec 64} (hr : reservedMode s.hw.variant m = true) :
    coldReset m s = .refuse .reservedModeBits := if_pos hr

/-- With good mode bits the machine is as after power-on, with its memory and caches, its pc in ErrorEPC, and no error or NMI
latched. -/
theorem coldReset_ok {s : State} {m : BitVec 64} (hr : reservedMode s.hw.variant m = false) :
    ∃ x : Ext, x.nmiLatch = false ∧ x.posted = .none ∧
      coldReset m s = .ok () (State.cold { s.hw with modeBits := m } s.pc s.mem s.caches x (s.steps + 1)) := by
  refine ⟨{ resetExt s with nmiLatch := false, test := _ }, rfl, rfl, if_neg ?_⟩
  rw [hr]; exact Bool.false_ne_true

theorem step_coldReset_reserved {s : State} {m : BitVec 64} {es : List EnvEvent} (h : s.ext.inbox = .coldReset m :: es)
    (hr : reservedMode s.hw.variant m = true) : step s = .refused .reservedModeBits := by
  rw [step_event h nofun, envEvent_coldReset, coldReset_reserved]
  · rfl
  · exact hr

/-- A step that takes a Cold Reset ends in the reset state with its counters advanced. -/
theorem step_coldReset {s : State} {m : BitVec 64} {es : List EnvEvent} (h : s.ext.inbox = .coldReset m :: es)
    (hr : reservedMode s.hw.variant m = false) :
    ∃ x : Ext, x.nmiLatch = false ∧ x.posted = .none ∧ step s = .next (tick s.fresh none
      (State.cold { s.hw with modeBits := m } s.pc s.mem s.caches x (s.steps + 1))) := by
  obtain ⟨x, hnmi, hposted, hx⟩ := coldReset_ok (s := { s.fresh with ext := { s.ext with inbox := es } }) hr
  refine ⟨x, hnmi, hposted, ?_⟩
  rw [step_event h nofun, envEvent_coldReset, hx]
  rfl

/-- Status after a Cold Reset: ERL and BEV alone (R70). -/
theorem tick_cold_statusBit (pre : State) (hw : Hw) (e : BitVec 64) (mem : Memory) (c : Caches) (x : Ext) (n k : Nat) :
    (tick pre none (State.cold hw e mem c x n)).statusBit k = (0x00400004#32).getLsbD k := rfl

/-- At its bound Random is 63 (R83). -/
theorem State.random_bound {s : State} (h : s.cp0.randomBoundStep = s.steps) : s.random = 63#6 := if_pos h

/-- After a Cold Reset no performance counter has an event selected. -/
theorem tickPerf_reset_ctl (s : State) (r : StepRecord) (k : Fin 4) : (tickPerf s r Perf.reset).ctl.get k = 0#32 := by
  rw [tickPerf_ctl]; exact Vector.getElem_replicate _

/-- Settles O27: what `step_coldReset` leaves is the reset state, and the counters that then advance are none of the fields
named.  (`coldReset` itself is the model's function.) -/
theorem Settled.coldReset : Obligations.ColdReset := by
  unfold Obligations.ColdReset
  intro s m es hi
  refine ⟨step_coldReset_reserved hi, fun hr => ?_⟩
  obtain ⟨x, hnmi, hposted, hstep⟩ := step_coldReset hi hr
  have hstatus := tick_cold_statusBit s.fresh { s.hw with modeBits := m } s.pc s.mem s.caches x (s.steps + 1)
  refine ⟨_, hstep, rfl, rfl, hstatus 2, hstatus 22, hstatus 20, hstatus 21, State.mode_of_erl (hstatus 2), rfl,
    State.configReg_modeBits _, ?_, State.configReg_sizes _, rfl, State.random_bound rfl, BitVec.getLsbD_zero,
    rfl, rfl, rfl, hnmi, hposted, rfl, rfl, rfl, fun k => ⟨?_, fun _ => ?_⟩, rfl⟩
  · exact (State.configReg_k0 _).trans (show m.setWidth 3 = _ from BitVec.setWidth_eq_extractLsb' (by decide))
  · exact congrArg (BitVec.extractLsb' 5 4) (tickPerf_reset_ctl _ _ k)
  · exact congrArg (BitVec.extractLsb' 5 5) (tickPerf_reset_ctl _ _ k)

end Sys2Proof.Machine
end

section
/-! PROOFS. The family `11_cp0_registers.md`: every step keeps memory and the caches canonical and the reserved fields zero
(O25).  Each piece of the model keeps the invariant `State.Sound`: the memory system because it writes no reserved field, the
writers of a register with reserved bits because what they write lies within its mask. -/

namespace Sys2Proof.Machine

/-! ## Values within a mask -/

/-- `v` has no bit outside the mask `m`. -/
abbrev Within {n : Nat} (v m : BitVec n) : Prop := v &&& ~~~m = 0#n

namespace Within

variable {n : Nat} {v w m : BitVec n}

theorem zero (m : BitVec n) : Within 0#n m := BitVec.zero_and

theorem ones (v : BitVec n) : Within v (BitVec.allOnes n) := by
  rw [Within, BitVec.not_allOnes]; exact BitVec.and_zero

theorem masked (v m : BitVec n) : Within (v &&& m) m := by
  rw [Within, BitVec.and_assoc, BitVec.and_not_self]; exact BitVec.and_zero

theorem or (h : Within v m) (k : Within w m) : Within (v ||| w) m := by
  rw [Within, BitVec.and_or_distrib_right, h, k, BitVec.or_zero]

theorem and (h : Within v m) (w : BitVec n) : Within (v &&& w) m := by
  rw [Within, BitVec.and_assoc, BitVec.and_comm w, ← BitVec.and_assoc, h, BitVec.zero_and]

theorem widen (h : Within v m) (w : BitVec n) : Within v (m ||| w) := by
  rw [Within, BitVec.not_or, ← BitVec.and_assoc, h, BitVec.zero_and]

theorem append {k : Nat} {x y : BitVec k} (h : Within v m) (hx : Within x y) : Within (v ++ x) (m ++ y) := by
  rw [Within, BitVec.not_append, BitVec.and_append, h, hx, BitVec.zero_append_zero]

end Within

/-- The bits of Status that are not reserved (R103). -/
def statusFields (r12k : Bool) : Word := statusMask r12k ||| 0x00200000#32

/-- The R12000 has every field of the R10000's Status. -/
theorem Within.of_r10000 {v : Word} (h : Within v (statusFields false)) (r12k : Bool) : Within v (statusFields r12k) := by
  cases r12k
  · exact h
  · exact h.widen 0x01000000#32

theorem entryHiOf_within (r : BitVec 2) (vpn2 : BitVec 31) (asid : BitVec 8) :
    Within (entryHiOf r vpn2 asid) entryHiMask :=
  show Within (r ++ 0#18 ++ vpn2 ++ 0#5 ++ asid)
      (BitVec.allOnes 2 ++ 0#18 ++ BitVec.allOnes 31 ++ 0#5 ++ BitVec.allOnes 8) from
    ((((Within.ones r).append (.zero _)).append (.ones vpn2)).append (.zero _)).append (.ones asid)

theorem entryLoOf_within (p : TlbPage) (g : Bool) : Within (entryLoOf p g) entryLoMask :=
  show Within (p.uc ++ 0#28 ++ p.pfn ++ p.c ++ BitVec.ofBool p.d ++ BitVec.ofBool p.v ++ BitVec.ofBool g)
      (BitVec.allOnes 2 ++ 0#28 ++ BitVec.allOnes 28 ++ BitVec.allOnes 3 ++ BitVec.allOnes 1 ++ BitVec.allOnes 1 ++
        BitVec.allOnes 1) from
    ((((((Within.ones _).append (.zero _)).append (.ones _)).append (.ones _)).append (.ones _)).append (.ones _)).append
      (.ones _)

theorem fccField_within (cc : BitVec 3) (b : Bool) :
    Within ((BitVec.ofBool b).setWidth 32 <<< fccBit cc) fcr31Mask := by
  revert cc b; decide

theorem causeField_within (c : BitVec 6) : Within (c.setWidth 32 <<< 12) fcr31Mask := by
  revert c; decide

theorem flagsField_within (f : BitVec 5) : Within (f.setWidth 32 <<< 2) fcr31Mask := by
  revert f; decide

theorem chField_within (b : Bool) : Within (bitAt b 18) (statusFields false) := by
  revert b; decide

/-- The low four bits of a value whose low `j` bits come from `x`. -/
theorem setWidth_four_append_extract {n j : Nat} (high : BitVec n) (x : DWord) (hj : 4 ≤ j) :
    (high ++ x.extractLsb' 0 j).setWidth 4 = x.setWidth 4 := by
  rw [BitVec.setWidth_append, dif_pos hj]
  ext i hi
  simp only [BitVec.getElem_setWidth, BitVec.getLsbD_extractLsb', Nat.zero_add, decide_eq_true (Nat.lt_of_lt_of_le hi hj),
    Bool.true_and]

/-! ## The invariant -/

/-- The registers with reserved fields, and the variant, which says what Status reserves. -/
structure Reserved where
  r12k     : Bool
  status   : Word
  fcr31    : Word
  entryLo0 : DWord
  entryLo1 : DWord
  entryHi  : DWord
  context  : DWord
  xcontext : DWord
  watchLo  : Word
  watchHi  : Word

/-- The registers of a state that have reserved fields. -/
def State.reserved (s : State) : Reserved :=
  { r12k := s.isR12k, status := s.cp0.status, fcr31 := s.fpu.fcr31, entryLo0 := s.cp0.entryLo0, entryLo1 := s.cp0.entryLo1,
    entryHi := s.cp0.entryHi, context := s.cp0.context, xcontext := s.cp0.xcontext, watchLo := s.cp0.watchLo,
    watchHi := s.cp0.watchHi }

/-- Every reserved field is zero. -/
structure Reserved.Clear (x : Reserved) : Prop where
  status   : Within x.status (statusFields x.r12k)
  fcr31    : Within x.fcr31 fcr31Mask
  entryLo0 : Within x.entryLo0 entryLoMask
  entryLo1 : Within x.entryLo1 entryLoMask
  entryHi  : Within x.entryHi entryHiMask
  context  : x.context.setWidth 4 = 0#4
  xcontext : x.xcontext.setWidth 4 = 0#4
  watchLo  : Within x.watchLo (~~~4#32)
  watchHi  : Within x.watchHi 0xFF#32

/-- `Reserved.Clear` says of a state what the model's `reservedClear` tests. -/
theorem State.reservedClear_iff (s : State) : s.reservedClear = true ↔ s.reserved.Clear := by
  unfold State.reservedClear
  simp only [Bool.and_eq_true, beq_iff_eq]
  constructor
  · rintro ⟨⟨⟨⟨⟨⟨⟨⟨status, fcr31⟩, entryLo0⟩, entryLo1⟩, entryHi⟩, context⟩, xcontext⟩, watchLo⟩, watchHi⟩
    exact { status, fcr31, entryLo0, entryLo1, entryHi, context, xcontext, watchLo, watchHi }
  · rintro ⟨status, fcr31, entryLo0, entryLo1, entryHi, context, xcontext, watchLo, watchHi⟩
    exact ⟨⟨⟨⟨⟨⟨⟨⟨status, fcr31⟩, entryLo0⟩, entryLo1⟩, entryHi⟩, context⟩, xcontext⟩, watchLo⟩, watchHi⟩

/-- The invariant of every step: memory and the caches are canonical, and the reserved fields are zero. -/
structure State.Sound (s : State) : Prop where
  canon : s.canonical = true
  clear : s.reserved.Clear

/-! ## The memory system -/

theorem KeptLink.sound {s t : State} (k : KeptLink s t) (h : s.Sound) : t.Sound where
  canon := k.canon h.canon
  clear := (show t.reserved = s.reserved from (congrArg State.reserved k.stable :)) ▸ h.clear

theorem Kept.sound {s t : State} (k : Kept s t) (h : s.Sound) : t.Sound := k.link.sound h

theorem Served.sound {s t : State} (k : Served s t) (h : s.Sound) : t.Sound := k.kept.sound ⟨h.canon, h.clear⟩

/-! ## Registers -/

namespace State.Sound

variable {s : State} (h : s.Sound)
include h

theorem rset (r : RegNum) (v : DWord) : (s.rset r v).Sound := by
  unfold State.rset
  split
  · exact h
  · exact ⟨h.canon, h.clear⟩

theorem advance : (advance s).Sound := ⟨h.canon, h.clear⟩

theorem withExt (e : Ext) : ({ s with ext := e } : State).Sound := ⟨h.canon, h.clear⟩

theorem wait : ({ s with note := .waiting } : State).Sound := ⟨h.canon, h.clear⟩

theorem setFraw (i : RegNum) (v : DWord) : (s.setFraw i v).Sound := ⟨h.canon, h.clear⟩

theorem fstore (d : Bool) (i : RegNum) (v : Nat) : (s.fstore d i v).Sound := by
  cases d
  · exact h.setFraw _ _
  · exact h.setFraw _ _

theorem writeMove (i : RegNum) (w : Word) : (s.writeMove i w).Sound := by
  unfold State.writeMove
  split
  · exact h.setFraw _ _
  · split
    · exact h.setFraw _ _
    · exact h.setFraw _ _

theorem movcHigh (d : Bool) (fd : RegNum) : (movcHigh d fd s).Sound := by
  unfold Machine.movcHigh
  split
  · exact h
  · exact h.setFraw _ _

theorem setFcr31 {v : Word} (hv : Within v fcr31Mask) : (s.setFcr31 v).Sound := ⟨h.canon, { h.clear with fcr31 := hv }⟩

theorem setFcc (cc : BitVec 3) (b : Bool) : (s.setFcc cc b).Sound :=
  h.setFcr31 ((h.clear.fcr31.and _).or (fccField_within cc b))

theorem setTags (lo hi : Word) : (s.setTags lo hi).Sound := ⟨h.canon, h.clear⟩

theorem setEcc (e : BitVec 10) : (s.setEcc e).Sound := ⟨h.canon, h.clear⟩

theorem setCh (b : Bool) : (s.setCh b).Sound :=
  ⟨h.canon, { h.clear with status := (h.clear.status.and _).or ((chField_within b).of_r10000 _) }⟩

theorem toTarget (a : DWord) : (toTarget a s).Sound := ⟨h.canon, h.clear⟩

/-- The end of a branch, likely or ordinary. -/
theorem branchEnd (likely taken : Bool) (a : DWord) :
    (if likely then likelyTo taken a s else branchTo taken a s).Sound := by
  cases likely <;> cases taken <;> exact ⟨h.canon, h.clear⟩

/-! ## Exceptions -/

theorem freeEntryLo : (freeEntryLo s).Sound :=
  ⟨h.canon, { h.clear with entryLo0 := .masked _ _, entryLo1 := .masked _ _ }⟩

theorem recordTlb (va : DWord) : (recordTlb va s).Sound :=
  freeEntryLo ⟨h.canon, { h.clear with
    context := BitVec.setWidth_append_eq_right
    xcontext := BitVec.setWidth_append_eq_right
    entryHi := entryHiOf_within _ _ _ }⟩

theorem recordAddressError (va : DWord) : (recordAddressError va s).Sound :=
  freeEntryLo ⟨h.canon, { h.clear with
    context := BitVec.setWidth_append_eq_right
    xcontext := BitVec.setWidth_append_eq_right
    entryHi := entryHiOf_within _ _ _ }⟩

/-- What an exception records keeps the reserved bits of the registers it writes (R85, R89, R100, R139). -/
theorem recordExc (e : Exc) : (recordExc e s).Sound := by
  cases e with
  | addressError va k => exact ⟨(h.recordAddressError va).canon, (h.recordAddressError va).clear⟩
  | tlbRefill va k | tlbInvalid va k | tlbModified va => exact ⟨(h.recordTlb va).canon, (h.recordTlb va).clear⟩
  | busError | overflow | trap | syscall | breakpoint | reservedInstr | copUnusable | floatingPoint | watch | interrupt =>
    exact ⟨h.canon, h.clear⟩

theorem takeException (e : Exc) : (takeException e s).Sound :=
  have hr := h.recordExc e
  ⟨hr.canon, { hr.clear with status := hr.clear.status.or (.of_r10000 (by decide) _) }⟩

theorem errorEntry (vector : DWord) : (errorEntry vector s).Sound :=
  ⟨h.canon, { h.clear with status := h.clear.status.or (.of_r10000 (by decide) _) }⟩

theorem takeCacheError (u : CacheUnit) (v : Word) : (takeCacheError u v s).Sound := errorEntry (s := { s with
    cp0 := { s.cp0 with cacheErr := v ||| (s.cp0.cacheErr &&& s.hw.ewBit) }
    ext := { s.ext with posted := s.ext.posted.put u none } }) ⟨h.canon, h.clear⟩ _

theorem takeNmi : (takeNmi s).Sound :=
  ⟨h.canon, { h.clear with status := (h.clear.status.and _).or (.of_r10000 (by decide) _) }⟩

theorem returnFromException : (returnFromException s).Sound := by
  unfold Machine.returnFromException
  split <;> exact ⟨h.canon, { h.clear with status := h.clear.status.and _ }⟩

end State.Sound

/-! ## Pieces of an instruction -/

/-- Every state that a piece of an instruction can leave satisfies the invariant. -/
def Res.Sound {α : Type} (x : Res α) : Prop := Res.Holds State.Sound x

theorem Res.Sound.bind {α β : Type} {x : Res α} {f : α → State → Res β} (k : x.Sound)
    (kf : ∀ a t, t.Sound → (f a t).Sound) : (x.bind f).Sound :=
  Res.Holds.bind k (fun _ => id) kf

theorem Res.Kept.sound {α : Type} {s : State} {x : Res α} (k : Res.Kept s x) (h : s.Sound) : x.Sound :=
  k.holds.imp fun _ kt => kt.sound h

/-- An access to memory, with or without the link. -/
theorem Res.Holds.sound {α : Type} {s : State} {x : Res α} (k : Res.Holds (KeptLink s) x) (h : s.Sound) : x.Sound :=
  k.imp fun _ kt => kt.sound h

section Pieces

variable {s : State} (h : s.Sound)
include h

theorem needMips3_sound : (needMips3 s).Sound := by unfold needMips3; split <;> exact h
theorem needMips4_sound : (needMips4 s).Sound := by unfold needMips4; split <;> exact h
theorem needCp0_sound : (needCp0 s).Sound := by unfold needCp0; split <;> exact h
theorem needCp1_sound : (needCp1 s).Sound := by unfold needCp1; split <;> exact h
theorem needCop1x_sound : (needCop1x s).Sound := (needMips4_sound h).bind fun _ _ => needCp1_sound

theorem needEvenDouble_sound (i : RegNum) : (needEvenDouble i s).Sound := by
  unfold needEvenDouble
  split
  · exact h
  · trivial

theorem notInSlot_sound : (notInSlot s).Sound := by
  unfold notInSlot
  split
  · trivial
  · exact h

theorem trapping_sound (ovf : Bool) (v : DWord) : (trapping ovf v s).Sound := by unfold trapping; split <;> exact h

theorem moveIf_sound (c : Bool) (rd : RegNum) (v : DWord) : (moveIf c rd v s).Sound := by
  cases c
  · exact h
  · exact h.rset rd v

/-- The end of a floating-point operation: Cause and Flags are fields of FCR31 (R766, R772). -/
theorem fpComplete_sound (c : BitVec 6) {write : State → State} (hw : ∀ t : State, t.Sound → (write t).Sound) :
    (fpComplete c write s).Sound := by
  have hc : Within (fcr31WithCause s.fpu.fcr31 c) fcr31Mask := (h.clear.fcr31.and _).or (causeField_within c)
  unfold fpComplete
  dsimp only
  split
  · exact h.setFcr31 hc
  · exact hw _ (h.setFcr31 (hc.or (flagsField_within _)))

theorem fpResult_sound (d : Bool) (fd : RegNum) (r : FRes) : (fpResult d fd r s).Sound :=
  fpComplete_sound h _ fun _ ht => ht.fstore d fd r.bits

theorem needFpOp_sound (enabled : Bool) : (needFpOp enabled s).Sound := by
  refine (needCp1_sound h).bind fun _ t ht => ?_
  split
  · exact ht
  · exact fpComplete_sound ht _ fun _ => id

theorem fpLoadWord_sound (ft : RegNum) (va : State → DWord) : (fpLoadWord ft va s).Sound :=
  ((memRead_holds _ _ s).sound h).bind fun v _ ht => ht.writeMove ft (v.setWidth 32)

theorem fpLoadDouble_sound (ft : RegNum) (va : State → DWord) : (fpLoadDouble ft va s).Sound :=
  (needEvenDouble_sound h ft).bind fun _ t ht => ((memRead_holds _ _ t).sound ht).bind fun _ _ hu => hu.setFraw ft _

theorem fpStoreWord_sound (ft : RegNum) (va : State → DWord) : (fpStoreWord ft va s).Sound :=
  (memWrite_holds _ _ _ s).sound h

theorem fpStoreDouble_sound (ft : RegNum) (va : State → DWord) : (fpStoreDouble ft va s).Sound :=
  (needEvenDouble_sound h ft).bind fun _ t ht => (memWrite_holds _ _ _ t).sound ht

/-! ## Coprocessor 0 -/

/-- A move to CP0 writes no reserved bit (R717). -/
theorem cp0Write_sound (rd : RegNum) (sel : BitVec 4) (v : DWord) : (cp0Write s rd sel v).Sound := by
  unfold cp0Write
  dsimp only
  split
  case h_2 => exact ⟨h.canon, { h.clear with entryLo0 := .masked _ _ }⟩
  case h_3 => exact ⟨h.canon, { h.clear with entryLo1 := .masked _ _ }⟩
  case h_4 =>
    exact ⟨h.canon, { h.clear with context := (setWidth_four_append_extract _ _ (by decide)).trans h.clear.context }⟩
  case h_8 => exact ⟨h.canon, { h.clear with entryHi := .masked _ _ }⟩
  case h_10 => exact ⟨h.canon, { h.clear with status := (Within.masked _ _).widen _ }⟩
  case h_15 => exact ⟨h.canon, { h.clear with watchLo := .masked _ _ }⟩
  case h_16 => exact ⟨h.canon, { h.clear with watchHi := .masked _ _ }⟩
  case h_17 =>
    exact ⟨h.canon, { h.clear with xcontext := (setWidth_four_append_extract _ _ (by decide)).trans h.clear.xcontext }⟩
  all_goals exact ⟨h.canon, h.clear⟩

/-- A TLB write sets or clears Status.TS (R316). -/
theorem tlbWrite_sound (i : BitVec 6) : (tlbWrite i s).Sound := by
  unfold tlbWrite
  dsimp only
  split
  · trivial
  · refine ⟨h.canon, { h.clear with status := (h.clear.status.and _).or ?_ }⟩
    split
    · exact .of_r10000 (by decide) _
    · exact .zero _

theorem tlbRead_sound : (tlbRead s).Sound :=
  ⟨h.canon, { h.clear with
    entryHi := entryHiOf_within _ _ _
    entryLo0 := entryLoOf_within _ _
    entryLo1 := entryLoOf_within _ _ }⟩

theorem tlbProbe_sound : (tlbProbe s).Sound := by
  unfold tlbProbe
  split
  · exact ⟨h.canon, h.clear⟩
  · exact ⟨h.canon, h.clear⟩
  · trivial

end Pieces

/-! ## CACHE -/

theorem Res.Kept.indexInvalidateI (va : DWord) (s : State) : Res.Kept s (indexInvalidateI va s) :=
  Res.Kept.mono (Machine.Kept.checkITags va s) (Res.Kept.bind (errGate _ _) fun _ t => Machine.Kept.invalidateI _ _ t)

theorem Res.Kept.indexWriteBackD (va : DWord) (s : State) : Res.Kept s (indexWriteBackD va s) :=
  Res.Kept.mono (Machine.Kept.checkDTags va s) (Res.Kept.bind (errGate _ _) fun _ t =>
    ((Machine.Kept.writeBackD _ _ t).trans (Machine.Kept.invalidateD _ _ _)).trans
      (Machine.Kept.ite (Machine.Kept.setDtag _ _ _ _) (Machine.Kept.refl _)))

theorem Res.Kept.castOut (wb : Bool) (set : Nat) (w : Bool) (s : State) : Res.Kept s (castOut wb set w s) := by
  unfold Machine.castOut
  split
  · exact Machine.Kept.refl s
  · exact Machine.Kept.evictSecondary _ _ _ s

theorem Res.Kept.indexWriteBackS (va : DWord) (pa : PAddr) (s : State) : Res.Kept s (indexWriteBackS va pa s) :=
  Res.Kept.mono (Machine.Kept.readSTag _ _ _ s) (Res.Kept.bind (errGate _ _) fun _ t => castOut _ _ _ t)

theorem Res.Kept.hitInvalidateI (x : Xlate) (s : State) : Res.Kept s (hitInvalidateI x s) := by
  refine Res.Kept.mono (Machine.Kept.checkITags x.va s) (Res.Kept.bind (errGate _ _) fun _ t => ?_)
  split
  · exact Machine.Kept.invalidateI _ _ t
  · exact Machine.Kept.refl t

theorem Res.Kept.hitOpD (wb : Bool) (x : Xlate) (s : State) : Res.Kept s (hitOpD wb x s) := by
  refine Res.Kept.mono (Machine.Kept.checkDTags x.va s) (Res.Kept.bind (errGate _ _) fun _ t => ?_)
  split
  · exact (Machine.Kept.ite (Machine.Kept.writeBackD _ _ t) (Machine.Kept.refl t)).trans (Machine.Kept.invalidateD _ _ _)
  · exact Machine.Kept.refl t

section CacheOps

variable {s : State} (h : s.Sound)
include h

theorem hitOpS_sound (wb : Bool) (x : Xlate) : (hitOpS wb x s).Sound := by
  have hl := (Kept.lookupSecondary x.pa s).sound h
  refine Res.Sound.bind ((Res.Kept.errGate _ _).sound hl) fun _ t ht => ?_
  split
  · exact ((Res.Kept.castOut _ _ _ t).sound ht).bind fun _ _ hu => hu.setCh true
  · exact ht.setCh false

/-- An operation on a translated address: translation leaves the state as it is. -/
theorem translate_bind_sound {va : DWord} {k : AccessKind} {f : Xlate → State → Res Unit} (kf : ∀ x, (f x s).Sound) :
    ((translate s va k).bind f).Sound :=
  (translate_holds s va k).bind (fun _ ht => ht ▸ h) fun x _ ht => ht ▸ kf x

theorem cacheOp_sound (op : BitVec 5) (va : DWord) : (cacheOp op va s).Sound := by
  unfold cacheOp
  split
  · exact (Res.Kept.indexInvalidateI va s).sound h
  · exact (Res.Kept.indexWriteBackD va s).sound h
  · exact translate_bind_sound h fun x => (Res.Kept.indexWriteBackS va x.pa s).sound h
  · exact h.setTags _ _
  · exact h.setTags _ _
  · exact translate_bind_sound h fun _ => h.setTags _ _
  · exact ((Kept.setItag s _ _ _).trans (.setIlru _ _ _)).sound h
  · exact ((Kept.setDtag s _ _ _).trans (.setDlru _ _ _)).sound h
  · exact translate_bind_sound h fun _ => ((Kept.setStag s _ _ _).trans (.setMru _ _ _)).sound h
  · exact translate_bind_sound h fun x => (Res.Kept.hitInvalidateI x s).sound h
  · exact translate_bind_sound h fun x => (Res.Kept.hitOpD false x s).sound h
  · exact translate_bind_sound h fun x => hitOpS_sound h false x
  · exact h
  · exact translate_bind_sound h fun x => (Res.Kept.hitOpD true x s).sound h
  · exact translate_bind_sound h fun x => hitOpS_sound h true x
  · exact (h.setTags _ _).setEcc _
  · exact (h.setTags _ _).setEcc _
  · exact translate_bind_sound h fun _ => (h.setTags _ _).setEcc _
  · exact (Kept.setIword s _ _ _ _).sound h
  · exact (Kept.setDword s _ _ _ _).sound h
  · exact translate_bind_sound h fun _ => (Kept.setSquad s _ _ _ _).sound h
  · trivial

end CacheOps

/-! ## Outcomes -/

/-- Every next state that an instruction answers satisfies the invariant. -/
def EndsSound (o : Out) : Prop := ∀ t, o = .next t → t.Sound

theorem EndsSound.next {s : State} (h : s.Sound) : EndsSound (.next s) := by rintro _ ⟨⟩; exact h

theorem EndsSound.fault (f : Fault) : EndsSound (.fault f) := by rintro _ ⟨⟩

theorem EndsSound.refused (r : Refusal) : EndsSound (.refused r) := by rintro _ ⟨⟩

theorem EndsSound.finishAt {x : Res Unit} (h : x.Sound) : EndsSound x.finishAt := by
  cases x with
  | ok _ t => exact .next h
  | exc e t => exact .next (State.Sound.takeException h e)
  | retry t => exact .next (State.Sound.wait h)
  | fault f => exact .fault f
  | refuse r => exact .refused r

theorem EndsSound.finish {x : Res Unit} (h : x.Sound) : EndsSound x.finish :=
  .finishAt (h.bind fun _ _ ht => ht.advance)

theorem EndsSound.finishGpr {rd : RegNum} {x : Res DWord} (h : x.Sound) : EndsSound (Res.finishGpr rd x) :=
  .finish (h.bind fun v _ ht => ht.rset rd v)

/-! ## The shapes of the meanings -/

section Shapes

variable {s : State} (h : s.Sound)
include h

theorem aluOp_sound (rd : RegNum) (v : State → DWord) : EndsSound (aluOp rd v s) := .finishGpr (x := .ok (v s) s) h

theorem aluOp64_sound (rd : RegNum) (v : State → DWord) : EndsSound (aluOp64 rd v s) :=
  .finishGpr ((needMips3_sound h).bind fun _ _ ht => ht)

theorem hiLoOp_sound (hi lo : State → DWord) : EndsSound (hiLoOp hi lo s) :=
  .finish (x := .ok () (s.setHiLo (hi s) (lo s))) ⟨h.canon, h.clear⟩

theorem hiLoOp64_sound (hi lo : State → DWord) : EndsSound (hiLoOp64 hi lo s) :=
  .finish ((needMips3_sound h).bind fun _ _ ht => ⟨ht.canon, ht.clear⟩)

theorem jumpOp_sound (target : DWord) (link : Option RegNum) : EndsSound (jumpOp target link s) := by
  refine .finishAt ((notInSlot_sound h).bind fun _ t ht => ?_)
  cases link with
  | none => exact ht.toTarget target
  | some rd => exact (ht.rset rd _).toTarget target

theorem condOp_sound (likely taken : Bool) (link : Option RegNum) (offset : BitVec 16) :
    EndsSound (condOp likely taken link offset s) := by
  refine .finishAt ((notInSlot_sound h).bind fun _ t ht => ?_)
  cases link with
  | none => exact ht.branchEnd _ _ _
  | some rd => exact (ht.rset rd _).branchEnd _ _ _

theorem fpBranchOp_sound (likely want : Bool) (cc : BitVec 3) (offset : BitVec 16) :
    EndsSound (fpBranchOp likely want cc offset s) := by
  refine .finishAt ((needCp1_sound h).bind fun _ t ht => Res.Sound.bind ?_ fun _ u hu => hu.branchEnd _ _ _)
  split
  · exact ht
  · exact notInSlot_sound ht

theorem trapOp_sound (c : Bool) : EndsSound (trapOp c s) := .finish (by split <;> exact h)

theorem raise_sound (e : Exc) : EndsSound (raise e s) := .finish (x := .exc e s) h

theorem loadOp_sound (n : Nat) (f : DWord → DWord) (base rt : RegNum) (offset : BitVec 16) :
    EndsSound (loadOp n f base rt offset s) :=
  .finishGpr (((memRead_holds _ n s).sound h).bind fun _ _ ht => ht)

theorem loadOp64_sound (n : Nat) (f : DWord → DWord) (base rt : RegNum) (offset : BitVec 16) :
    EndsSound (loadOp64 n f base rt offset s) :=
  .finishGpr ((needMips3_sound h).bind fun _ t ht => ((memRead_holds _ n t).sound ht).bind fun _ _ hu => hu)

theorem storeOp_sound (n : Nat) (base rt : RegNum) (offset : BitVec 16) : EndsSound (storeOp n base rt offset s) :=
  .finish ((memWrite_holds _ n _ s).sound h)

theorem execSync_sound (stype : BitVec 5) : EndsSound (execSync stype s) := by
  refine .finish ?_
  split
  · exact (KeptLink.breakLl s).sound h
  · exact h

theorem fpArith_sound (enabled d : Bool) (fd : RegNum) (r : State → FRes) : EndsSound (fpArith enabled d fd r s) :=
  .finish ((needFpOp_sound h enabled).bind fun _ t ht => fpResult_sound ht d fd (r t))

theorem maddOp_sound (d sub neg : Bool) (fr fs ft fd : RegNum) : EndsSound (maddOp d sub neg fr fs ft fd s) :=
  .finish ((needCop1x_sound h).bind fun _ _ ht => fpResult_sound ht d fd _)

theorem compareOp_sound (d : Bool) (cond : BitVec 4) (cc : BitVec 3) (fs ft : RegNum) :
    EndsSound (compareOp d cond cc fs ft s) :=
  .finish ((needFpOp_sound h _).bind fun _ _ ht => fpComplete_sound ht _ fun _ hu => hu.setFcc cc _)

theorem fpMoveIf_sound (d : Bool) (c : State → Bool) (fs fd : RegNum) : EndsSound (fpMoveIf d c fs fd s) := by
  refine .finish ((needFpOp_sound h _).bind fun _ _ ht => fpComplete_sound ht _ fun u hu => ?_)
  split
  · exact (hu.fstore d fd _).movcHigh d fd
  · exact hu.movcHigh d fd

/-- CTC1 writes the bits that FCR31 has (R766, R775). -/
theorem execCtc1_sound (rt fs : RegNum) : EndsSound (execCtc1 rt fs s) := by
  refine .finish ((needCp1_sound h).bind fun _ t ht => ?_)
  split
  · have hw := ht.setFcr31 (Within.masked (t.word rt) fcr31Mask)
    dsimp only
    split
    · exact hw
    · exact hw
  · exact ht

theorem execEret_sound : EndsSound (execEret s) := by
  refine .finishAt ((needCp0_sound h).bind fun _ t ht => ?_)
  split
  · trivial
  · exact ht.returnFromException

theorem execCache_sound (base op : BitVec 5) (offset : BitVec 16) : EndsSound (execCache base op offset s) :=
  .finish ((needCp0_sound h).bind fun _ _ ht => (cacheOp_sound ht op _).bind fun _ u hu => (KeptLink.breakLl u).sound hu)

end Shapes

/-! ## Every instruction -/

/-- One case for each shape of meaning. -/
theorem exec_sound (i : Instr) {s : State} (h : s.Sound) : EndsSound (exec i s) := by
  unfold exec
  cases i with
  | addu | subu | addiu | and | or | xor | nor | andi | ori | xori | lui | slt | sltu | slti | sltiu | sll | srl | sra
  | sllv | srlv | srav => exact aluOp_sound h _ _
  | daddu | dsubu | daddiu | dsll | dsrl | dsra | dsllv | dsrlv | dsrav | dsll32 | dsrl32 | dsra32 =>
    exact aluOp64_sound h _ _
  | add | sub | addi => exact .finishGpr (trapping_sound h _ _)
  | dadd | dsub | daddi => exact .finishGpr ((needMips3_sound h).bind fun _ _ ht => trapping_sound ht _ _)
  | movn | movz => exact .finish ((needMips4_sound h).bind fun _ _ ht => moveIf_sound ht _ _ _)
  | movf | movt => exact .finish ((needCop1x_sound h).bind fun _ _ ht => moveIf_sound ht _ _ _)
  | mult | multu | div | divu | mthi | mtlo => exact hiLoOp_sound h _ _
  | dmult | dmultu | ddiv | ddivu => exact hiLoOp64_sound h _ _
  | mfhi => exact aluOp_sound h _ (fun s => s.hi)
  | mflo => exact aluOp_sound h _ (fun s => s.lo)
  | lb | lbu | lh | lhu | lw => exact loadOp_sound h _ _ _ _ _
  | lwu | ld => exact loadOp64_sound h _ _ _ _ _
  | sb | sh | sw => exact storeOp_sound h _ _ _ _
  | sd => exact .finish ((needMips3_sound h).bind fun _ t ht => (memWrite_holds _ _ _ t).sound ht)
  | lwl | lwr => exact .finishGpr (((unalignedRead_holds _ _ _ s).sound h).bind fun _ _ ht => ht)
  | ldl | ldr =>
    exact .finishGpr ((needMips3_sound h).bind fun _ t ht =>
      ((unalignedRead_holds _ _ _ t).sound ht).bind fun _ _ hu => hu)
  | swl | swr => exact .finish ((unalignedWrite_holds _ _ _ _ s).sound h)
  | sdl | sdr => exact .finish ((needMips3_sound h).bind fun _ t ht => (unalignedWrite_holds _ _ _ _ t).sound ht)
  | ll => exact .finishGpr (((linkedRead_holds _ _ s).sound h).bind fun _ _ ht => ht)
  | lld => exact .finishGpr ((needMips3_sound h).bind fun _ t ht => (linkedRead_holds _ _ t).sound ht)
  | sc => exact .finishGpr (((conditionalWrite_holds _ _ _ s).sound h).bind fun _ _ ht => ht)
  | scd =>
    exact .finishGpr ((needMips3_sound h).bind fun _ t ht =>
      ((conditionalWrite_holds _ _ _ t).sound ht).bind fun _ _ hu => hu)
  | sync => exact execSync_sound h _
  | pref => exact .finish ((needMips4_sound h).bind fun _ t ht => (prefetch_kept _ _ t).sound ht)
  | prefx => exact .finish ((needCop1x_sound h).bind fun _ t ht => (prefetch_kept _ _ t).sound ht)
  | j | jal | jr | jalr => exact jumpOp_sound h _ _
  | beq | bne | blez | bgtz | bltz | bgez | bltzal | bgezal | beql | bnel | blezl | bgtzl | bltzl | bgezl | bltzall
  | bgezall => exact condOp_sound h _ _ _ _
  | bc1f | bc1t | bc1fl | bc1tl => exact fpBranchOp_sound h _ _ _ _
  | tge | tgeu | tlt | tltu | teq | tne | tgei | tgeiu | tlti | tltiu | teqi | tnei => exact trapOp_sound h _
  | syscall | brk | cop2 | lwc2 | swc2 | ldc2 | sdc2 => exact raise_sound h _
  | mfc0 => exact .finishGpr ((needCp0_sound h).bind fun _ _ ht => ht)
  | dmfc0 => exact .finishGpr ((needCp0_sound h).bind fun _ _ ht => (needMips3_sound ht).bind fun _ _ hu => hu)
  | mtc0 => exact .finish ((needCp0_sound h).bind fun _ _ ht => cp0Write_sound ht _ _ _)
  | dmtc0 =>
    exact .finish ((needCp0_sound h).bind fun _ _ ht => (needMips3_sound ht).bind fun _ _ hu => cp0Write_sound hu _ _ _)
  | tlbr => exact .finish ((needCp0_sound h).bind fun _ _ ht => tlbRead_sound ht)
  | tlbwi | tlbwr => exact .finish ((needCp0_sound h).bind fun _ _ ht => tlbWrite_sound ht _)
  | tlbp => exact .finish ((needCp0_sound h).bind fun _ _ ht => tlbProbe_sound ht)
  | rfe => exact .finish ((needCp0_sound h).bind fun _ _ ht => ht)
  | eret => exact execEret_sound h
  | cache => exact execCache_sound h _ _ _
  | mfc1 | cfc1 => exact .finishGpr ((needCp1_sound h).bind fun _ _ ht => ht)
  | dmfc1 =>
    exact .finishGpr ((needCp1_sound h).bind fun _ _ ht => (needMips3_sound ht).bind fun _ _ hu =>
      (needEvenDouble_sound hu _).bind fun _ _ hv => hv)
  | mtc1 => exact .finish ((needCp1_sound h).bind fun _ _ ht => ht.writeMove _ _)
  | dmtc1 =>
    exact .finish ((needCp1_sound h).bind fun _ _ ht => (needMips3_sound ht).bind fun _ _ hu =>
      (needEvenDouble_sound hu _).bind fun _ _ hv => hv.setFraw _ _)
  | ctc1 => exact execCtc1_sound h _ _
  | lwc1 => exact .finish ((needCp1_sound h).bind fun _ _ ht => fpLoadWord_sound ht _ _)
  | ldc1 => exact .finish ((needCp1_sound h).bind fun _ _ ht => fpLoadDouble_sound ht _ _)
  | swc1 => exact .finish ((needCp1_sound h).bind fun _ _ ht => fpStoreWord_sound ht _ _)
  | sdc1 => exact .finish ((needCp1_sound h).bind fun _ _ ht => fpStoreDouble_sound ht _ _)
  | lwxc1 => exact .finish ((needCop1x_sound h).bind fun _ _ ht => fpLoadWord_sound ht _ _)
  | ldxc1 => exact .finish ((needCop1x_sound h).bind fun _ _ ht => fpLoadDouble_sound ht _ _)
  | swxc1 => exact .finish ((needCop1x_sound h).bind fun _ _ ht => fpStoreWord_sound ht _ _)
  | sdxc1 => exact .finish ((needCop1x_sound h).bind fun _ _ ht => fpStoreDouble_sound ht _ _)
  | addS | addD | subS | subD | mulS | mulD | divS | divD | sqrtS | sqrtD | absS | absD | movS | movD | negS | negD
  | roundLS | roundLD | truncLS | truncLD | ceilLS | ceilLD | floorLS | floorLD | roundWS | roundWD | truncWS | truncWD
  | ceilWS | ceilWD | floorWS | floorWD | cvtSD | cvtSW | cvtSL | cvtDS | cvtDW | cvtDL | cvtWS | cvtWD | cvtLS | cvtLD
  | recipS | recipD | rsqrtS | rsqrtD => exact fpArith_sound h _ _ _ _
  | movfS | movfD | movtS | movtD | movzS | movzD | movnS | movnD => exact fpMoveIf_sound h _ _ _ _
  | maddS | maddD | msubS | msubD | nmaddS | nmaddD | nmsubS | nmsubD => exact maddOp_sound h _ _ _ _ _ _ _
  | cFS | cUnS | cEqS | cUeqS | cOltS | cUltS | cOleS | cUleS | cSfS | cNgleS | cSeqS | cNglS | cLtS | cNgeS | cLeS
  | cNgtS | cFD | cUnD | cEqD | cUeqD | cOltD | cUltD | cOleD | cUleD | cSfD | cNgleD | cSeqD | cNglD | cLtD | cNgeD
  | cLeD | cNgtD => exact compareOp_sound h _ _ _ _ _

/-- A word that is no instruction. -/
theorem execReject_sound (d : DecodeReject) {s : State} (h : s.Sound) : EndsSound (execReject d s) := by
  cases d with
  | reservedMajor | reservedSpecial | reservedRegimm => exact raise_sound h _
  | undefinedCop0 => exact .finish ((needCp0_sound h).bind fun _ _ _ => trivial)
  | undefinedCop1Sub => exact .finish ((needCp1_sound h).bind fun _ _ ht => ht)
  | undefinedCop1Op => exact .finish (needFpOp_sound h false)
  | undefinedCop1x => exact .finish ((needCop1x_sound h).bind fun _ _ ht => ht)

/-! ## Speculation -/

/-- What a piece of an aborted instruction leaves is work of the memory system. -/
theorem Res.Kept.left {α : Type} {s : State} {x : Res α} (k : Res.Kept s x) : Machine.Kept s (x.left s) := by
  cases x with
  | ok _ _ | exc _ _ | retry _ => exact k
  | fault _ | refuse _ => exact Machine.Kept.refl s

theorem Kept.specStore (a : CReq) (s : State) : Kept s (specStore a s) := by
  have h := Res.Kept.dAccess a s
  unfold Machine.specStore
  split
  · next w t e =>
    rw [e] at h
    split
    · exact h
    · exact h.trans (setBlockState _ _ _ t)
  · exact h.left

theorem Kept.speculate (path : List (Option DWord)) (kind : AccessKind) (va : DWord) (s : State) :
    Kept s (speculate path kind va s) := by
  unfold Machine.speculate
  split
  · exact refl s
  · dsimp only
    split
    · split
      · exact refl s
      · cases kind with
        | fetch => exact (Res.Kept.cachedFetch _ s).left
        | load => exact ite (Res.Kept.dAccess _ s).left (ite (refl s) (Res.Kept.dAccess _ s).left)
        | store => exact ite (Res.Kept.dAccess _ s).left (specStore _ s)
    · exact refl s

theorem Kept.fetchAhead (k : Nat) (s : State) : Kept s (fetchAhead k s) := by
  unfold Machine.fetchAhead
  split
  · exact refl s
  · split
    · exact ite (Res.Kept.uncachedRead _ _ _ _ _ _ s).left (refl s)
    · exact refl s

/-! ## External responses, the cache test mode and resets -/

theorem Kept.respond (rq : BitVec 3) (r : Reply) (s : State) : Kept s (respond rq r s) := by
  unfold Machine.respond
  split
  · exact reportCycles r s
  · next o _ =>
    have h := (reportCycles r s).trans (answer o r _)
    split
    · next t e => rw [e] at h; exact h.trans (forward o t)
    · next t e => rw [e] at h; exact h.trans (ite (ext t _) (refl t))
    · next e => rw [e] at h; exact h

theorem Kept.externalCompletion (resp : BitVec 5) (par : Bool) (s : State) : Kept s (externalCompletion resp par s) := by
  unfold Machine.externalCompletion
  split
  · exact postRespError s
  · exact refl s
  · exact (ext s _).trans (respond _ _ _)

theorem Kept.testWrite (arr : BitVec 3) (a : BitVec 12) (w : Bool) (d : BitVec 40) (s : State) :
    Kept s (testWrite arr a w d s) := by
  unfold Machine.testWrite
  split
  · exact setDword s _ _ _ _
  · exact (setDtag s _ _ _).trans (setDlru _ _ _)
  · exact setIword s _ _ _ _
  · exact (setItag s _ _ _).trans (setIlru _ _ _)
  · exact setMru s _ _

theorem Res.Kept.testCommand (ad : BitVec 64) (s : State) : Res.Kept s (testCommand ad s) := by
  unfold Machine.testCommand
  split
  · exact Machine.Kept.refl s
  · dsimp only
    split
    · trivial
    · exact (Machine.Kept.ite (Machine.Kept.testWrite _ _ _ _ s) (Machine.Kept.emit s _)).trans (Machine.Kept.ext _ _)

theorem Kept.leaveRefilling (l : List Nat) (s : State) : Kept s (l.foldl leaveRefilling s) := by
  induction l generalizing s with
  | nil => exact refl s
  | cons k l ih => exact (setDtag s _ _ _).trans (ih _)

/-- After a Cold Reset every register with reserved fields but Status is zero (R70; log 1). -/
theorem State.cold_clear (hw : Hw) (e : BitVec 64) (mem : Memory) (c : Caches) (x : Ext) (n : Nat) :
    (State.cold hw e mem c x n).reserved.Clear where
  status := .of_r10000 (v := 0x00400004#32) (by decide) _
  fcr31 := .zero _
  entryLo0 := .zero _
  entryLo1 := .zero _
  entryHi := .zero _
  context := rfl
  xcontext := rfl
  watchLo := .zero _
  watchHi := .zero _

section Events

variable {s : State} (h : s.Sound)
include h

/-- A Cold Reset keeps memory and the caches (R360). -/
theorem coldReset_sound (m : BitVec 64) : (coldReset m s).Sound := by
  unfold Machine.coldReset
  split
  · trivial
  · exact ⟨h.canon, State.cold_clear _ _ _ _ _ _⟩

theorem softReset_sound (refilling : List Nat) : (softReset refilling s).Sound :=
  (Kept.leaveRefilling refilling _).sound
    ⟨h.canon, { h.clear with status := (h.clear.status.and _).or (.of_r10000 (by decide) _) }⟩

theorem extInterrupt_sound (ad : BitVec 64) : (extInterrupt ad s).Sound := by
  unfold extInterrupt
  split
  · exact ⟨h.canon, h.clear⟩
  · exact h

theorem takeProbe_sound (c : Probe) : (takeProbe c s).Sound := (Served.resumeProbes _ _).sound ⟨h.canon, h.clear⟩

theorem busRequest_sound (e : EnvEvent) : (busRequest e s).Sound := by
  unfold busRequest
  split
  · exact extInterrupt_sound h _
  · exact takeProbe_sound (h.withExt _) _
  · exact takeProbe_sound (h.withExt _) _
  · exact ⟨h.canon, h.clear⟩
  · exact h

/-- A cycle that is not lost is taken as the external request it carries, if any. -/
theorem addressCycle_sound (c : BusCycle) : (addressCycle c s).Sound := by
  unfold addressCycle
  split
  · exact (Kept.reportError _ s).sound h
  · split
    · exact h
    · extract_lets take
      have htake (ad : DWord) {t : State} (ht : t.Sound) : (take ad t).Sound := by
        unfold take
        split
        · exact busRequest_sound ht _
        · exact ht
      split
      · split
        · exact htake _ h
        · exact htake _ ((Kept.emit s _).sound h)
        · exact (Kept.reportError _ s).sound h
      · exact htake _ h

/-- Whatever the environment does keeps the invariant. -/
theorem eventEffect_sound (e : EnvEvent) : (eventEffect e s).Sound := by
  cases e with
  | quiet => exact h
  | coldReset m => exact coldReset_sound h m
  | softReset keys => exact softReset_sound h keys
  | extInterrupt | intervention | invalidate | allocate => exact busRequest_sound h _
  | completion resp par => exact (Served.resume _).sound ((Kept.externalCompletion resp par s).sound h)
  | response rq r => exact (Served.resume _).sound ((Kept.respond rq r s).sound h)
  | addressCycle => exact addressCycle_sound h _
  | nmi | readReady | writeReady | gblPerf | breakLink | jtagClock => exact ⟨h.canon, h.clear⟩
  | jtagReset => exact (Kept.ite (Kept.ext s _) (Kept.refl s)).sound h
  | cacheError u => exact (Kept.reportError u s).sound h
  | correctableError => exact ((Kept.emit s _).trans (.count _ _)).sound h
  | agentStore => exact (Served.resume _).sound ⟨h.canon, h.clear⟩
  | dmaStore pa bytes => exact (Kept.physWrite s pa bytes).sound h
  | speculate path kind va => exact (Kept.speculate path kind va s).sound h
  | fetchAhead k => exact (Kept.fetchAhead k s).sound h
  | flushGather => exact (Kept.flushGather s).sound h
  | testCommand ad => exact (Res.Kept.testCommand ad s).sound h

theorem envEvent_sound (e : EnvEvent) : (envEvent e s).Sound := by
  unfold envEvent
  split
  · exact eventEffect_sound h e
  · exact h

end Events

/-! ## The step -/

/-- The counters that advance at the end of a step are none of the reserved fields. -/
theorem State.Sound.tick {t : State} (h : t.Sound) (pre : State) (i : Option Instr) : (tick pre i t).Sound :=
  ⟨h.canon, h.clear⟩

section Ends

variable {o : Out} (h : EndsSound o) (pre : State) (i : Option Instr)
include h

theorem endStep_sound : EndsSound (endStep pre i o) := by
  cases o with
  | next t => exact .next ((h t rfl).tick pre i)
  | fault f => exact .fault f
  | refused r => exact .refused r

theorem endRun_sound : EndsSound (endRun pre i o) := by
  cases o with
  | next t => exact .next (((Served.concluded t).sound (h t rfl)).tick pre i)
  | fault f => exact .fault f
  | refused r => exact .refused r

end Ends

theorem Kept.interruptNow (s : State) : Kept s (interruptNow s).2 := by
  unfold Machine.interruptNow
  split
  · exact ext s _
  · split
    · exact refl s
    · exact ext s _
    · exact ext s _
    · exact ext s _

section Step

variable {s : State} (h : s.Sound)
include h

theorem runWord_sound (pre : State) (w : Word) : EndsSound (runWord pre w s) := by
  unfold runWord
  split
  · exact endRun_sound (exec_sound _ h) _ _
  · exact endRun_sound (execReject_sound _ h) _ _

/-- Every end of the fetch, then the instruction. -/
theorem runInstr_sound (pre : State) : EndsSound (runInstr pre s) := by
  have hf := (Res.Kept.fetchWord s).sound h
  unfold runInstr
  generalize fetchWord s = x at hf
  cases x with
  | ok w t => exact runWord_sound hf pre w
  | exc e t => exact endRun_sound (.next (State.Sound.takeException hf e)) _ _
  | retry t => exact endRun_sound (.next (State.Sound.wait hf)) _ _
  | fault f => exact .fault f
  | refuse r => exact .refused r

theorem runNext_sound (pre : State) : EndsSound (runNext pre s) := by
  unfold runNext
  split
  · exact endRun_sound (.next (h.takeException _)) _ _
  · exact runInstr_sound h pre

/-- The pending exceptions of R1043, then an instruction. -/
theorem runPending_sound : EndsSound (runPending s) := by
  have hi := (Kept.interruptNow s).sound h
  unfold runPending
  split
  · exact endRun_sound (.next h.takeNmi) _ _
  · split
    · exact endRun_sound (.next (h.takeCacheError _ _)) _ _
    · split
      · exact endRun_sound (.next (h.takeException _)) _ _
      · split
        · exact endRun_sound (.next (hi.takeException _)) _ _
        · exact runNext_sound hi s

theorem runProcessor_sound : EndsSound (runProcessor s) := by
  unfold runProcessor
  split
  · exact endStep_sound (.next h.wait) _ _
  · exact runPending_sound h

theorem fresh_sound : s.fresh.Sound := ⟨h.canon, h.clear⟩

/-- An event, a pending exception or an instruction: every step keeps the invariant. -/
theorem step_sound : EndsSound (step s) := by
  have hs := fresh_sound h
  unfold step runStep
  dsimp only
  split
  · exact runProcessor_sound (hs.withExt _)
  · exact endStep_sound (.finishAt (envEvent_sound (hs.withExt _) _)) _ _
  · split
    · exact .fault _
    · exact runProcessor_sound hs

end Step

/-- Settles O25: `State.Sound` is the invariant, and `step_sound` says that a step keeps it. -/
theorem stepInvariant : Obligations.StepInvariant := by
  unfold Obligations.StepInvariant
  intro s t hcanon hclear hstep
  have ht : t.Sound := step_sound ⟨hcanon, s.reservedClear_iff.1 hclear⟩ t hstep
  exact ⟨ht.canon, t.reservedClear_iff.2 ht.clear⟩

end Sys2Proof.Machine
end

section
/-! PROOFS. The family `20_memory.md`: misaligned loads and stores (O42), SYNC and the prefetches (O43), and the instruction
fetch (O33).  Each operation of the access pipeline has one lemma for what it does on the path that a statement speaks of. -/

namespace Sys2Proof.Machine

/-! ## Misaligned addresses (R237) -/

section Misaligned

variable {s : State} {va : DWord} {n : Nat}

theorem memRead_misaligned (ha : va.toNat % n ≠ 0) :
    memRead va n s = .exc (.addressError (checkedVa s va .load) .load) s := by
  unfold memRead; rw [dataTranslate_misaligned ha, Res.bind_exc]

theorem memWrite_misaligned (v : DWord) (ha : va.toNat % n ≠ 0) :
    memWrite va n v s = .exc (.addressError (checkedVa s va .store) .store) s := by
  unfold memWrite; rw [dataTranslate_misaligned ha, Res.bind_exc]

theorem linkedRead_misaligned (ha : va.toNat % n ≠ 0) :
    linkedRead va n s = .exc (.addressError (checkedVa s va .load) .load) s := by
  unfold linkedRead; rw [dataTranslate_misaligned ha, Res.bind_exc]

theorem conditionalWrite_misaligned (v : DWord) (ha : va.toNat % n ≠ 0) :
    conditionalWrite va n v s = .exc (.addressError (checkedVa s va .store) .store) s := by
  unfold conditionalWrite; rw [dataTranslate_misaligned ha, Res.bind_exc]

end Misaligned

/-! ## What comes before and after the access of an instruction -/

/-- An exception ends a sequence. -/
theorem Res.bind_of_exc {α β : Type} {x : Res α} {f : α → State → Res β} {e : Exc} {s : State} (hx : x = .exc e s) :
    x.bind f = .exc e s := by
  rw [hx, Res.bind_exc]

/-- Past a gate that lets through comes what the gated part does. -/
theorem Res.bind_of_open {β : Type} {x : Res Unit} {f : Unit → State → Res β} {y : Res β} {s : State} (hx : x = .ok () s)
    (hf : f () s = y) : x.bind f = y := by
  rw [hx, Res.bind_ok, hf]

/-- An instruction with a result in a general register whose access raises only raises. -/
theorem traps_of_gpr {i : Instr} {e : Exc} {s : State} {rd : RegNum} {x : Res DWord} (h : exec i s = Res.finishGpr rd x)
    (hx : x = .exc e s) : traps i e s := by
  unfold traps; rw [h, hx, Res.finishGpr_exc]

/-- An instruction without such a result whose access raises only raises. -/
theorem traps_of_exc {i : Instr} {e : Exc} {s : State} {x : Res Unit} (h : exec i s = x.finish) (hx : x = .exc e s) :
    traps i e s :=
  traps_of (h.trans (congrArg Res.finish hx))

theorem needCop1x_on {s : State} (h4 : s.mips4 = true) (hc : s.cp1Usable = true) : needCop1x s = .ok () s :=
  Res.bind_of_open (needMips4_on h4) (needCp1_on hc)

/-- With FR = 1 every register, with FR = 0 an even one, may be named by a doubleword form (R762). -/
theorem needEvenDouble_on {s : State} {i : RegNum} (h : s.fr = true ∨ i.getLsbD 0 = false) : needEvenDouble i s = .ok () s := by
  unfold needEvenDouble
  obtain h | h := h
  · rw [h, Bool.true_or, if_pos rfl]
  · rw [h, Bool.not_false, Bool.or_true, if_pos rfl]

section FpMisaligned

variable {s : State} {va : State → DWord} {ft : RegNum}

theorem fpLoadWord_misaligned (ha : (va s).toNat % 4 ≠ 0) :
    fpLoadWord ft va s = .exc (.addressError (checkedVa s (va s) .load) .load) s :=
  Res.bind_of_exc (memRead_misaligned ha)

theorem fpStoreWord_misaligned (ha : (va s).toNat % 4 ≠ 0) :
    fpStoreWord ft va s = .exc (.addressError (checkedVa s (va s) .store) .store) s :=
  memWrite_misaligned _ ha

theorem fpLoadDouble_misaligned (he : s.fr = true ∨ ft.getLsbD 0 = false) (ha : (va s).toNat % 8 ≠ 0) :
    fpLoadDouble ft va s = .exc (.addressError (checkedVa s (va s) .load) .load) s :=
  Res.bind_of_open (needEvenDouble_on he) (Res.bind_of_exc (memRead_misaligned ha))

theorem fpStoreDouble_misaligned (he : s.fr = true ∨ ft.getLsbD 0 = false) (ha : (va s).toNat % 8 ≠ 0) :
    fpStoreDouble ft va s = .exc (.addressError (checkedVa s (va s) .store) .store) s :=
  Res.bind_of_open (needEvenDouble_on he) (memWrite_misaligned _ ha)

end FpMisaligned

/-- Settles O42: the alignment check is the first part of every access, behind only the gates of its instruction. -/
theorem alignmentErrors : Obligations.AlignmentErrors := by
  unfold Obligations.AlignmentErrors
  rintro s base index rt offset _ _ rfl rfl
  refine ⟨?loads, ?stores, fun h3 => ⟨?loads64, ?stores64⟩, fun hc => ⟨?fpWords, ?fpDoubles, fun h4 => ⟨?fpxWords, ?fpxDoubles⟩⟩⟩
  case loads =>
    intro n i hi ha
    simp only [List.mem_cons, Prod.mk.injEq, List.not_mem_nil, or_false] at hi
    obtain ⟨rfl, rfl⟩ | ⟨rfl, rfl⟩ | ⟨rfl, rfl⟩ | ⟨rfl, rfl⟩ := hi
    · exact traps_of_gpr rfl (Res.bind_of_exc (memRead_misaligned ha))
    · exact traps_of_gpr rfl (Res.bind_of_exc (memRead_misaligned ha))
    · exact traps_of_gpr rfl (Res.bind_of_exc (memRead_misaligned ha))
    · exact traps_of_gpr rfl (Res.bind_of_exc (linkedRead_misaligned ha))
  case stores =>
    intro n i hi ha
    simp only [List.mem_cons, Prod.mk.injEq, List.not_mem_nil, or_false] at hi
    obtain ⟨rfl, rfl⟩ | ⟨rfl, rfl⟩ | ⟨rfl, rfl⟩ := hi
    · exact traps_of_exc rfl (memWrite_misaligned _ ha)
    · exact traps_of_exc rfl (memWrite_misaligned _ ha)
    · exact traps_of_gpr rfl (Res.bind_of_exc (conditionalWrite_misaligned _ ha))
  case loads64 =>
    intro n i hi ha
    simp only [List.mem_cons, Prod.mk.injEq, List.not_mem_nil, or_false] at hi
    obtain ⟨rfl, rfl⟩ | ⟨rfl, rfl⟩ | ⟨rfl, rfl⟩ := hi
    · exact traps_of_gpr rfl (Res.bind_of_open (needMips3_on h3) (Res.bind_of_exc (memRead_misaligned ha)))
    · exact traps_of_gpr rfl (Res.bind_of_open (needMips3_on h3) (Res.bind_of_exc (memRead_misaligned ha)))
    · exact traps_of_gpr rfl (Res.bind_of_open (needMips3_on h3) (linkedRead_misaligned ha))
  case stores64 =>
    intro n i hi ha
    simp only [List.mem_cons, Prod.mk.injEq, List.not_mem_nil, or_false] at hi
    obtain ⟨rfl, rfl⟩ | ⟨rfl, rfl⟩ := hi
    · exact traps_of_exc rfl (Res.bind_of_open (needMips3_on h3) (memWrite_misaligned _ ha))
    · exact traps_of_gpr rfl (Res.bind_of_open (needMips3_on h3) (Res.bind_of_exc (conditionalWrite_misaligned _ ha)))
  case fpWords =>
    intro ha
    exact ⟨traps_of_exc rfl (Res.bind_of_open (needCp1_on hc) (fpLoadWord_misaligned ha)),
      traps_of_exc rfl (Res.bind_of_open (needCp1_on hc) (fpStoreWord_misaligned ha))⟩
  case fpDoubles =>
    intro he ha
    exact ⟨traps_of_exc rfl (Res.bind_of_open (needCp1_on hc) (fpLoadDouble_misaligned he ha)),
      traps_of_exc rfl (Res.bind_of_open (needCp1_on hc) (fpStoreDouble_misaligned he ha))⟩
  case fpxWords =>
    intro ha
    exact ⟨traps_of_exc rfl (Res.bind_of_open (needCop1x_on h4 hc) (fpLoadWord_misaligned ha)),
      traps_of_exc rfl (Res.bind_of_open (needCop1x_on h4 hc) (fpStoreWord_misaligned ha))⟩
  case fpxDoubles =>
    intro he ha
    exact ⟨traps_of_exc rfl (Res.bind_of_open (needCop1x_on h4 hc) (fpLoadDouble_misaligned he ha)),
      traps_of_exc rfl (Res.bind_of_open (needCop1x_on h4 hc) (fpStoreDouble_misaligned he ha))⟩

/-! ## SYNC (R256, R590) -/

/-- A request is an uncached store that is not accelerated. -/
theorem BusReq.isPlainStore_iff {r : BusReq} :
    r.isPlainStore = true ↔ ∃ pa bytes uc cause, r = .dspWrite false pa bytes uc cause := by
  refine ⟨fun h => ?_, ?_⟩
  · cases r with
    | dspWrite accel pa bytes uc cause =>
      obtain rfl : accel = false := by simpa [BusReq.isPlainStore] using h
      exact ⟨pa, bytes, uc, cause, rfl⟩
    | _ => cases h
  · rintro ⟨pa, bytes, uc, cause, rfl⟩; rfl

/-- The stores that hold a SYNC are in the FIFO of the uncached buffer or among its gathered entries (R914). -/
theorem storePending_iff {s : State} : storePending s = true ↔ (∃ u ∈ s.ext.fifo, u.accel = false) ∨
    ∃ e ∈ s.ext.gathered, ∃ pa bytes uc cause, .dspWrite false pa bytes uc cause ∈ e := by
  have plain : ∀ e : List BusReq, e.any BusReq.isPlainStore = true ↔
      ∃ pa bytes uc cause, .dspWrite false pa bytes uc cause ∈ e := by
    intro e
    rw [List.any_eq_true]
    refine ⟨?_, fun ⟨pa, bytes, uc, cause, h⟩ => ⟨_, h, rfl⟩⟩
    rintro ⟨r, hr, hp⟩
    obtain ⟨pa, bytes, uc, cause, rfl⟩ := BusReq.isPlainStore_iff.1 hp
    exact ⟨pa, bytes, uc, cause, hr⟩
  unfold storePending
  simp only [Bool.or_eq_true, List.any_eq_true, Bool.not_eq_true', plain]

/-- The instruction completes and changes the pc and LLbit only, which ends clear. -/
def completesUnlinked (i : Instr) (s : State) : Prop :=
  ∃ t, exec i s = .next t ∧ gprSame s t ∧ hiLoSame s t ∧ fallsThrough s t ∧ t.llbit = false ∧
    sameSystem s { t with llbit := s.llbit }

/-- A meaning that only breaks the link. -/
theorem completesUnlinked_of {i : Instr} {s : State} (h : exec i s = .next (advance (breakLl s))) : completesUnlinked i s :=
  ⟨_, h, fun _ => rfl, ⟨rfl, rfl⟩, advance_fallsThrough (breakLl s), rfl, sameSystem.refl s⟩

theorem exec_sync_done {s : State} {stype : BitVec 5} (hg : s.ext.gblPerf = true) (hp : storePending s = false) :
    exec (.sync stype) s = .next (advance (breakLl s)) := by
  show execSync stype s = _
  unfold execSync
  rw [hg, hp]; rfl

theorem exec_sync_waits {s : State} {stype : BitVec 5} (h : s.ext.gblPerf = false ∨ storePending s = true) :
    exec (.sync stype) s = .next { s with note := .waiting } := by
  show execSync stype s = _
  unfold execSync
  rw [if_neg, Res.finish_retry]
  obtain h | h := h <;> rw [h] <;> simp

/-! ## Prefetches (R591, R592) -/

theorem prefetchHint_unlisted : ∀ {hint : BitVec 5}, hint ∉ [0#5, 1#5, 4#5, 5#5, 6#5, 7#5] → prefetchHint hint = none := by
  decide

theorem prefetchHint_load : ∀ {hint : BitVec 5}, hint ∈ [0#5, 4#5, 6#5] → prefetchHint hint = some false := by decide

theorem prefetchHint_store : ∀ {hint : BitVec 5}, hint ∈ [1#5, 5#5, 7#5] → prefetchHint hint = some true := by decide

section Prefetch

variable {s : State} {hint : BitVec 5} {va : DWord}

/-- A prefetch with a hint that is not listed is dropped (log 46). -/
theorem prefetch_unlisted (h : prefetchHint hint = none) : prefetch hint va s = breakLl s := by
  unfold prefetch; rw [h]

/-- A prefetch that takes an exception is dropped (R591). -/
theorem prefetch_untranslated (h : ∀ x, translate s va .load ≠ .ok x s) : prefetch hint va s = breakLl s := by
  have never : ∀ x t, translate s va .load ≠ .ok x t := by
    intro x t ht
    have hs : Res.Holds (· = s) (translate s va .load) := translate_holds s va .load
    rw [ht] at hs
    obtain rfl : t = s := hs
    exact h x ht
  unfold prefetch
  split
  · next x t _ ht => exact absurd ht (never x t)
  · rfl

/-- A prefetch of an address that is not cached is dropped (R591; log 12). -/
theorem prefetch_uncached {x : Xlate} (ht : translate s va .load = .ok x s) (hc : isCached x.ca = false) :
    prefetch hint va s = breakLl s := by
  unfold prefetch
  rw [ht]
  cases prefetchHint hint with
  | none => rfl
  | some store => dsimp only; rw [if_neg (by simp [hc])]

/-- The check of the data cache tags does not look at the counts. -/
theorem checkDTags_count (s : State) (va : DWord) (f : CacheEvents → CacheEvents) :
    (checkDTags va (s.count f)).1 = (checkDTags va s).1 := by
  have tags : ∀ set w, (s.count f).dtag set w = s.dtag set w := fun _ _ => rfl
  unfold checkDTags checkDSet
  dsimp only
  rw [tags, tags]
  split <;> rfl

/-- A prefetch that hits and needs no ownership turns the LRU bit of its set. -/
theorem prefetch_hit {x : Xlate} {store w : Bool} (hh : prefetchHint hint = some store) (ht : translate s va .load = .ok x s)
    (hc : isCached x.ca = true) (hr : dRefilling s x.va x.pa = false) (hg : (checkDTags x.va s).1 = false)
    (hw : dHit s x.va x.pa = some w) (ho : store = false ∨ (s.dtag (dSet x.va) w).st = 3#2) :
    ∃ f, prefetch hint va s = breakLl ((s.count f).setDlru (dSet x.va) (!w)) := by
  refine ⟨fun e => { e with prefTags := e.prefTags + 1 }, ?_⟩
  unfold prefetch
  rw [hh, ht]
  dsimp only
  rw [if_pos ⟨hc, hr⟩]
  rw [dAccess_hit (s := s.count fun e => { e with prefTags := e.prefTags + 1 })
    (a := { dataReq x x.pa .load 3#2 with excl := store, pref := true }) ((checkDTags_count s _ _).trans hg) hr hw ho]
  rfl

end Prefetch

theorem exec_pref {s : State} {base hint : BitVec 5} {offset : BitVec 16} (h4 : s.mips4 = true) :
    exec (.pref base hint offset) s = .next (advance (prefetch hint (s.rget base + sext64 offset) s)) :=
  congrArg Res.finish (Res.bind_of_open (needMips4_on h4) rfl)

theorem exec_prefx {s : State} {base index hint : BitVec 5} (h4 : s.mips4 = true) (hc : s.cp1Usable = true) :
    exec (.prefx base index hint) s = .next (advance (prefetch hint (s.rget base + s.rget index) s)) :=
  congrArg Res.finish (Res.bind_of_open (needCop1x_on h4 hc) rfl)

/-- Settles O43: a SYNC by the two outcomes of its condition; PREF and PREFX by the cases of `prefetch`, which both reach. -/
theorem syncPrefetch : Obligations.SyncPrefetch := by
  unfold Obligations.SyncPrefetch
  rintro s base index hint stype offset _ rfl
  refine ⟨fun held hheld => ?sync, fun h4 => traps_of_exc rfl (Res.bind_of_exc (needMips4_off h4)), fun i va hi => ?prefetch⟩
  case sync =>
    have hp : storePending s = true ↔ held := storePending_iff.trans hheld.symm
    refine ⟨fun hg hn => completesUnlinked_of (exec_sync_done hg ?_), fun h => exec_sync_waits (h.imp_right hp.2)⟩
    exact Bool.eq_false_iff.2 fun h => hn (hp.1 h)
  case prefetch =>
    have he : exec i s = .next (advance (prefetch hint va s)) := by
      obtain ⟨rfl, h4, rfl⟩ | ⟨rfl, h4, hc, rfl⟩ := hi
      · exact exec_pref h4
      · exact exec_prefx h4 hc
    have dropped : prefetch hint va s = breakLl s → completesUnlinked i s := fun h => completesUnlinked_of (h ▸ he)
    refine ⟨fun h => dropped (prefetch_unlisted (prefetchHint_unlisted h)), fun h => dropped (prefetch_untranslated h),
      fun x ht => ⟨fun hc => dropped (prefetch_uncached ht hc), fun w hc hr hg hw ho => ?_⟩⟩
    obtain ⟨store, hh, hst⟩ : ∃ store, prefetchHint hint = some store ∧ (store = false ∨ (s.dtag (dSet x.va) w).st = 3#2) := by
      obtain h | ⟨h, hst⟩ := ho
      · exact ⟨false, prefetchHint_load h, .inl rfl⟩
      · exact ⟨true, prefetchHint_store h, .inr hst⟩
    obtain ⟨f, hf⟩ := prefetch_hit hh ht hc hr hg hw hst
    rw [hf] at he
    exact ⟨_, he, fun _ => rfl, ⟨rfl, rfl⟩, advance_fallsThrough (breakLl ((s.count f).setDlru (dSet x.va) (!w))), rfl, rfl,
      sameSystem.refl s⟩

/-! ## Instruction fetches (R235, R262) -/

/-- Four bytes in memory order as a word (R236). -/
theorem word_of_ordered (be : Bool) (b : Nat → Byte) : (BitVec.ofNat 64 (orderedValue be 4 b)).setWidth 32 =
    if be then b 0 ++ b 1 ++ b 2 ++ b 3 else b 3 ++ b 2 ++ b 1 ++ b 0 := by
  have l := fun k => (b k).isLt
  have l0 := l 0; have l1 := l 1; have l2 := l 2; have l3 := l 3
  apply BitVec.eq_of_toNat_eq
  rw [BitVec.toNat_setWidth, BitVec.toNat_ofNat]
  cases be
  · simp only [orderedValue_succ_false, Bool.false_eq_true, if_false, append_toNat]
    simp only [orderedValue, List.range_zero, List.map_nil, List.sum_nil]
    omega
  · simp only [orderedValue_succ_true, if_true, append_toNat]
    simp only [orderedValue, List.range_zero, List.map_nil, List.sum_nil]
    omega

/-- The bytes of a word within a doubleword, the most significant first. -/
theorem bytes_append_extract (d : DWord) (k : Nat) :
    (d.extractLsb' (k + 24) 8 ++ d.extractLsb' (k + 16) 8 ++ d.extractLsb' (k + 8) 8 ++ d.extractLsb' k 8 : Word) =
      d.extractLsb' k 32 := by
  rw [BitVec.extractLsb'_append_extractLsb'_eq_extractLsb' (by omega),
    BitVec.extractLsb'_append_extractLsb'_eq_extractLsb' (by omega),
    BitVec.extractLsb'_append_extractLsb'_eq_extractLsb' (by omega)]

/-- The byte lanes of the bytes from an aligned address on: they rise or fall from the half that bit 2 of the address names. -/
theorem laneOf_word (be : Bool) {pa : PAddr} {i : Nat} (h : pa.toNat % 4 = 0) (hi : i < 4) :
    laneOf be (pa.toNat + i) = (if be = pa.getLsbD 2 then 0 else 32) + 8 * (if be then 3 - i else i) := by
  have bit : pa.getLsbD 2 = decide (pa.toNat / 4 % 2 = 1) := Nat.testBit_eq_decide_div_mod_eq
  rw [bit]
  unfold laneOf
  by_cases hh : pa.toNat / 4 % 2 = 1
  · rw [decide_eq_true hh]
    cases be <;> simp only [if_true, if_false, Bool.false_eq_true] <;> omega
  · rw [decide_eq_false hh]
    cases be <;> simp only [if_true, if_false, Bool.false_eq_true, Bool.true_eq_false] <;> omega

/-- The word that comes in the four byte lanes from an aligned address on (R928): the half of the doubleword that bit 2 of the
address names, in the memory's byte order. -/
theorem word_of_lanes (be : Bool) (d : DWord) (pa : PAddr) (h : pa.toNat % 4 = 0) :
    (valueOfBytes be (readBytes (fun a => d.extractLsb' (laneOf be a) 8) pa.toNat 4)).setWidth 32 =
      d.extractLsb' (if be = pa.getLsbD 2 then 0 else 32) 32 := by
  rw [valueOfBytes_readBytes, word_of_ordered]
  simp only [laneOf_word be h (show 0 < 4 by decide), laneOf_word be h (show 1 < 4 by decide),
    laneOf_word be h (show 2 < 4 by decide), laneOf_word be h (show 3 < 4 by decide)]
  rw [← bytes_append_extract]
  cases be <;> rfl

section Fetch

variable {s : State} {x : Xlate}

theorem fetchWord_misaligned (ha : s.pc.toNat % 4 ≠ 0) : fetchWord s = .exc (.addressError s.pc .fetch) s := by
  unfold fetchWord; rw [if_pos ha]

/-- The reference of a cached fetch. -/
def fetchReq (x : Xlate) : CReq :=
  { va := x.va, pa := x.pa, ca := x.ca, kind := .fetch, cause := 0#2, upCause := 0#2, excl := false, upState := 0#2, pref := false }

theorem fetchWord_cached (ha : s.pc.toNat % 4 = 0) (ht : translate s s.pc .fetch = .ok x s) (hc : isCached x.ca = true) :
    fetchWord s = cachedFetch (fetchReq x) s := by
  unfold fetchWord
  rw [if_neg (by omega), ht, Res.bind_ok, if_pos hc]
  rfl

theorem fetchWord_uncached (ha : s.pc.toNat % 4 = 0) (ht : translate s s.pc .fetch = .ok x s) (hc : x.ca = 2#3 ∨ x.ca = 7#3) :
    fetchWord s = (uncachedRead false .fetch 0#2 x.pa 4 x.uc s).bind fun bs s =>
      .ok ((valueOfBytes s.bigEndianMem bs).setWidth 32) s := by
  unfold fetchWord
  rw [if_neg (by omega), ht, Res.bind_ok, if_neg, if_pos]
  · rcases hc with h | h <;> rw [h] <;> rfl
  · rcases hc with h | h <;> rw [h] <;> decide

theorem fetchWord_reserved (ha : s.pc.toNat % 4 = 0) (ht : translate s s.pc .fetch = .ok x s) (hc : x.ca ∈ [0#3, 1#3, 6#3]) :
    fetchWord s = .refuse .reservedCacheAlgorithm := by
  have reserved : ∀ ca ∈ [0#3, 1#3, 6#3], isCached ca = false ∧ isUncached ca = false := by decide
  obtain ⟨h1, h2⟩ := reserved _ hc
  unfold fetchWord
  rw [if_neg (by omega), ht, Res.bind_ok, h1, h2]
  rfl

/-- A fetch that hits: the word of the line, and the LRU bit turned (R984). -/
theorem cachedFetch_hit {a : CReq} {w : Bool} (hg : (checkITags a.va s).1 = false) (hw : iHit s a.va a.pa = some w)
    (hp : (s.iword (iSet a.va) w (a.va.extractLsb' 2 4).toNat).parBad = false) :
    cachedFetch a s = .ok (s.iword (iSet a.va) w (a.va.extractLsb' 2 4).toNat).word (s.setIlru (iSet a.va) (!w)) := by
  unfold cachedFetch
  rw [checkITags_good hg]
  dsimp only
  rw [errGate_good, Res.bind_ok, hw]
  unfold readI
  dsimp only
  rw [hp, errGate_good, Res.bind_ok]
  rfl

/-- An uncached read whose response brings a doubleword takes its bytes from their lanes; corrected and lost cycles of the
response are reported on the way (R928, R955, R987). -/
theorem uncachedRead_lanes {kind : AccessKind} {cause uc : BitVec 2} {pa : PAddr} {n : Nat} {r : Reply} {rs : List Reply}
    {d : DWord} {t : State} (hf : s.busFree) (hr : s.ext.replies = r :: rs) (hm : s.physAt pa.toNat = .ram)
    (ht : t = reportCycles r { s with ext := { s.ext with bus := .dspRead 0#3 pa n uc cause :: s.ext.bus, replies := rs } })
    (hack : r.completion = .ack) (hcame : r.withData = true) (hgood : r.bad.getLsbD 0 = false)
    (hd : r.data.lookup 0 = some d) : uncachedRead false kind cause pa n uc s =
      .ok (readBytes (fun a => d.extractLsb' (laneOf t.bigEndianMem a) 8) pa.toNat n) t := by
  have received : receive true true (s.emit (.dspRead 0#3 pa n uc cause)) = (r, t) := by
    rw [ht]; exact receive_reply hr (.inr ⟨hack, hcame⟩)
  have hw : t.hw = s.hw := by rw [ht]; exact (reportCycles_same _ _).1
  have ram : t.physAt pa.toNat = .ram := by unfold State.physAt at hm ⊢; rw [hw]; exact hm
  unfold uncachedRead
  rw [drain_free hf, makeRoom_free hf, Res.bind_ok]
  dsimp only
  rw [if_neg (by rw [uncachedPending_free hf]; decide), nextNumber_free hf, received]
  dsimp only
  rw [ram, if_neg (by rintro ⟨_, h⟩; cases h), hack]
  dsimp only
  rw [hgood, if_neg (by decide)]
  unfold replyByte
  rw [hd]

end Fetch

/-- Settles O33: the fetch by its algorithm; uncached by the response that comes, cached by whether the block is there. -/
theorem fetch : Obligations.Fetch := by
  unfold Obligations.Fetch
  intro s x
  refine ⟨fetchWord_misaligned, fun ha ht => ⟨fun hc hf hm => ⟨fun hr b hb => ?memory, fun r rs t hr htt => ⟨fun hb => ?fails,
    fun d hack hcame hgood hd => ?data⟩⟩, fun w hc hg hw hp => ?hit, fetchWord_miss ha, fetchWord_reserved ha ht⟩⟩
  case memory =>
    rw [fetchWord_uncached ha ht hc, uncachedRead_ram (by decide) hf hr hm, Res.bind_ok, valueOfBytes_readBytes]
    obtain rfl : b = fun k => Memory.read s.mem (x.pa.toNat + k) := funext hb
    rw [word_of_ordered]
    rfl
  case fails =>
    rw [fetchWord_uncached ha ht hc, uncachedRead_fails hf hr hb (hm _ le_rfl (by omega)), Res.bind_exc, htt]
  case data =>
    have aligned : x.pa.toNat % 4 = 0 := by have := (translate_low ht).1; omega
    have order : t.bigEndianMem = s.bigEndianMem := by
      unfold State.bigEndianMem; rw [htt, (reportCycles_same _ _).1]
    rw [fetchWord_uncached ha ht hc, uncachedRead_lanes hf hr (hm _ le_rfl (by omega)) htt hack hcame hgood hd, Res.bind_ok,
      word_of_lanes _ _ _ aligned, order]
  case hit =>
    rw [fetchWord_cached ha ht hc]
    exact cachedFetch_hit (a := fetchReq x) hg hw hp

end Sys2Proof.Machine
end

section
/-! PROOFS. The family `21_address_translation.md`: the address registers that an exception writes (O19), the segments that
are unmapped or illegal (O44), the TLB lookup of a mapped address (O45), and the TLB writes (O50). -/

namespace Sys2Proof.Machine

/-! ## The fields of the address registers (R89, R100, R139) -/

theorem contextWith_vpn (ctx : DWord) (vpn : BitVec 19) : (contextWith ctx vpn).extractLsb' 4 19 = vpn :=
  (BitVec.extractLsb'_append_eq_of_le (by decide)).trans BitVec.extractLsb'_append_eq_right

theorem contextWith_base (ctx : DWord) (vpn : BitVec 19) :
    (contextWith ctx vpn).extractLsb' 23 41 = ctx.extractLsb' 23 41 :=
  (BitVec.extractLsb'_append_eq_of_le (by decide)).trans BitVec.extractLsb'_append_eq_left

theorem xcontextWith_base (x : DWord) (rvpn : BitVec 33) :
    (xcontextWith x rvpn).extractLsb' 37 27 = x.extractLsb' 37 27 :=
  (BitVec.extractLsb'_append_eq_of_le (by decide)).trans BitVec.extractLsb'_append_eq_left

theorem xcontextWith_region (x : DWord) (r : BitVec 2) (vpn : BitVec 31) :
    (xcontextWith x (r ++ vpn)).extractLsb' 35 2 = r :=
  (BitVec.extractLsb'_append_eq_of_le (by decide)).trans <|
    (BitVec.extractLsb'_append_eq_of_add_le (by decide)).trans BitVec.extractLsb'_append_eq_left

theorem xcontextWith_vpn (x : DWord) (r : BitVec 2) (vpn : BitVec 31) :
    (xcontextWith x (r ++ vpn)).extractLsb' 4 31 = vpn :=
  (BitVec.extractLsb'_append_eq_of_le (by decide)).trans <|
    (BitVec.extractLsb'_append_eq_of_add_le (by decide)).trans BitVec.extractLsb'_append_eq_right

theorem entryHiOf_region (r : BitVec 2) (vpn2 : BitVec 31) (asid : BitVec 8) :
    (entryHiOf r vpn2 asid).extractLsb' 62 2 = r :=
  (BitVec.extractLsb'_append_eq_of_le (by decide)).trans <| (BitVec.extractLsb'_append_eq_of_le (by decide)).trans <|
    (BitVec.extractLsb'_append_eq_of_le (by decide)).trans BitVec.extractLsb'_append_eq_left

theorem entryHiOf_vpn2 (r : BitVec 2) (vpn2 : BitVec 31) (asid : BitVec 8) :
    (entryHiOf r vpn2 asid).extractLsb' 13 31 = vpn2 :=
  (BitVec.extractLsb'_append_eq_of_le (by decide)).trans <| (BitVec.extractLsb'_append_eq_of_le (by decide)).trans
    BitVec.extractLsb'_append_eq_right

theorem entryHiOf_asid (r : BitVec 2) (vpn2 : BitVec 31) (asid : BitVec 8) :
    (entryHiOf r vpn2 asid).extractLsb' 0 8 = asid := BitVec.extractLsb'_append_eq_right

/-! ## What an exception records -/

section Records

variable (e : Exc) (s : State)

/-- The exceptions that come from the TLB, with the address they are about (R315). -/
def Exc.tlbAddress : Exc → Option DWord
  | .tlbRefill va _ | .tlbInvalid va _ | .tlbModified va => some va
  | _ => none

/-- A TLB exception records its address, and the page number and region of it (R315). -/
theorem takeException_tlb_address {va : DWord} (h : e.tlbAddress = some va) :
    (takeException e s).cp0.badVAddr = va ∧
    (takeException e s).cp0.context = contextWith s.cp0.context (va.extractLsb' 13 19) ∧
    (takeException e s).cp0.xcontext =
      xcontextWith s.cp0.xcontext (va.extractLsb' 62 2 ++ va.extractLsb' 13 31) ∧
    (takeException e s).cp0.entryHi = entryHiOf (va.extractLsb' 62 2) (va.extractLsb' 13 31) s.asid := by
  cases e with
  | tlbRefill | tlbInvalid | tlbModified => cases h; exact ⟨rfl, rfl, rfl, rfl⟩
  | _ => cases h

/-- Every exception keeps EntryHi.ASID and the page-table bases of Context and XContext (R89, R139, R309, R315). -/
theorem takeException_keeps_bases :
    (takeException e s).cp0.entryHi.extractLsb' 0 8 = s.cp0.entryHi.extractLsb' 0 8 ∧
    (takeException e s).cp0.context.extractLsb' 23 41 = s.cp0.context.extractLsb' 23 41 ∧
    (takeException e s).cp0.xcontext.extractLsb' 37 27 = s.cp0.xcontext.extractLsb' 37 27 := by
  cases e with
  | addressError | tlbRefill | tlbInvalid | tlbModified =>
    exact ⟨(entryHiOf_asid _ _ _).trans (asid_eq s), contextWith_base _ _, xcontextWith_base _ _⟩
  | busError | overflow | trap | syscall | breakpoint | reservedInstr | copUnusable | floatingPoint | watch | interrupt =>
    exact ⟨rfl, rfl, rfl⟩

/-- Only the Watch exception touches the delayed-Watch latch (R1050). -/
theorem takeException_watchPending :
    (takeException e s).cp0.watchPending = if e = .watch then false else s.cp0.watchPending := by
  cases e <;> rfl

end Records

/-- Settles O19: by the kind of exception, each address register as `recordExc` writes it. -/
theorem exceptionRegisters : Obligations.ExceptionRegisters := by
  unfold Obligations.ExceptionRegisters
  rintro s t e rfl
  obtain ⟨asid, contextBase, xcontextBase⟩ := takeException_keeps_bases e s
  refine ⟨fun va k h => ?tlb, fun va k h => ?addressError, asid, contextBase, xcontextBase, fun h => ?other,
    takeException_watchPending e s⟩
  case tlb =>
    have hva : e.tlbAddress = some va := by obtain rfl | rfl | rfl := h <;> rfl
    obtain ⟨badVAddr, context, xcontext, entryHi⟩ := takeException_tlb_address e s hva
    rw [badVAddr, context, xcontext, entryHi]
    exact ⟨rfl, contextWith_vpn _ _, xcontextWith_region _ _ _, xcontextWith_vpn _ _ _, entryHiOf_region _ _ _,
      entryHiOf_vpn2 _ _ _⟩
  case addressError => rw [h]; rfl
  case other =>
    cases e with
    | addressError va k | tlbRefill va k | tlbInvalid va k => exact absurd (h va k) (by simp)
    | tlbModified va => exact absurd (h va .load) (by simp)
    | busError | overflow | trap | syscall | breakpoint | reservedInstr | copUnusable | floatingPoint | watch | interrupt =>
      exact ⟨rfl, rfl, rfl, rfl, rfl, rfl⟩

/-! ## Segments by address ranges (R297 to R306) -/

/-- A field of a bit vector as a quotient and a remainder. -/
theorem extractLsb'_eq_iff {w i n : Nat} {v : BitVec w} {c : BitVec n} :
    v.extractLsb' i n = c ↔ v.toNat / 2 ^ i % 2 ^ n = c.toNat := by
  rw [BitVec.toNat_eq, BitVec.extractLsb'_toNat, Nat.shiftRight_eq_div_pow]

theorem getLsbD_eq_true_iff {w i : Nat} {v : BitVec w} : v.getLsbD i = true ↔ v.toNat / 2 ^ i % 2 = 1 := by
  rw [BitVec.getLsbD, Nat.testBit_eq_decide_div_mod_eq, decide_eq_true_iff]

theorem getLsbD_eq_false_iff {w i : Nat} {v : BitVec w} : v.getLsbD i = false ↔ v.toNat / 2 ^ i % 2 = 0 := by
  rw [← Bool.not_eq_true, getLsbD_eq_true_iff]; omega

/-- The addresses that are the sign extension of their low word. -/
theorem eq_sext64_iff {va : DWord} :
    va = sext64 (va.setWidth 32) ↔ va.toNat < 2 ^ 31 ∨ 0xFFFFFFFF80000000 ≤ va.toNat := by
  have := va.isLt
  rw [BitVec.toNat_eq, BitVec.toNat_signExtend, BitVec.msb_setWidth, BitVec.getLsbD, Nat.testBit_eq_decide_div_mod_eq]
  simp only [BitVec.toNat_setWidth]
  norm_num
  split <;> omega

section Segments

variable {s : State} {va : DWord}

/-- The four regions of the 64-bit address space, by VA[63:62] (R301). -/
theorem region_cases (va : DWord) :
    (va.extractLsb' 62 2 = 0#2 ∧ va.toNat < 2 ^ 62) ∨ (va.extractLsb' 62 2 = 1#2 ∧ 2 ^ 62 ≤ va.toNat ∧ va.toNat < 2 ^ 63) ∨
    (va.extractLsb' 62 2 = 2#2 ∧ 2 ^ 63 ≤ va.toNat ∧ va.toNat < 0xC000000000000000) ∨
    (va.extractLsb' 62 2 = 3#2 ∧ 0xC000000000000000 ≤ va.toNat) := by
  have := va.isLt
  simp only [extractLsb'_eq_iff, BitVec.toNat_ofNat]
  omega

/-- A segment that is mapped where a condition on the address holds, and illegal elsewhere. -/
abbrev mappedIf (c : Prop) [Decidable c] : Segment := if c then .mapped else .illegal

theorem mappedIf_congr {c d : Prop} [Decidable c] [Decidable d] (h : c ↔ d) : mappedIf c = mappedIf d :=
  if_congr h rfl rfl

theorem ite_mappedIf {p c : Prop} [Decidable p] [Decidable c] :
    (if p then mappedIf c else .illegal) = mappedIf (p ∧ c) := by
  by_cases hp : p <;> simp [hp]

/-- User mode (R297). -/
theorem segmentOf_user (hm : s.mode = .user) : segmentOf s va =
    mappedIf (va.toNat < 2 ^ 31 ∨ s.statusBit 5 = true ∧ va.toNat < 2 ^ 44) := by
  have := va.isLt
  unfold segmentOf userSegment
  rw [hm]
  cases s.statusBit 5
  · exact mappedIf_congr (by simp [extractLsb'_eq_iff]; omega)
  · exact mappedIf_congr (by simp [extractLsb'_eq_iff]; omega)

/-- Supervisor mode with 32-bit addresses (R298). -/
theorem supervisorSegment_narrow (hx : s.statusBit 6 = false) (hv : va = sext64 (va.setWidth 32)) :
    supervisorSegment s va =
      mappedIf (va.toNat < 2 ^ 31 ∨ 0xFFFFFFFFC0000000 ≤ va.toNat ∧ va.toNat < 0xFFFFFFFFE0000000) := by
  have := va.isLt
  rw [eq_sext64_iff] at hv
  unfold supervisorSegment
  rw [hx, if_neg Bool.false_ne_true]
  split
  case isTrue hl =>
    rw [getLsbD_eq_false_iff] at hl
    exact (if_pos (by omega)).symm
  case isFalse hl =>
    rw [getLsbD_eq_false_iff] at hl
    exact mappedIf_congr (by simp [extractLsb'_eq_iff]; omega)

/-- Supervisor mode with 64-bit addresses (R299). -/
theorem supervisorSegment_wide (hx : s.statusBit 6 = true) : supervisorSegment s va = mappedIf
    (va.toNat < 2 ^ 31 ∨ 0xFFFFFFFFC0000000 ≤ va.toNat ∧ va.toNat < 0xFFFFFFFFE0000000 ∨
      s.statusBit 5 = true ∧ va.toNat < 2 ^ 44 ∨ 2 ^ 62 ≤ va.toNat ∧ va.toNat < 2 ^ 62 + 2 ^ 44) := by
  have := va.isLt
  unfold supervisorSegment
  rw [hx, if_pos rfl]
  obtain ⟨hr, hv⟩ | ⟨hr, hv⟩ | ⟨hr, hv⟩ | ⟨hr, hv⟩ := region_cases va <;> rw [hr]
  · cases s.statusBit 5
    · exact mappedIf_congr (by simp [extractLsb'_eq_iff]; omega)
    · exact mappedIf_congr (by simp [extractLsb'_eq_iff]; omega)
  · exact mappedIf_congr (by simp [extractLsb'_eq_iff]; omega)
  · exact (if_neg (by omega)).symm
  · exact mappedIf_congr (by simp [extractLsb'_eq_iff]; omega)

/-- Supervisor mode (R298, R299). -/
theorem segmentOf_supervisor (hm : s.mode = .supervisor) : segmentOf s va = mappedIf
    (va.toNat < 2 ^ 31 ∨ 0xFFFFFFFFC0000000 ≤ va.toNat ∧ va.toNat < 0xFFFFFFFFE0000000 ∨ s.statusBit 6 = true ∧
      (s.statusBit 5 = true ∧ va.toNat < 2 ^ 44 ∨ 2 ^ 62 ≤ va.toNat ∧ va.toNat < 2 ^ 62 + 2 ^ 44)) := by
  unfold segmentOf
  rw [hm]
  dsimp only
  split
  case isTrue hi =>
    obtain ⟨hx, hv⟩ := hi
    rw [ne_eq, eq_sext64_iff] at hv
    simp only [hx, Bool.false_eq_true, false_and, or_false]
    exact (if_neg (by omega)).symm
  case isFalse hi =>
    cases hx : s.statusBit 6
    case true => rw [supervisorSegment_wide hx]; simp
    case false =>
      rw [supervisorSegment_narrow hx (by simpa [hx] using hi)]; simp

/-! ### Kernel mode, by the region of the address -/

/-- kseg0, kseg1 and the segments above them (R300). -/
theorem kernelSegment32_high (hb : va.getLsbD 31 ≠ false) : kernelSegment32 s va =
    if va.extractLsb' 29 3 = 4#3 then kseg0Segment s va
    else if va.extractLsb' 29 3 = 5#3 then kseg1Segment va else .mapped := by
  unfold kernelSegment32
  rw [if_neg hb]
  split
  case h_1 h4 => rw [if_pos h4]
  case h_2 h5 => rw [h5, if_neg (by decide), if_pos rfl]
  case h_3 h4 h5 => rw [if_neg h4, if_neg h5]

/-- xkuseg, or the user segment with ERL = 1 (R301, R306). -/
theorem kernelSegment64_xkuseg (hr : va.extractLsb' 62 2 = 0#2) : kernelSegment64 s va =
    if s.statusBit 5 && !s.statusBit 2 then mappedIf (va.extractLsb' 44 18 = 0#18)
    else if va.extractLsb' 31 31 = 0#31 then kusegSegment s va else .illegal := by
  unfold kernelSegment64; rw [hr]; rfl

/-- xksseg (R301). -/
theorem kernelSegment64_xksseg (hr : va.extractLsb' 62 2 = 1#2) : kernelSegment64 s va =
    if s.statusBit 6 then mappedIf (va.extractLsb' 44 18 = 0#18) else .illegal := by
  unfold kernelSegment64; rw [hr]; rfl

/-- xkphys (R302). -/
theorem kernelSegment64_xkphys (hr : va.extractLsb' 62 2 = 2#2) : kernelSegment64 s va = xkphysSegment va := by
  unfold kernelSegment64; rw [hr]; rfl

/-- xkseg and what lies between it and the compatibility segments (R303). -/
theorem kernelSegment64_xkseg (hr : va.extractLsb' 62 2 = 3#2) (hh : va.toNat < 0xFFFFFFFF80000000) :
    kernelSegment64 s va = mappedIf (va.toNat ≤ 0xC0000FFEFFFFFFFF) := by
  have hn : ¬ 0xFFFFFFFF80000000#64 ≤ va := by rw [BitVec.le_def]; exact Nat.not_le.2 hh
  unfold kernelSegment64
  rw [hr]
  exact if_congr Iff.rfl rfl (if_neg hn)

/-- ckseg0, ckseg1 and the compatibility segments above them (R303). -/
theorem kernelSegment64_ckseg (hr : va.extractLsb' 62 2 = 3#2) (hh : 0xFFFFFFFF80000000 ≤ va.toNat) :
    kernelSegment64 s va =
      if va.extractLsb' 29 2 = 0#2 then kseg0Segment s va
      else if va.extractLsb' 29 2 = 1#2 then kseg1Segment va else .mapped := by
  have hl : ¬ va ≤ 0xC0000FFEFFFFFFFF#64 := by rw [BitVec.le_def]; simp; omega
  unfold kernelSegment64
  rw [hr]
  refine (if_neg hl).trans ((if_pos (BitVec.le_def.2 (by simpa using hh))).trans ?_)
  split
  case h_1 h0 => rw [if_pos h0]
  case h_2 h1 => rw [h1, if_neg (by decide), if_pos rfl]
  case h_3 h0 h1 => rw [if_neg h0, if_neg h1]

/-! ### Kernel mode, by ranges -/

/-- With KX = 0 the sign-extended addresses, with KX = 1 all (R300, R301). -/
theorem segmentOf_kernel (hm : s.mode = .kernel) : segmentOf s va =
    if s.statusBit 7 then kernelSegment64 s va
    else if va.toNat < 2 ^ 31 ∨ 0xFFFFFFFF80000000 ≤ va.toNat then kernelSegment32 s va else .illegal := by
  unfold segmentOf
  rw [hm]
  simp only [← eq_sext64_iff, ne_eq, ite_not]

/-- The low 2 Gbytes (R300, R301, R306). -/
theorem segmentOf_kernel_low (hm : s.mode = .kernel) (hv : va.toNat < 2 ^ 31) : segmentOf s va = kusegSegment s va := by
  rw [segmentOf_kernel hm, if_pos (c := _ ∨ _) (.inl hv)]
  split
  case isTrue =>
    have h18 : va.extractLsb' 44 18 = 0#18 := extractLsb'_eq_iff.2 (by simp; omega)
    have h31 : va.extractLsb' 31 31 = 0#31 := extractLsb'_eq_iff.2 (by simp; omega)
    rw [kernelSegment64_xkuseg (extractLsb'_eq_iff.2 (by simp; omega)), mappedIf, if_pos h18, if_pos h31]
    unfold kusegSegment
    cases s.statusBit 5 <;> cases s.statusBit 2 <;> rfl
  case isFalse => exact if_pos (getLsbD_eq_false_iff.2 (by omega))

/-- kseg0, kseg1 and the mapped segments above them (R300, R303). -/
theorem segmentOf_kernel_high (hm : s.mode = .kernel) (hv : 0xFFFFFFFF80000000 ≤ va.toNat) : segmentOf s va =
    if va.toNat < 0xFFFFFFFFA0000000 then kseg0Segment s va
    else if va.toNat < 0xFFFFFFFFC0000000 then kseg1Segment va else .mapped := by
  have := va.isLt
  rw [segmentOf_kernel hm, if_pos (c := _ ∨ _) (.inr hv)]
  split
  case isTrue =>
    rw [kernelSegment64_ckseg (extractLsb'_eq_iff.2 (by simp; omega)) hv]
    simp only [extractLsb'_eq_iff, BitVec.toNat_ofNat, Nat.reducePow]
    exact ite_congr (propext (by omega)) (fun _ => rfl) fun _ => if_congr (by omega) rfl rfl
  case isFalse =>
    rw [kernelSegment32_high (by rw [ne_eq, getLsbD_eq_false_iff]; omega)]
    simp only [extractLsb'_eq_iff, BitVec.toNat_ofNat, Nat.reducePow]
    exact ite_congr (propext (by omega)) (fun _ => rfl) fun _ => if_congr (by omega) rfl rfl

/-- Between them: illegal with KX = 0; with KX = 1 xkphys, the three mapped spaces, and illegal elsewhere (R300 to R303). -/
theorem segmentOf_kernel_between (hm : s.mode = .kernel) (hl : 2 ^ 31 ≤ va.toNat) (hh : va.toNat < 0xFFFFFFFF80000000) :
    segmentOf s va =
      if s.statusBit 7 = true ∧ 2 ^ 63 ≤ va.toNat ∧ va.toNat < 0xC000000000000000 then xkphysSegment va
      else mappedIf (s.statusBit 7 = true ∧ (s.statusBit 5 = true ∧ s.statusBit 2 = false ∧ va.toNat < 2 ^ 44 ∨
        s.statusBit 6 = true ∧ 2 ^ 62 ≤ va.toNat ∧ va.toNat < 2 ^ 62 + 2 ^ 44 ∨
        0xC000000000000000 ≤ va.toNat ∧ va.toNat ≤ 0xC0000FFEFFFFFFFF)) := by
  rw [segmentOf_kernel hm, if_neg (c := _ ∨ _) (by omega)]
  cases s.statusBit 7
  case false => simp
  case true =>
    rw [if_pos rfl]
    simp only [true_and]
    obtain ⟨hr, hv⟩ | ⟨hr, hv⟩ | ⟨hr, hv⟩ | ⟨hr, hv⟩ := region_cases va
    · have h31 : va.extractLsb' 31 31 ≠ 0#31 := by rw [ne_eq, extractLsb'_eq_iff]; simp; omega
      rw [kernelSegment64_xkuseg hr, if_neg (c := _ ∧ _) (by omega), if_neg h31, ite_mappedIf]
      refine mappedIf_congr ?_
      cases s.statusBit 5 <;> cases s.statusBit 2 <;> simp [extractLsb'_eq_iff] <;> omega
    · rw [kernelSegment64_xksseg hr, if_neg (c := _ ∧ _) (by omega), ite_mappedIf]
      refine mappedIf_congr ?_
      cases s.statusBit 6 <;> simp [extractLsb'_eq_iff] <;> omega
    · rw [kernelSegment64_xkphys hr, if_pos hv]
    · rw [kernelSegment64_xkseg hr hh, if_neg (c := _ ∧ _) (by omega)]
      exact mappedIf_congr (by omega)

/-! ### The mapped addresses, and what is never mapped -/

/-- Every address that `mappedIn` lists is in a mapped segment (R297 to R303). -/
theorem segmentOf_mapped (h : mappedIn s va.toNat) : segmentOf s va = .mapped := by
  unfold mappedIn at h
  cases hm : s.mode <;> rw [hm] at h <;> dsimp only at h
  case user => rw [segmentOf_user hm, mappedIf, if_pos h]
  case supervisor => rw [segmentOf_supervisor hm, mappedIf, if_pos h]
  case kernel =>
    obtain ⟨hERL, hv⟩ | hv | hc := h
    · rw [segmentOf_kernel_low hm hv]
      exact if_neg (by rw [hERL]; exact Bool.false_ne_true)
    · rw [segmentOf_kernel_high hm (by omega), if_neg (by omega), if_neg (by omega)]
    · by_cases hl : va.toNat < 2 ^ 31
      · obtain ⟨_, ⟨_, hERL, _⟩ | ⟨_, hv, _⟩ | ⟨hv, _⟩⟩ := hc
        · rw [segmentOf_kernel_low hm hl]
          exact if_neg (by rw [hERL]; exact Bool.false_ne_true)
        · omega
        · omega
      · rw [segmentOf_kernel_between hm (by omega) (by omega), if_neg (by omega), mappedIf, if_pos hc]

/-- An address that is not mapped is illegal in User and Supervisor mode; in Kernel mode outside the unmapped segments
(R297 to R303). -/
theorem segmentOf_illegal (h : ¬ mappedIn s va.toNat) (hk : s.mode = .kernel → 2 ^ 31 ≤ va.toNat ∧
      va.toNat < 0xFFFFFFFF80000000 ∧ (s.statusBit 7 = true → va.toNat < 2 ^ 63 ∨ 0xC000000000000000 ≤ va.toNat)) :
    segmentOf s va = .illegal := by
  unfold mappedIn at h
  cases hm : s.mode <;> rw [hm] at h <;> dsimp only at h
  case user => rw [segmentOf_user hm, mappedIf, if_neg h]
  case supervisor => rw [segmentOf_supervisor hm, mappedIf, if_neg h]
  case kernel =>
    obtain ⟨hl, hh, hx⟩ := hk hm
    rw [segmentOf_kernel_between hm hl hh, if_neg fun ⟨h7, hv⟩ => by have := hx h7; omega, mappedIf,
      if_neg fun hc => h (.inr (.inr hc))]

/-! ## Translation by segment (R310) -/

theorem checkedVa_of_not {k : AccessKind} (h : ¬ (s.mode = .user ∧ s.statusBit 5 = false ∧ k ≠ .fetch)) :
    checkedVa s va k = va := if_neg h

/-- The address check changes no mapped address (R296). -/
theorem checkedVa_of_mapped {k : AccessKind} (h : mappedIn s va.toNat) : checkedVa s va k = va := by
  unfold checkedVa
  split
  case isFalse => rfl
  case isTrue hu =>
    obtain ⟨hm, h5, _⟩ := hu
    unfold mappedIn at h
    rw [hm] at h
    simp only [h5, Bool.false_eq_true, false_and, or_false] at h
    apply BitVec.eq_of_toNat_eq
    simp only [BitVec.toNat_setWidth]
    omega

section Translate

variable {w : DWord} {k : AccessKind} (hc : checkedVa s va k = w)

include hc

theorem translate_illegal (h : segmentOf s w = .illegal) : translate s va k = .exc (.addressError w k) s := by
  unfold translate; dsimp only; rw [hc, h]

theorem translate_unmapped {pa : PAddr} {ca : BitVec 3} (h : segmentOf s w = .unmapped pa ca) :
    translate s va k = .ok { va := w, pa := pa, ca := ca, uc := vaUc w } s := by
  unfold translate; dsimp only; rw [hc, h]

theorem translate_mapped (h : segmentOf s w = .mapped) : translate s va k = tlbTranslate s w k := by
  unfold translate; dsimp only; rw [hc, h]

/-- In User mode an address that is not mapped is an Address Error (R297). -/
theorem translate_user_illegal (hm : s.mode = .user) (h : ¬ mappedIn s w.toNat) :
    translate s va k = .exc (.addressError w k) s :=
  translate_illegal hc (segmentOf_illegal h fun hk => nomatch hm.symm.trans hk)

end Translate

/-! ## The unmapped segments (R302, R305, R306) -/

/-- kseg0 and kseg1 by the offset within them (R305). -/
theorem kseg_offset {off : BitVec 29} {n : Nat} (hn : n = 0xFFFFFFFF80000000 ∨ n = 0xFFFFFFFFA0000000)
    (h : va.toNat = n + off.toNat) : (va.setWidth 29).setWidth 40 = off.setWidth 40 ∧ vaUc va = 3#2 := by
  have := off.isLt
  refine ⟨BitVec.eq_of_toNat_eq ?_, extractLsb'_eq_iff.2 ?_⟩ <;> simp <;> omega

/-- The fields of an xkphys address (R302). -/
theorem xkphys_fields {ca : BitVec 3} {uc : BitVec 2} {mid : BitVec 17} {pa : PAddr}
    (h : va = (2#2 ++ ca ++ uc ++ mid ++ pa : BitVec (2 + 3 + 2 + 17 + 40))) :
    (2 ^ 63 ≤ va.toNat ∧ va.toNat < 0xC000000000000000) ∧ va.extractLsb' 59 3 = ca ∧ vaUc va = uc ∧
      va.extractLsb' 40 17 = mid ∧ (va.extractLsb' 40 19 = 0#19 ↔ uc = 0#2 ∧ mid = 0#17) ∧ va.setWidth 40 = pa := by
  have hv : va.toNat = (((2 * 2 ^ 3 + ca.toNat) * 2 ^ 2 + uc.toNat) * 2 ^ 17 + mid.toNat) * 2 ^ 40 + pa.toNat := by
    rw [h]; simp only [append_toNat]; rfl
  have := ca.isLt; have := uc.isLt; have := mid.isLt; have := pa.isLt
  clear h
  simp only [vaUc, extractLsb'_eq_iff]
  simp only [← BitVec.toNat_inj, BitVec.toNat_setWidth, BitVec.toNat_ofNat, Nat.reducePow] at *
  omega

/-- xkphys by the fields of the address (R302). -/
theorem xkphysSegment_eq {ca : BitVec 3} {uc : BitVec 2} {mid : BitVec 17} {pa : PAddr}
    (h : va = (2#2 ++ ca ++ uc ++ mid ++ pa : BitVec (2 + 3 + 2 + 17 + 40))) :
    xkphysSegment va = if (ca = 2#3 ∨ ca = 7#3 ∨ uc = 0#2) ∧ mid = 0#17 then .unmapped pa ca else .illegal := by
  obtain ⟨_, hca, _, hmid, hhigh, hpa⟩ := xkphys_fields h
  unfold xkphysSegment
  simp only [hca, hmid, hhigh, hpa]
  by_cases hu : ca = 2#3 ∨ ca = 7#3
  · rw [if_pos hu]
    exact if_congr (by tauto) rfl rfl
  · rw [if_neg hu]
    exact if_congr (by tauto) rfl rfl

end Segments

/-- Settles O44: by the segment of the address, as the range lemmas give it. -/
theorem unmappedSegments : Obligations.UnmappedSegments := by
  unfold Obligations.UnmappedSegments
  intro s va k
  have checked (hm : s.mode ≠ .user) : checkedVa s va k = va := checkedVa_of_not fun ⟨hu, _⟩ => hm hu
  refine ⟨fun hm off => ⟨fun h => ?kseg0, fun h => ?kseg1⟩, fun hERL hv => ?low,
    fun hm hKX ca uc mid pa h => ⟨fun hu hmid => ?xkphys, fun hbad => ?xkphysIllegal⟩,
    fun hm hUX => ⟨fun hf hv => ?fetch32, fun hd hb => ?data32⟩, fun hm hUX hv => ?user64, fun hm hn => ?supervisor,
    fun hm hn hl hh hx => ?kernel⟩
  case kseg0 =>
    have := off.isLt
    have hv : va.toNat = 0xFFFFFFFF80000000 + off.toNat := by
      rw [h]; simp; omega
    obtain ⟨hpa, huc⟩ := kseg_offset (.inl rfl) hv
    have hs : segmentOf s va = .unmapped (off.setWidth 40) s.cp0.k0 := by
      rw [segmentOf_kernel_high hm (by omega), if_pos (by omega), kseg0Segment, hpa]
    rw [translate_unmapped (checked (by simp [hm])) hs, huc]
  case kseg1 =>
    have := off.isLt
    have hv : va.toNat = 0xFFFFFFFFA0000000 + off.toNat := by
      rw [h]; simp; omega
    obtain ⟨hpa, huc⟩ := kseg_offset (.inr rfl) hv
    have hs : segmentOf s va = .unmapped (off.setWidth 40) 2#3 := by
      rw [segmentOf_kernel_high hm (by omega), if_neg (by omega), if_pos (by omega), kseg1Segment, hpa]
    rw [translate_unmapped (checked (by simp [hm])) hs, huc]
  case low =>
    have hm := State.mode_of_erl hERL
    have huc : vaUc va = 0#2 := extractLsb'_eq_iff.2 (by simp; omega)
    have hpa : (va.setWidth 31).setWidth 40 = va.setWidth 40 := BitVec.eq_of_toNat_eq (by simp; omega)
    have hs : segmentOf s va = .unmapped (va.setWidth 40) 2#3 := by
      rw [segmentOf_kernel_low hm hv, kusegSegment, if_pos hERL, hpa]
    rw [translate_unmapped (checked (by simp [hm])) hs, huc]
  case xkphys =>
    obtain ⟨hr, _, huc, _⟩ := xkphys_fields h
    have hs : segmentOf s va = .unmapped pa ca := by
      rw [segmentOf_kernel_between hm (by omega) (by omega), if_pos ⟨hKX, hr⟩, xkphysSegment_eq h, if_pos ⟨hu, hmid⟩]
    rw [translate_unmapped (checked (by simp [hm])) hs, huc]
  case xkphysIllegal =>
    obtain ⟨hr, _⟩ := xkphys_fields h
    apply translate_illegal (checked (by simp [hm]))
    rw [segmentOf_kernel_between hm (by omega) (by omega), if_pos ⟨hKX, hr⟩, xkphysSegment_eq h, if_neg (by tauto)]
  case fetch32 =>
    exact translate_user_illegal (checkedVa_of_not fun ⟨_, _, hd⟩ => hd hf) hm (by simp [mappedIn, hm, hUX]; omega)
  case data32 =>
    rw [getLsbD_eq_true_iff] at hb
    exact translate_user_illegal (if_pos ⟨hm, hUX, hd⟩) hm (by simp [mappedIn, hm, hUX]; omega)
  case user64 =>
    exact translate_user_illegal (checkedVa_of_not (by simp [hUX])) hm (by simp [mappedIn, hm, hUX]; omega)
  case supervisor =>
    exact translate_illegal (checked (by simp [hm])) (segmentOf_illegal hn (by simp [hm]))
  case kernel =>
    exact translate_illegal (checked (by simp [hm])) (segmentOf_illegal hn fun _ => ⟨hl, hh, hx⟩)

/-! ## The TLB lookup (R310 to R313) -/

/-- The page sizes of the seven legal masks (R91, R312). -/
theorem pageShift_legal : ∀ x ∈ [(0x000#12, 12), (0x003#12, 14), (0x00F#12, 16), (0x03F#12, 18), (0x0FF#12, 20),
    (0x3FF#12, 22), (0xFFF#12, 24)], pageShift x.1 = some x.2 := by decide

section Lookup

variable {s : State} {va : DWord} {k : AccessKind}

/-- The indices of the entries that match an address (R310). -/
abbrev State.hitsFor (s : State) (va : DWord) : List Nat :=
  tlbHits (va.extractLsb' 62 2) (va.extractLsb' 13 31) s.asid s.tlb.toList 0

theorem tlbTranslate_refill (h : s.hitsFor va = []) : tlbTranslate s va k = .exc (.tlbRefill va k) s := by
  unfold State.hitsFor at h; unfold tlbTranslate; rw [h]

theorem tlbTranslate_multiple {i j : Nat} {l : List Nat} (h : s.hitsFor va = i :: j :: l) :
    tlbTranslate s va k = .refuse .tlbMultipleMatch := by
  unfold State.hitsFor at h; unfold tlbTranslate; rw [h]

section Page

variable {i b : Nat} {p : TlbPage} (h : s.hitsFor va = [i]) (hb : pageShift (s.tlbAt i).mask = some b)
  (hp : p = if va.getLsbD b then (s.tlbAt i).odd else (s.tlbAt i).even)

include h hb hp

/-- The one matching entry decides by the page that address bit `b` selects (R310, R312). -/
theorem tlbTranslate_page : tlbTranslate s va k =
    if p.v = false then .exc (.tlbInvalid va k) s
    else if k = .store ∧ p.d = false then .exc (.tlbModified va) s
    else .ok { va := va, pa := pageAddr p.pfn b va, ca := p.c, uc := p.uc } s := by
  unfold State.hitsFor at h; unfold tlbTranslate; rw [h]; dsimp only; rw [hb, hp]

theorem tlbTranslate_invalid (hv : p.v = false) : tlbTranslate s va k = .exc (.tlbInvalid va k) s := by
  rw [tlbTranslate_page h hb hp, if_pos hv]

theorem tlbTranslate_modified (hv : p.v = true) (hk : k = .store) (hd : p.d = false) :
    tlbTranslate s va k = .exc (.tlbModified va) s := by
  rw [tlbTranslate_page h hb hp, if_neg (by simp [hv]), if_pos ⟨hk, hd⟩]

theorem tlbTranslate_ok (hv : p.v = true) (hk : k ≠ .store ∨ p.d = true) :
    tlbTranslate s va k = .ok { va := va, pa := pageAddr p.pfn b va, ca := p.c, uc := p.uc } s := by
  rw [tlbTranslate_page h hb hp, if_neg (by simp [hv]), if_neg fun ⟨hs, hd⟩ => by simp [hs, hd] at hk]

end Page

end Lookup

/-- Settles O45: a mapped address goes to the TLB, where the three outcomes of the search decide. -/
theorem tlbLookup : Obligations.TlbLookup := by
  unfold Obligations.TlbLookup
  intro s va k hmap m hm
  rw [translate_mapped (checkedVa_of_mapped hmap) (segmentOf_mapped hmap)]
  obtain ⟨none, one, many⟩ := tlbHits_cases (s := s) (r := va.extractLsb' 62 2) (v := va.extractLsb' 13 31)
    (a := s.asid) (m := m) fun i => by rw [hm, hits_iff, asid_eq]
  refine ⟨fun h => tlbTranslate_refill (none h), fun i b p hi hu hb hp => ?page, fun i j hi hj hij mi mj => ?multiple⟩
  case page =>
    have hshift : pageShift (s.tlbAt i).mask = some b := pageShift_legal _ hb
    have hits : s.hitsFor va = [i] := one i hi hu
    obtain ⟨h12, h24⟩ := pageShift_ge hshift
    exact ⟨tlbTranslate_invalid hits hshift hp, tlbTranslate_modified hits hshift hp,
      fun hv hk => ⟨_, tlbTranslate_ok hits hshift hp hv hk, rfl, rfl, rfl, pageAddr_toNat _ _ _ h12 h24⟩⟩
  case multiple =>
    obtain ⟨x, y, l, h⟩ := many i j hi hj hij mi mj
    exact tlbTranslate_multiple h

/-! ## TLB writes (R316, R719, R720) -/

/-- The legal masks are the seven of R91. -/
theorem pageShift_isNone_iff (m : BitVec 12) : (pageShift m).isNone = true ↔
    m ∉ [0x000#12, 0x003#12, 0x00F#12, 0x03F#12, 0x0FF#12, 0x3FF#12, 0xFFF#12] := by
  unfold pageShift
  split <;> simp_all

/-- Two entries would allow a multiple match (R316). -/
theorem TlbEntry.conflict_iff (e n : TlbEntry) : e.conflict n = true ↔ e.matchable = true ∧ e.r = n.r ∧
    e.vpn2 &&& ~~~((e.mask ||| n.mask).setWidth 31) = n.vpn2 &&& ~~~((e.mask ||| n.mask).setWidth 31) ∧
    (e.g = true ∨ n.g = true ∨ e.asid = n.asid) := by
  unfold TlbEntry.conflict; simp [and_assoc, or_assoc]

theorem tlbConflict_iff (s : State) (n : TlbEntry) (i : Nat) :
    tlbConflict s.tlb n i = true ↔ ∃ j, j < 64 ∧ j ≠ i ∧ (s.tlbAt j).conflict n = true := by
  unfold tlbConflict State.tlbAt
  simp

/-- Status with TS, bit 21, set or cleared (R316). -/
def statusWithTs (v : Word) (ts : Bool) : Word := (v &&& ~~~0x00200000#32) ||| if ts then 0x00200000#32 else 0#32

theorem statusWithTs_ts (v : Word) (ts : Bool) : (statusWithTs v ts).getLsbD 21 = ts := by
  unfold statusWithTs; cases ts <;> simp

theorem statusWithTs_rest (v : Word) (ts : Bool) : statusWithTs v ts &&& 0xFFDFFFFF#32 = v &&& 0xFFDFFFFF#32 := by
  have hts : (if ts then 0x00200000#32 else 0#32 : Word) &&& 0xFFDFFFFF#32 = 0#32 := by cases ts <;> decide
  unfold statusWithTs
  rw [BitVec.and_or_distrib_right, hts, BitVec.or_zero, BitVec.and_assoc]
  rfl

/-- What a TLB write at index `i` leaves (R316, R719). -/
def State.withTlbEntry (s : State) (i : BitVec 6) (n : TlbEntry) : State :=
  { s with tlb := (s.tlb.mapIdx fun j e => e.yield n (j == i.toNat)).set i.toNat n i.isLt,
           cp0 := { s.cp0 with status := statusWithTs s.cp0.status (tlbConflict s.tlb n i.toNat) } }

theorem tlbWrite_legal {s : State} {i : BitVec 6} (h : (pageShift (newEntry s.cp0).mask).isNone = false) :
    tlbWrite i s = .ok () (s.withTlbEntry i (newEntry s.cp0)) := by
  unfold tlbWrite; dsimp only; rw [h]; rfl

theorem tlbWrite_illegal {s : State} {i : BitVec 6} (h : (pageShift (newEntry s.cp0).mask).isNone = true) :
    tlbWrite i s = .refuse .illegalPageMask := if_pos h

theorem State.tlbAt_eq (s : State) {j : Nat} (hj : j < 64) : s.tlbAt j = s.tlb[j] := by
  unfold State.tlbAt; simp [hj]

theorem State.withTlbEntry_tlbAt (s : State) (i : BitVec 6) (n : TlbEntry) : (s.withTlbEntry i n).tlbAt i.toNat = n := by
  rw [State.tlbAt_eq _ i.isLt]
  exact Vector.getElem_set_self _

/-- Another entry stays, unmatchable if it conflicts with the one written (R316). -/
theorem State.withTlbEntry_tlbAt_other (s : State) (i : BitVec 6) (n : TlbEntry) {j : Nat} (hj : j < 64) (hji : j ≠ i.toNat) :
    (s.withTlbEntry i n).tlbAt j =
      if (s.tlbAt j).conflict n = true then { s.tlbAt j with matchable := false } else s.tlbAt j := by
  rw [State.tlbAt_eq _ hj, State.tlbAt_eq _ hj]
  unfold State.withTlbEntry TlbEntry.yield
  simp [Vector.getElem_set_ne _ _ hji.symm, hji]

/-- TLBWI and TLBWR differ in the index alone (R719, R720). -/
theorem exec_tlbWrite {s : State} {i : Instr} {k : BitVec 6} (hc : s.cp0Usable = true)
    (hi : i = .tlbwi ∧ k = s.cp0.index ∨ i = .tlbwr ∧ k = s.random) : exec i s = (tlbWrite k s).finish := by
  obtain ⟨rfl, rfl⟩ | ⟨rfl, rfl⟩ := hi
  · show ((needCp0 s).bind fun _ s => tlbWrite s.cp0.index s).finish = _
    rw [needCp0_on hc, Res.bind_ok]
  · show ((needCp0 s).bind fun _ s => tlbWrite s.random s).finish = _
    rw [needCp0_on hc, Res.bind_ok]

/-- A field of a field. -/
theorem extractLsb'_extractLsb' {w i n j m : Nat} (v : BitVec w) (h : j + m ≤ n) :
    (v.extractLsb' i n).extractLsb' j m = v.extractLsb' (i + j) m := by
  ext b hb
  simp only [BitVec.getElem_extractLsb', BitVec.getLsbD_extractLsb', Nat.add_assoc, decide_eq_true (show j + b < n by omega),
    Bool.true_and]

/-- A page with the fields that an EntryLo register and FrameMask give it (R719, R141). -/
theorem eq_pageOf {p : TlbPage} {lo : DWord} {mask : BitVec 16}
    (h : p.pfn = ((lo.extractLsb' 18 16 &&& ~~~mask) ++ lo.extractLsb' 6 12 : BitVec (16 + 12)) ∧
      p.c = lo.extractLsb' 3 3 ∧ p.d = lo.getLsbD 2 ∧ p.v = lo.getLsbD 1 ∧ p.uc = lo.extractLsb' 62 2) :
    p = pageOf lo mask := by
  cases p
  obtain ⟨rfl, rfl, rfl, rfl, rfl⟩ := h
  unfold pageOf maskedPfn
  rw [extractLsb'_extractLsb' lo (by decide), extractLsb'_extractLsb' lo (by decide)]
  rfl

/-- An entry with the fields that the CP0 registers give it (R719). -/
theorem eq_newEntry {c : Cp0} {n : TlbEntry} (hmask : n.mask = c.pageMask) (hr : n.r = c.entryHi.extractLsb' 62 2)
    (hvpn2 : n.vpn2 = c.entryHi.extractLsb' 13 31) (hasid : n.asid = c.entryHi.extractLsb' 0 8)
    (hg : n.g = (c.entryLo0.getLsbD 0 && c.entryLo1.getLsbD 0)) (heven : n.even = pageOf c.entryLo0 c.frameMask)
    (hodd : n.odd = pageOf c.entryLo1 c.frameMask) (hmatch : n.matchable = true) : n = newEntry c := by
  rw [← BitVec.setWidth_eq_extractLsb' (by decide)] at hasid
  cases n
  cases hmask; cases hr; cases hvpn2; cases hasid; cases hg; cases heven; cases hodd; cases hmatch
  rfl

/-- Settles O50: the entry described is `newEntry`, and `State.withTlbEntry` is what the write of it leaves. -/
theorem Settled.tlbWrite : Obligations.TlbWrite := by
  unfold Obligations.TlbWrite
  intro s i k n hc hi hmask hr hvpn2 hasid hg hmatch hpages conflict hconflict
  have hn : n = newEntry s.cp0 := eq_newEntry hmask hr hvpn2 hasid hg (eq_pageOf (hpages n.even s.cp0.entryLo0 (by simp)))
    (eq_pageOf (hpages n.odd s.cp0.entryLo1 (by simp))) hmatch
  have hconf (j : Nat) : conflict j ↔ j ≠ k.toNat ∧ (s.tlbAt j).conflict n = true := by
    rw [hconflict, TlbEntry.conflict_iff]
  rw [exec_tlbWrite hc hi]
  refine ⟨fun hl => ?legal, fun hl => ?illegal⟩
  case legal =>
    rw [← Decidable.not_not (p := n.mask ∈ _), ← pageShift_isNone_iff, Bool.not_eq_true, hn] at hl
    rw [tlbWrite_legal hl, ← hn, Res.finish_ok]
    refine ⟨_, rfl, s.withTlbEntry_tlbAt k n, fun j hj hjk => ?others, ?ts, rfl, statusWithTs_rest _ _, fun _ => rfl,
      ⟨rfl, rfl⟩, advance_fallsThrough (s.withTlbEntry k n), sameSystem.refl s⟩
    case others =>
      have hentry := s.withTlbEntry_tlbAt_other k n hj hjk
      have hj' : conflict j ↔ (s.tlbAt j).conflict n = true := by rw [hconf, and_iff_right hjk]
      exact ⟨fun h => hentry.trans (if_pos (hj'.1 h)), fun h => hentry.trans (if_neg (h ∘ hj'.2))⟩
    case ts =>
      have hts : (advance (s.withTlbEntry k n)).statusBit 21 = tlbConflict s.tlb n k.toNat := statusWithTs_ts _ _
      simp only [hts, tlbConflict_iff, hconf]
  case illegal =>
    rw [← pageShift_isNone_iff, hn] at hl
    rw [tlbWrite_illegal hl, Res.finish_refuse]

end Sys2Proof.Machine
end

section
/-! PROOFS. The family `30_encoding.md`: decoding an encoded instruction (O21), what a word that is no instruction raises (O23),
and the gates of the floating-point instructions (O52). -/

namespace Sys2Proof

open Laws.Encoding (special regimm cop0 cop1 cop1x)

/-! ## The formats of COP1 (R406) -/

theorem decodeCop1_fmtS {w : Word} (h : w.extractLsb' 21 5 = 0x10#5) : decodeCop1 w = decodeCop1S w := by
  rw [decodeCop1, h]; rfl

theorem decodeCop1_fmtD {w : Word} (h : w.extractLsb' 21 5 = 0x11#5) : decodeCop1 w = decodeCop1D w := by
  rw [decodeCop1, h]; rfl

theorem decodeCop1_fmtW {w : Word} (h : w.extractLsb' 21 5 = 0x14#5) : decodeCop1 w = decodeCop1W w := by
  rw [decodeCop1, h]; rfl

theorem decodeCop1_fmtL {w : Word} (h : w.extractLsb' 21 5 = 0x15#5) : decodeCop1 w = decodeCop1L w := by
  rw [decodeCop1, h]; rfl

/-! ## The opcode groups (R402): which table decodes an encoded word -/

theorem decode_encR_special (rs rt rd sa : BitVec 5) (fn : BitVec 6) :
    decode (encR 0x00#6 rs rt rd sa fn) = decodeSpecial (encR 0x00#6 rs rt rd sa fn) :=
  special _ (encR_op ..)

theorem decode_encCode10 (rs rt : BitVec 5) (code : BitVec 10) (fn : BitVec 6) :
    decode (encCode10 rs rt code fn) = decodeSpecial (encCode10 rs rt code fn) :=
  special _ (encCode10_op ..)

theorem decode_encCode20 (code : BitVec 20) (fn : BitVec 6) :
    decode (encCode20 code fn) = decodeSpecial (encCode20 code fn) :=
  special _ (encCode20_op ..)

theorem decode_encI_regimm (rs rt : BitVec 5) (imm : BitVec 16) :
    decode (encI 0x01#6 rs rt imm) = decodeRegimm (encI 0x01#6 rs rt imm) :=
  regimm _ (encI_op ..)

/-- Bit 25 selects the operations of coprocessor 0 (R405). -/
theorem decode_encR_cop0 (rt rd sa : BitVec 5) (fn : BitVec 6) :
    decode (encR 0x10#6 0x10#5 rt rd sa fn) = decodeCop0Function (encR 0x10#6 0x10#5 rt rd sa fn) :=
  (cop0 _ (encR_op ..)).trans (if_pos (encR_co ..))

theorem decode_encCp0Move (sub rt rd : BitVec 5) (sel : BitVec 4) :
    decode (encCp0Move sub rt rd sel) = decodeCop0 (encCp0Move sub rt rd sel) :=
  cop0 _ (encCp0Move_op ..)

/-- A well-formed CP0 move: the `sel` bits count, or are zero (R414). -/
theorem selField_encCp0Move {sub rt rd : BitVec 5} {sel : BitVec 4} (h : Instr.selOk rd sel = true) :
    selField (encCp0Move sub rt rd sel) = sel := by
  unfold selField
  rw [encCp0Move_rd, encCp0Move_sel]
  split
  · rfl
  · next hrd =>
    rw [Instr.selOk, beq_false_of_ne hrd, Bool.false_or, beq_iff_eq] at h
    exact h.symm

theorem decode_encR_cop1 (sub rt rd sa : BitVec 5) (fn : BitVec 6) :
    decode (encR 0x11#6 sub rt rd sa fn) = decodeCop1 (encR 0x11#6 sub rt rd sa fn) :=
  cop1 _ (encR_op ..)

theorem decode_encR_cop1x (rs rt rd sa : BitVec 5) (fn : BitVec 6) :
    decode (encR 0x13#6 rs rt rd sa fn) = decodeCop1x (encR 0x13#6 rs rt rd sa fn) :=
  cop1x _ (encR_op ..)

theorem decode_encR_fmtS (rt rd sa : BitVec 5) (fn : BitVec 6) :
    decode (encR 0x11#6 0x10#5 rt rd sa fn) = decodeCop1S (encR 0x11#6 0x10#5 rt rd sa fn) :=
  (decode_encR_cop1 ..).trans (decodeCop1_fmtS (encR_rs ..))

theorem decode_encR_fmtD (rt rd sa : BitVec 5) (fn : BitVec 6) :
    decode (encR 0x11#6 0x11#5 rt rd sa fn) = decodeCop1D (encR 0x11#6 0x11#5 rt rd sa fn) :=
  (decode_encR_cop1 ..).trans (decodeCop1_fmtD (encR_rs ..))

theorem decode_encR_fmtW (rt rd sa : BitVec 5) (fn : BitVec 6) :
    decode (encR 0x11#6 0x14#5 rt rd sa fn) = decodeCop1W (encR 0x11#6 0x14#5 rt rd sa fn) :=
  (decode_encR_cop1 ..).trans (decodeCop1_fmtW (encR_rs ..))

theorem decode_encR_fmtL (rt rd sa : BitVec 5) (fn : BitVec 6) :
    decode (encR 0x11#6 0x15#5 rt rd sa fn) = decodeCop1L (encR 0x11#6 0x15#5 rt rd sa fn) :=
  (decode_encR_cop1 ..).trans (decodeCop1_fmtL (encR_rs ..))

theorem decode_encI_bc1 (rt : BitVec 5) (imm : BitVec 16) :
    decode (encI 0x11#6 0x08#5 rt imm) = decodeBc1 (encI 0x11#6 0x08#5 rt imm) := by
  rw [cop1 _ (encI_op ..), decodeCop1, encI_rs]; rfl

/-! ## Decoding gives the instruction back -/

/-- A decoded word in two parts: the row of the table that it selects, and the operands that it holds. -/
theorem eq_ok_of_row {x : Except DecodeReject Instr} {i j : Instr} (row : x = .ok i) (operands : i = j) : x = .ok j :=
  operands ▸ row

/-- One case for each table of the decoder: the encoder writes the field that selects the row, and each operand is the field in
its column (R401 to R408). -/
theorem decode_encode (i : Instr) (h : i.wellFormed = true) : decode (encode i) = .ok i := by
  cases i with
  | addi | addiu | daddi | daddiu | andi | ori | xori | lui | slti | sltiu | lb | lbu | lh | lhu | lw | lwu | ld | sb | sh
  | sw | sd | lwl | lwr | swl | swr | ldl | ldr | sdl | sdr | ll | lld | sc | scd | pref | beq | bne | blez | bgtz | beql
  | bnel | blezl | bgtzl | lwc1 | ldc1 | swc1 | sdc1 | cache =>
    show decode (encI ..) = _
    rw [decode, encI_op]
    refine eq_ok_of_row rfl ?_
    simp only [encI_rs, encI_rt, encI_imm]
  | j | jal | cop2 | lwc2 | swc2 | ldc2 | sdc2 =>
    show decode (encJ ..) = _
    rw [decode, encJ_op]
    refine eq_ok_of_row rfl ?_
    rw [encJ_target]
  | add | addu | sub | subu | dadd | daddu | dsub | dsubu | and | or | xor | nor | slt | sltu | sll | srl | sra | sllv
  | srlv | srav | dsll | dsrl | dsra | dsllv | dsrlv | dsrav | dsll32 | dsrl32 | dsra32 | movn | movz | mult | multu
  | div | divu | dmult | dmultu | ddiv | ddivu | mfhi | mflo | mthi | mtlo | sync | jr | jalr =>
    show decode (encR ..) = _
    rw [decode_encR_special, decodeSpecial, encR_fn]
    refine eq_ok_of_row rfl ?_
    simp only [encR_rs, encR_rt, encR_rd, encR_sa]
  | movf | movt =>
    show decode (encR ..) = _
    rw [decode_encR_special, decodeSpecial, encR_fn, encR_tf]
    refine eq_ok_of_row rfl ?_
    rw [encR_rs, encR_rd, encR_cc]
  | tge | tgeu | tlt | tltu | teq | tne =>
    show decode (encCode10 ..) = _
    rw [decode_encCode10, decodeSpecial, encCode10_fn]
    refine eq_ok_of_row rfl ?_
    rw [encCode10_rs, encCode10_rt, encCode10_code]
  | syscall | brk =>
    show decode (encCode20 ..) = _
    rw [decode_encCode20, decodeSpecial, encCode20_fn]
    refine eq_ok_of_row rfl ?_
    rw [encCode20_code]
  | bltz | bgez | bltzal | bgezal | bltzl | bgezl | bltzall | bgezall | tgei | tgeiu | tlti | tltiu | teqi | tnei =>
    show decode (encI ..) = _
    rw [decode_encI_regimm, decodeRegimm, encI_rt]
    refine eq_ok_of_row rfl ?_
    rw [encI_rs, encI_imm]
  | mfc0 | dmfc0 | mtc0 | dmtc0 =>
    show decode (encCp0Move ..) = _
    rw [decode_encCp0Move, decodeCop0, encCp0Move_co, encCp0Move_sub]
    refine eq_ok_of_row rfl ?_
    rw [encCp0Move_rt, encCp0Move_rd, selField_encCp0Move h]
  | tlbr | tlbwi | tlbwr | tlbp | eret | rfe =>
    show decode (encR ..) = _
    rw [decode_encR_cop0, decodeCop0Function, encR_fn]
    rfl
  | mfc1 | dmfc1 | mtc1 | dmtc1 | cfc1 | ctc1 =>
    show decode (encR ..) = _
    rw [decode_encR_cop1, decodeCop1, encR_rs]
    refine eq_ok_of_row rfl ?_
    rw [encR_rt, encR_rd]
  | bc1f | bc1t | bc1fl | bc1tl =>
    show decode (encI ..) = _
    rw [decode_encI_bc1, decodeBc1, encI_ndtf]
    refine eq_ok_of_row rfl ?_
    rw [encI_cc, encI_imm]
  | addS | subS | mulS | divS | sqrtS | absS | movS | negS | roundLS | truncLS | ceilLS | floorLS | roundWS | truncWS
  | ceilWS | floorWS | cvtDS | cvtWS | cvtLS | movzS | movnS | recipS | rsqrtS =>
    show decode (encR ..) = _
    rw [decode_encR_fmtS, decodeCop1S, encR_fn]
    refine eq_ok_of_row rfl ?_
    simp only [encR_rt, encR_rd, encR_sa]
  | movfS | movtS =>
    show decode (encR ..) = _
    rw [decode_encR_fmtS, decodeCop1S, encR_fn, encR_tf]
    refine eq_ok_of_row rfl ?_
    rw [encR_cc, encR_rd, encR_sa]
  | cFS | cUnS | cEqS | cUeqS | cOltS | cUltS | cOleS | cUleS | cSfS | cNgleS | cSeqS | cNglS | cLtS | cNgeS | cLeS
  | cNgtS =>
    show decode (encR ..) = _
    rw [decode_encR_fmtS, decodeCop1S, encR_fn]
    refine eq_ok_of_row rfl ?_
    rw [encR_rt, encR_rd, encR_cmp]
  | addD | subD | mulD | divD | sqrtD | absD | movD | negD | roundLD | truncLD | ceilLD | floorLD | roundWD | truncWD
  | ceilWD | floorWD | cvtSD | cvtWD | cvtLD | movzD | movnD | recipD | rsqrtD =>
    show decode (encR ..) = _
    rw [decode_encR_fmtD, decodeCop1D, encR_fn]
    refine eq_ok_of_row rfl ?_
    simp only [encR_rt, encR_rd, encR_sa]
  | movfD | movtD =>
    show decode (encR ..) = _
    rw [decode_encR_fmtD, decodeCop1D, encR_fn, encR_tf]
    refine eq_ok_of_row rfl ?_
    rw [encR_cc, encR_rd, encR_sa]
  | cFD | cUnD | cEqD | cUeqD | cOltD | cUltD | cOleD | cUleD | cSfD | cNgleD | cSeqD | cNglD | cLtD | cNgeD | cLeD
  | cNgtD =>
    show decode (encR ..) = _
    rw [decode_encR_fmtD, decodeCop1D, encR_fn]
    refine eq_ok_of_row rfl ?_
    rw [encR_rt, encR_rd, encR_cmp]
  | cvtSW | cvtDW =>
    show decode (encR ..) = _
    rw [decode_encR_fmtW, decodeCop1W, encR_fn]
    refine eq_ok_of_row rfl ?_
    rw [encR_rd, encR_sa]
  | cvtSL | cvtDL =>
    show decode (encR ..) = _
    rw [decode_encR_fmtL, decodeCop1L, encR_fn]
    refine eq_ok_of_row rfl ?_
    rw [encR_rd, encR_sa]
  | prefx | lwxc1 | ldxc1 | swxc1 | sdxc1 | maddS | maddD | msubS | msubD | nmaddS | nmaddD | nmsubS | nmsubD =>
    show decode (encR ..) = _
    rw [decode_encR_cop1x, decodeCop1x, encR_fn]
    refine eq_ok_of_row rfl ?_
    simp only [encR_rs, encR_rt, encR_rd, encR_sa]

/-- Settles O21: `decode_encode`, the encoder against every table of the decoder. -/
theorem decodeEncode : Obligations.DecodeEncode := decode_encode

/-! ## The reserved rows of the tables -/

theorem decode_reservedMajor {w : Word}
    (h : w.extractLsb' 26 6 ∈ [0b011100#6, 0b011101#6, 0b011110#6, 0b011111#6, 0b111011#6]) :
    decode w = .error .reservedMajor := by
  unfold decode
  generalize w.extractLsb' 26 6 = op at h ⊢
  fin_cases h <;> rfl

theorem decodeSpecial_reserved {w : Word}
    (h : w.extractLsb' 0 6 ∈ [0b000101#6, 0b001110#6, 0b010101#6, 0b101000#6, 0b101001#6, 0b110101#6, 0b110111#6, 0b111001#6,
      0b111101#6]) :
    decodeSpecial w = .error .reservedSpecial := by
  unfold decodeSpecial
  generalize w.extractLsb' 0 6 = fn at h ⊢
  fin_cases h <;> rfl

theorem decodeRegimm_reserved {w : Word}
    (h : w.extractLsb' 16 5 ∈ [4#5, 5#5, 6#5, 7#5, 13#5, 15#5, 20#5, 21#5, 22#5, 23#5, 24#5, 25#5, 26#5, 27#5, 28#5, 29#5,
      30#5, 31#5]) :
    decodeRegimm w = .error .reservedRegimm := by
  unfold decodeRegimm
  generalize w.extractLsb' 16 5 = rt at h ⊢
  fin_cases h <;> rfl

/-- Bit 25 is the top bit of the *sub* field. -/
theorem extractLsb'_25_eq_sub (w : Word) : w.extractLsb' 25 1 = (w.extractLsb' 21 5).extractLsb' 4 1 :=
  (Machine.extractLsb'_extractLsb' (i := 21) (n := 5) (j := 4) w (by decide)).symm

theorem decodeCop1_reservedSub {w : Word}
    (h : w.extractLsb' 21 5 ∈ [0b00011#5, 0b00111#5, 0b01001#5, 0b01010#5, 0b01011#5, 0b01100#5, 0b01101#5, 0b01110#5,
      0b01111#5]) :
    decodeCop1 w = .error .undefinedCop1Sub := by
  unfold decodeCop1
  rw [extractLsb'_25_eq_sub]
  generalize w.extractLsb' 21 5 = sub at h ⊢
  fin_cases h <;> rfl

/-- The *sub* values from 10000 on are formats: those but S, D, W and L are undefined (R406). -/
theorem decodeCop1_undefinedFormat {w : Word} (h25 : w.extractLsb' 25 1 = 1#1)
    (h : w.extractLsb' 21 5 ∉ [0b10000#5, 0b10001#5, 0b10100#5, 0b10101#5]) :
    decodeCop1 w = .error .undefinedCop1Op := by
  unfold decodeCop1
  rw [extractLsb'_25_eq_sub] at h25 ⊢
  generalize w.extractLsb' 21 5 = sub at h25 h ⊢
  have hsub : sub ∉ [0x00#5, 0x01#5, 0x04#5, 0x05#5, 0x02#5, 0x06#5, 0x08#5, 0x10#5, 0x11#5, 0x14#5, 0x15#5] := by
    revert sub; decide
  split
  case h_12 => rw [h25]; rfl
  all_goals exact absurd (by decide) hsub

/-- The functions that neither S nor D defines (R407). -/
theorem decodeCop1SD_undefined {w : Word}
    (h : w.extractLsb' 0 6 ∈ [16#6, 20#6, 23#6, 24#6, 25#6, 26#6, 27#6, 28#6, 29#6, 30#6, 31#6, 34#6, 35#6, 38#6, 39#6, 40#6,
      41#6, 42#6, 43#6, 44#6, 45#6, 46#6, 47#6]) :
    decodeCop1S w = .error .undefinedCop1Op ∧ decodeCop1D w = .error .undefinedCop1Op := by
  unfold decodeCop1S decodeCop1D
  generalize w.extractLsb' 0 6 = fn at h ⊢
  fin_cases h <;> exact ⟨rfl, rfl⟩

theorem decodeCop1S_cvtS {w : Word} (h : w.extractLsb' 0 6 = 0b100000#6) : decodeCop1S w = .error .undefinedCop1Op := by
  rw [decodeCop1S, h]; rfl

theorem decodeCop1D_cvtD {w : Word} (h : w.extractLsb' 0 6 = 0b100001#6) : decodeCop1D w = .error .undefinedCop1Op := by
  rw [decodeCop1D, h]; rfl

theorem decodeCop1WL_undefined {w : Word} (h : w.extractLsb' 0 6 ∉ [0b100000#6, 0b100001#6]) :
    decodeCop1W w = .error .undefinedCop1Op ∧ decodeCop1L w = .error .undefinedCop1Op := by
  unfold decodeCop1W decodeCop1L
  generalize w.extractLsb' 0 6 = fn at h ⊢
  split
  case h_3 => exact ⟨rfl, rfl⟩
  all_goals exact absurd (by decide) h

theorem decodeCop1x_undefined {w : Word}
    (h : w.extractLsb' 0 6 ∉ [0b000000#6, 0b000001#6, 0b001000#6, 0b001001#6, 0b001111#6, 0b100000#6, 0b100001#6, 0b101000#6,
      0b101001#6, 0b110000#6, 0b110001#6, 0b111000#6, 0b111001#6]) :
    decodeCop1x w = .error .undefinedCop1x := by
  unfold decodeCop1x
  generalize w.extractLsb' 0 6 = fn at h ⊢
  split
  case h_14 => rfl
  all_goals exact absurd (by decide) h

end Sys2Proof

namespace Sys2Proof.Machine

open Laws.Encoding (special regimm cop0 cop1 cop1x)

/-! ## What the gates raise -/

theorem needFpOp_unusable {s : State} (enabled : Bool) (hc : s.cp1Usable = false) :
    needFpOp enabled s = .exc (.copUnusable 1#2) s :=
  Res.bind_of_exc (needCp1_off hc)

/-- Unimplemented Operation: E alone in FCR31.Cause, which no enable bit masks (R772, R782). -/
theorem needFpOp_disabled {s : State} {enabled : Bool} (hc : s.cp1Usable = true) (he : enabled = false) :
    needFpOp enabled s = .exc .floatingPoint (s.setFcr31 (fcr31WithCause s.fpu.fcr31 0b100000#6)) := by
  subst he
  exact Res.bind_of_open (needCp1_on hc) rfl

theorem needCop1x_noMips4 {s : State} (h4 : s.mips4 = false) : needCop1x s = .exc .reservedInstr s :=
  Res.bind_of_exc (needMips4_off h4)

theorem needCop1x_unusable {s : State} (h4 : s.mips4 = true) (hc : s.cp1Usable = false) :
    needCop1x s = .exc (.copUnusable 1#2) s :=
  Res.bind_of_open (needMips4_on h4) (needCp1_off hc)

/-! ## Words that are no instruction -/

/-- The step of a word that the decoder rejects, when what rejects it raises. -/
theorem runWord_rejected {pre s t : State} {w : Word} {d : DecodeReject} (h : decode w = .error d)
    (hx : execReject d s = .next t) : runWord pre w s = .next (tick pre none (concluded t)) := by
  unfold runWord; rw [h]
  show endRun pre none (execReject d s) = _
  rw [hx]; rfl

section Rejected

variable {s : State}

theorem execReject_cop1Sub_unusable (hc : s.cp1Usable = false) :
    execReject .undefinedCop1Sub s = .next (takeException (.copUnusable 1#2) s) :=
  congrArg Res.finish (Res.bind_of_exc (needCp1_off hc))

theorem execReject_cop1Sub (hc : s.cp1Usable = true) :
    execReject .undefinedCop1Sub s = .next (takeException .reservedInstr s) :=
  congrArg Res.finish (Res.bind_of_open (needCp1_on hc) rfl)

theorem execReject_cop1Op_unusable (hc : s.cp1Usable = false) :
    execReject .undefinedCop1Op s = .next (takeException (.copUnusable 1#2) s) :=
  congrArg Res.finish (needFpOp_unusable false hc)

theorem execReject_cop1Op (hc : s.cp1Usable = true) :
    execReject .undefinedCop1Op s =
      .next (takeException .floatingPoint (s.setFcr31 (fcr31WithCause s.fpu.fcr31 0b100000#6))) :=
  congrArg Res.finish (needFpOp_disabled hc rfl)

theorem execReject_cop1x_unusable (h4 : s.mips4 = true) (hc : s.cp1Usable = false) :
    execReject .undefinedCop1x s = .next (takeException (.copUnusable 1#2) s) :=
  congrArg Res.finish (Res.bind_of_exc (needCop1x_unusable h4 hc))

/-- Reserved Instruction comes from the MIPS IV part of the gate, or from the undefined function behind the open gate (R408,
R412). -/
theorem execReject_cop1x (h : s.mips4 = false ∨ s.cp1Usable = true) :
    execReject .undefinedCop1x s = .next (takeException .reservedInstr s) := by
  cases h4 : s.mips4 with
  | false => exact congrArg Res.finish (Res.bind_of_exc (needCop1x_noMips4 h4))
  | true =>
    have hc : s.cp1Usable = true := h.resolve_left (by rw [h4]; decide)
    exact congrArg Res.finish (Res.bind_of_open (needCop1x_on h4 hc) rfl)

end Rejected

/-- Settles O23: each clause names the row of the decoder and what rejects it. -/
theorem reservedEncodings : Obligations.ReservedEncodings := by
  unfold Obligations.ReservedEncodings
  intro pre s w raises unimpl hraises hunimpl
  have raises_of {d : DecodeReject} {e : Exc} (hd : decode w = .error d)
      (hx : execReject d s = .next (takeException e s)) : raises e :=
    (hraises e).2 (runWord_rejected hd hx)
  refine ⟨?reserved, fun hop hsub => ?sub, fun hop h => ?op, fun hop hfn => ?cop1x⟩
  case reserved =>
    rintro (hop | ⟨hop, hfn⟩ | ⟨hop, hrt⟩)
    · exact raises_of (decode_reservedMajor hop) rfl
    · exact raises_of ((special w hop).trans (decodeSpecial_reserved hfn)) rfl
    · exact raises_of ((regimm w hop).trans (decodeRegimm_reserved hrt)) rfl
  case sub =>
    have hd := (cop1 w hop).trans (decodeCop1_reservedSub hsub)
    exact ⟨fun hc => raises_of hd (execReject_cop1Sub_unusable hc), fun hc => raises_of hd (execReject_cop1Sub hc)⟩
  case op =>
    have hd : decode w = .error .undefinedCop1Op := by
      rw [cop1 w hop]
      obtain ⟨h25, hfmt⟩ | ⟨hfmt, hfn⟩ | ⟨hfmt, hfn⟩ | ⟨hfmt, hfn⟩ | ⟨hfmt, hfn⟩ := h
      · exact decodeCop1_undefinedFormat h25 hfmt
      · obtain ⟨hS, hD⟩ := decodeCop1SD_undefined hfn
        obtain hfmt | hfmt := List.mem_pair.1 hfmt
        · exact (decodeCop1_fmtS hfmt).trans hS
        · exact (decodeCop1_fmtD hfmt).trans hD
      · exact (decodeCop1_fmtS hfmt).trans (decodeCop1S_cvtS hfn)
      · exact (decodeCop1_fmtD hfmt).trans (decodeCop1D_cvtD hfn)
      · obtain ⟨hW, hL⟩ := decodeCop1WL_undefined hfn
        obtain hfmt | hfmt := List.mem_pair.1 hfmt
        · exact (decodeCop1_fmtW hfmt).trans hW
        · exact (decodeCop1_fmtL hfmt).trans hL
    exact ⟨fun hc => raises_of hd (execReject_cop1Op_unusable hc),
      fun hc => hunimpl.2 (runWord_rejected hd (execReject_cop1Op hc))⟩
  case cop1x =>
    have hd := (cop1x w hop).trans (decodeCop1x_undefined hfn)
    exact ⟨fun h => raises_of hd (execReject_cop1x h), fun h4 hc => raises_of hd (execReject_cop1x_unusable h4 hc)⟩

/-! ## The gates of the floating-point instructions -/

section Gates

variable {s : State} {i : Instr} {f : Unit → State → Res Unit}

/-- A floating-point operation, of any format and instruction set, without coprocessor 1. -/
theorem traps_fpOp_unusable {enabled : Bool} (hc : s.cp1Usable = false)
    (h : exec i s = ((needFpOp enabled s).bind f).finish) : traps i (.copUnusable 1#2) s :=
  traps_of_exc h (Res.bind_of_exc (needFpOp_unusable enabled hc))

/-- A floating-point operation that the enabled instruction set does not have (R782, R810). -/
theorem exec_fpOp_disabled {enabled : Bool} (hc : s.cp1Usable = true) (he : enabled = false)
    (h : exec i s = ((needFpOp enabled s).bind f).finish) :
    exec i s = .next (takeException .floatingPoint (s.setFcr31 (fcr31WithCause s.fpu.fcr31 0b100000#6))) :=
  h.trans (congrArg Res.finish (Res.bind_of_exc (needFpOp_disabled hc he)))

/-- A COP1X instruction: MIPS IV before coprocessor 1 (R413). -/
theorem traps_cop1x (h : exec i s = ((needCop1x s).bind f).finish) :
    (s.mips4 = false → traps i .reservedInstr s) ∧
      (s.mips4 = true → s.cp1Usable = false → traps i (.copUnusable 1#2) s) :=
  ⟨fun h4 => traps_of_exc h (Res.bind_of_exc (needCop1x_noMips4 h4)),
    fun h4 hc => traps_of_exc h (Res.bind_of_exc (needCop1x_unusable h4 hc))⟩

end Gates

/-- Settles O52: every instruction of a list has the meaning of its gate's lemma, by the dispatch alone. -/
theorem fpGates : Obligations.FpGates := by
  unfold Obligations.FpGates
  rintro s rt base index hint fr ft fs fd cc offset _ rfl _ rfl
  simp only [List.forall_mem_cons, List.not_mem_nil, false_imp_iff, implies_true, and_true]
  refine ⟨fun hc => ⟨?arith, ?long, ?mips4, ?compares, ?moves⟩, fun hc h3 => ⟨?moves64, ?longOff⟩,
    fun hc h4 => ⟨?mips4Off, fun hcc => ?comparesOff⟩, ?cop1x⟩
  case arith | long | mips4 | compares => and_intros <;> exact traps_fpOp_unusable hc rfl
  case moves =>
    have gate {α : Type} {f : Unit → State → Res α} : (needCp1 s).bind f = .exc (.copUnusable 1#2) s :=
      Res.bind_of_exc (needCp1_off hc)
    exact ⟨traps_of_gpr rfl gate, traps_of_gpr rfl gate, traps_of_exc rfl gate, traps_of_exc rfl gate, traps_of_gpr rfl gate,
      traps_of_exc rfl gate, traps_of_exc rfl gate, traps_of_exc rfl gate, traps_of_exc rfl gate, traps_of_exc rfl gate⟩
  case moves64 =>
    exact ⟨traps_of_gpr rfl (Res.bind_of_open (needCp1_on hc) (Res.bind_of_exc (needMips3_off h3))),
      traps_of_exc rfl (Res.bind_of_open (needCp1_on hc) (Res.bind_of_exc (needMips3_off h3)))⟩
  case longOff => and_intros <;> exact exec_fpOp_disabled hc h3 rfl
  case mips4Off => and_intros <;> exact exec_fpOp_disabled hc h4 rfl
  case comparesOff =>
    have he : (s.mips4 || cc == 0#3) = false := by rw [h4, beq_false_of_ne hcc]; rfl
    and_intros <;> exact exec_fpOp_disabled hc he rfl
  case cop1x =>
    exact ⟨traps_cop1x rfl, traps_cop1x rfl, traps_cop1x rfl, traps_cop1x rfl, traps_cop1x rfl, traps_cop1x rfl,
      traps_cop1x rfl, traps_cop1x rfl, traps_cop1x rfl, traps_cop1x rfl, traps_cop1x rfl, traps_cop1x rfl, traps_cop1x rfl⟩

end Sys2Proof.Machine
end

section
/-! PROOFS. The family `40_integer_alu.md`: adds and subtracts (O1, O2), logical instructions (O3), set on less than (O4),
shifts (O5, O6) and conditional moves (O7).  The values are facts about bit vectors of any width; each instruction then is
one of the shapes of its meaning, with the value that the statement names. -/

namespace Sys2Proof.Machine

/-! ## Sums and differences as integers -/

section Sums

variable {n : Nat}

theorem bmod_of_fits {k : Int} (hn : 0 < n) (h : fits n k) : k.bmod (2 ^ n) = k := by
  obtain ⟨m, rfl⟩ : ∃ m, n = m + 1 := ⟨n - 1, by omega⟩
  obtain ⟨hlo, hhi⟩ := h
  rw [Nat.add_sub_cancel] at hlo hhi
  have hpow : (2 : Int) ^ (m + 1) = 2 * 2 ^ m := by ring
  apply Int.bmod_eq_of_le <;> push_cast <;> omega

theorem sext64_add_of_fits {a b : BitVec n} (hn : 0 < n) (h : fits n (a.toInt + b.toInt)) :
    sext64 (a + b) = BitVec.ofInt 64 (a.toInt + b.toInt) := by
  show BitVec.ofInt 64 (a + b).toInt = _
  rw [BitVec.toInt_add, bmod_of_fits hn h]

theorem sext64_sub_of_fits {a b : BitVec n} (hn : 0 < n) (h : fits n (a.toInt - b.toInt)) :
    sext64 (a - b) = BitVec.ofInt 64 (a.toInt - b.toInt) := by
  show BitVec.ofInt 64 (a - b).toInt = _
  rw [BitVec.toInt_sub, bmod_of_fits hn h]

theorem add_eq_ofInt (a b : BitVec n) : a + b = BitVec.ofInt n (a.toInt + b.toInt) := by
  rw [BitVec.ofInt_add, BitVec.ofInt_toInt, BitVec.ofInt_toInt]

theorem sub_eq_ofInt (a b : BitVec n) : a - b = BitVec.ofInt n (a.toInt - b.toInt) := by
  apply BitVec.eq_of_toInt_eq
  rw [BitVec.toInt_sub, BitVec.toInt_ofInt]

end Sums

/-! ## Immediates -/

theorem zext64_imm (imm : BitVec 16) : zext64 imm = 0#48 ++ imm := by
  apply BitVec.eq_of_toNat_eq
  rw [append_toNat, BitVec.toNat_setWidth, Nat.mod_eq_of_lt (by omega)]
  simp

theorem sext64_upper_imm (imm : BitVec 16) : sext64 (imm ++ 0#16) = BitVec.ofInt 64 (imm.toInt * 2 ^ 16) := by
  show BitVec.ofInt 64 (imm ++ 0#16).toInt = _
  rw [BitVec.toInt_append]
  simp [Int.mul_comm]

/-- The two ranges of unsigned numbers that a sign-extended immediate names (R476). -/
theorem sext64_imm_toNat (imm : BitVec 16) :
    (sext64 imm).toNat = if imm.toNat < 0x8000 then imm.toNat else 0xFFFFFFFFFFFF0000 + imm.toNat := by
  have hlt := imm.isLt
  rw [BitVec.toNat_signExtend, BitVec.msb_eq_decide, BitVec.toNat_setWidth, Nat.mod_eq_of_lt (by omega)]
  by_cases h : imm.toNat < 0x8000
  · simp [h, Nat.not_le.2 h]
  · simp [h, Nat.not_lt.1 h, Nat.add_comm]

/-! ## Comparisons -/

theorem boolValue_decide (c : Prop) [Decidable c] : boolValue (decide c) = if c then 1#64 else 0#64 := by
  unfold boolValue; simp only [decide_eq_true_eq]

/-! ## Shifts as multiplication and division -/

section Shifts

variable {n : Nat} (x : BitVec n) (k : Nat)

theorem shiftLeft_eq_ofNat : x <<< k = BitVec.ofNat n (x.toNat * 2 ^ k) := by
  apply BitVec.eq_of_toNat_eq
  rw [BitVec.toNat_shiftLeft, BitVec.toNat_ofNat, Nat.shiftLeft_eq]

theorem ushiftRight_eq_ofNat : x >>> k = BitVec.ofNat n (x.toNat / 2 ^ k) := by
  apply BitVec.eq_of_toNat_eq
  rw [BitVec.toNat_ushiftRight, BitVec.toNat_ofNat, Nat.shiftRight_eq_div_pow,
    Nat.mod_eq_of_lt ((Nat.div_le_self ..).trans_lt x.isLt)]

theorem sshiftRight_eq_ofInt : x.sshiftRight k = BitVec.ofInt n (x.toInt / 2 ^ k) := by
  show BitVec.ofInt n (x.toInt >>> k) = _
  rw [Int.shiftRight_eq_div_pow]
  norm_cast

theorem sext64_sshiftRight : sext64 (x.sshiftRight k) = BitVec.ofInt 64 (x.toInt / 2 ^ k) := by
  show BitVec.ofInt 64 (x.sshiftRight k).toInt = _
  rw [BitVec.toInt_sshiftRight, Int.shiftRight_eq_div_pow]
  norm_cast

end Shifts

theorem State.shift5_eq (s : State) (r : RegNum) : s.shift5 r = (s.rget r).toNat % 32 := BitVec.toNat_setWidth ..

theorem State.shift6_eq (s : State) (r : RegNum) : s.shift6 r = (s.rget r).toNat % 64 := BitVec.toNat_setWidth ..

/-! ## The shapes of the integer instructions -/

section Shapes

variable {i : Instr} {rd : RegNum} {w : DWord} {s : State}

/-- Under MIPS III the gated part is the whole meaning (R450). -/
theorem needMips3_bind {β : Type} {f : Unit → State → Res β} (h3 : s.mips3 = true) : (needMips3 s).bind f = f () s :=
  Res.bind_of_open (needMips3_on h3) rfl

/-- Behind its gate an instruction has the result `w`. -/
theorem completesGpr_of_gated {x : Res DWord} (h : exec i s = Res.finishGpr rd x) (hx : x = .ok w s) :
    completesGpr i rd w s :=
  completesGpr_of (h.trans (congrArg (Res.finishGpr rd) hx))

/-- An instruction that can overflow: where the result fits, it completes with it, and else it only raises (R452). -/
theorem trapping_outcomes {x : Res DWord} {ovf : Bool} {v : DWord} {c : Prop} (h : exec i s = Res.finishGpr rd x)
    (hx : x = trapping ovf v s) (ho : ovf = true ↔ ¬ c) (hv : c → v = w) :
    (¬ c → traps i .overflow s) ∧ (c → completesGpr i rd w s) := by
  refine ⟨fun hc => traps_of_gpr h (hx.trans (if_pos (ho.2 hc))), fun hc => completesGpr_of_gated h (hx.trans ?_)⟩
  rw [← hv hc]
  exact if_neg fun hovf => ho.1 hovf hc

end Shapes

/-! ## Adds, subtracts, logical instructions, comparisons and shifts -/

/-- Settles O1: the overflow bit by `addOverflow_iff` and `subOverflow_iff`, the sum that fits by `sext64_add_of_fits` and
`sext64_sub_of_fits`. -/
theorem addSubWord : Obligations.AddSubWord := by
  unfold Obligations.AddSubWord
  intro s rs rt rd imm
  have himm : (imm.signExtend 32).toInt = imm.toInt := BitVec.toInt_signExtend_of_le (by decide)
  have hpos : 0 < 32 := by decide
  refine ⟨⟨rfl, ?add⟩, ⟨rfl, completesGpr_of rfl⟩, ⟨rfl, ?sub⟩, ⟨rfl, completesGpr_of rfl⟩, ⟨rfl, ?addi⟩,
    ⟨rfl, completesGpr_of rfl⟩⟩
  case add => exact trapping_outcomes rfl rfl (addOverflow_iff hpos _ _) (sext64_add_of_fits hpos)
  case sub => exact trapping_outcomes rfl rfl (subOverflow_iff hpos _ _) (sext64_sub_of_fits hpos)
  case addi =>
    rw [← himm]
    exact trapping_outcomes rfl rfl (addOverflow_iff hpos _ _) (sext64_add_of_fits hpos)

/-- Settles O2: the gate first, then as O1; the sum is the exact one modulo 2^64 in any case. -/
theorem addSubDouble : Obligations.AddSubDouble := by
  unfold Obligations.AddSubDouble
  intro s rs rt rd imm
  have himm : (sext64 imm).toInt = imm.toInt := BitVec.toInt_signExtend_of_le (by decide)
  have hpos : 0 < 64 := by decide
  refine ⟨⟨rfl, rfl, rfl, rfl, rfl, rfl⟩, fun h3 => ?gate, fun h3 => ?results⟩
  case gate =>
    simp only [List.forall_mem_cons, List.not_mem_nil, false_imp_iff, implies_true, and_true]
    and_intros <;> exact traps_of_gpr rfl (Res.bind_of_exc (needMips3_off h3))
  case results =>
    obtain ⟨hadd, hadd'⟩ := trapping_outcomes (i := .dadd rs rt rd) (s := s) rfl (needMips3_bind h3)
      (addOverflow_iff hpos _ _) (fun _ => add_eq_ofInt _ _)
    obtain ⟨hsub, hsub'⟩ := trapping_outcomes (i := .dsub rs rt rd) (s := s) rfl (needMips3_bind h3)
      (subOverflow_iff hpos _ _) (fun _ => sub_eq_ofInt _ _)
    obtain ⟨haddi, haddi'⟩ := trapping_outcomes (i := .daddi rs rt imm) (s := s) rfl (needMips3_bind h3)
      (addOverflow_iff hpos _ _) (fun _ => add_eq_ofInt _ _)
    rw [himm] at haddi haddi'
    exact ⟨hadd, hadd', completesGpr_of_gated rfl (needMips3_bind h3), hsub, hsub',
      completesGpr_of_gated rfl (needMips3_bind h3), haddi, haddi', completesGpr_of_gated rfl (needMips3_bind h3)⟩

/-- Settles O3: each instruction writes the value that the statement names, but for the immediates: `zext64_imm`,
`sext64_upper_imm`. -/
theorem logical : Obligations.Logical := by
  unfold Obligations.Logical
  intro s rs rt rd imm
  rw [← zext64_imm, ← sext64_upper_imm]
  exact ⟨⟨rfl, completesGpr_of rfl⟩, ⟨rfl, completesGpr_of rfl⟩, ⟨rfl, completesGpr_of rfl⟩,
    ⟨rfl, completesGpr_of rfl⟩, ⟨rfl, completesGpr_of rfl⟩, ⟨rfl, completesGpr_of rfl⟩,
    ⟨rfl, completesGpr_of rfl⟩, ⟨rfl, completesGpr_of rfl⟩⟩

/-- Settles O4: a comparison is decided on the operands as integers or as numbers; the immediate of SLTIU by
`sext64_imm_toNat`. -/
theorem setLessThan : Obligations.SetLessThan := by
  unfold Obligations.SetLessThan
  intro s rs rt rd imm
  have himm : (sext64 imm).toInt = imm.toInt := BitVec.toInt_signExtend_of_le (by decide)
  simp only [← himm, ← sext64_imm_toNat, ← boolValue_decide]
  exact ⟨⟨rfl, completesGpr_of rfl⟩, ⟨rfl, completesGpr_of rfl⟩,
    ⟨rfl, completesGpr_of rfl⟩, ⟨rfl, completesGpr_of rfl⟩⟩

/-- Settles O5: a shift of the low word is a product or a quotient by a power of two (`shiftLeft_eq_ofNat`, `ushiftRight_eq_ofNat`,
`sext64_sshiftRight`), and a variable amount is a remainder (`State.shift5_eq`). -/
theorem shiftWord : Obligations.ShiftWord := by
  unfold Obligations.ShiftWord
  intro s rs rt rd sa
  simp only [← State.shift5_eq, ← shiftLeft_eq_ofNat, ← ushiftRight_eq_ofNat, ← sext64_sshiftRight]
  exact ⟨⟨rfl, completesGpr_of rfl⟩, ⟨rfl, completesGpr_of rfl⟩, ⟨rfl, completesGpr_of rfl⟩,
    ⟨rfl, completesGpr_of rfl⟩, ⟨rfl, completesGpr_of rfl⟩, ⟨rfl, completesGpr_of rfl⟩⟩

/-- Settles O6: the gate first, then as O5 over all 64 bits, with `sshiftRight_eq_ofInt` and `State.shift6_eq`. -/
theorem shiftDouble : Obligations.ShiftDouble := by
  unfold Obligations.ShiftDouble
  intro s rs rt rd sa
  simp only [← State.shift6_eq, ← shiftLeft_eq_ofNat, ← ushiftRight_eq_ofNat, ← sshiftRight_eq_ofInt]
  refine ⟨⟨rfl, rfl, rfl, rfl, rfl, rfl, rfl, rfl, rfl⟩, fun h3 => ?gate, fun h3 => ?results⟩
  case gate =>
    simp only [List.forall_mem_cons, List.not_mem_nil, false_imp_iff, implies_true, and_true]
    and_intros <;> exact traps_of_gpr rfl (Res.bind_of_exc (needMips3_off h3))
  case results => and_intros <;> exact completesGpr_of_gated rfl (needMips3_bind h3)

/-! ## Conditional moves -/

section Moves

variable {i : Instr} {rd : RegNum} {v : DWord} {s : State} {x : Res Unit} {c : Bool}

/-- Past its gate a move whose condition holds writes its register. -/
theorem moveIf_completes (h : exec i s = x.finish) (hx : x = moveIf c rd v s) (hc : c = true) : completesGpr i rd v s := by
  subst hx hc
  exact completesGpr_of h

/-- Past its gate a move whose condition fails changes nothing but the pc. -/
theorem moveIf_completesIdle (h : exec i s = x.finish) (hx : x = moveIf c rd v s) (hc : c = false) : completesIdle i s := by
  subst hx hc
  exact completesIdle_of h

end Moves

/-- Settles O7: past the gates each move follows its condition, `moveIf_completes` and `moveIf_completesIdle`. -/
theorem conditionalMoves : Obligations.ConditionalMoves := by
  unfold Obligations.ConditionalMoves
  intro s rs rt rd cc
  simp only [List.forall_mem_cons, List.not_mem_nil, false_imp_iff, implies_true, and_true]
  refine ⟨⟨rfl, rfl, rfl, rfl⟩, fun h4 => ?noMips4, fun h4 hc => ?noCp1, fun h4 => ?register, fun h4 hc => ?condition⟩
  case noMips4 =>
    exact ⟨traps_of_exc rfl (Res.bind_of_exc (needMips4_off h4)), traps_of_exc rfl (Res.bind_of_exc (needMips4_off h4)),
      (traps_cop1x rfl).1 h4, (traps_cop1x rfl).1 h4⟩
  case noCp1 => exact ⟨(traps_cop1x rfl).2 h4 hc, (traps_cop1x rfl).2 h4 hc⟩
  case register =>
    have gate {f : Unit → State → Res Unit} : (needMips4 s).bind f = f () s := Res.bind_of_open (needMips4_on h4) rfl
    exact ⟨fun hz => ⟨moveIf_completes rfl gate (bne_iff_ne.2 hz), moveIf_completesIdle rfl gate (beq_false_of_ne hz)⟩,
      fun hz => ⟨moveIf_completes rfl gate (beq_iff_eq.2 hz), moveIf_completesIdle rfl gate (bne_eq_false_iff_eq.2 hz)⟩⟩
  case condition =>
    have gate {f : Unit → State → Res Unit} : (needCop1x s).bind f = f () s := Res.bind_of_open (needCop1x_on h4 hc) rfl
    exact ⟨fun hf => ⟨moveIf_completes rfl gate (Bool.not_eq_true' _ ▸ hf), moveIf_completesIdle rfl gate hf⟩,
      fun ht => ⟨moveIf_completes rfl gate ht, moveIf_completesIdle rfl gate (Bool.not_eq_false' _ ▸ ht)⟩⟩

end Sys2Proof.Machine
end

section
/-! PROOFS. The family `41_multiply_divide.md`: multiplies (O8), divides (O9) and the moves from and to HI and LO (O10).  The
products and quotients are facts about bit vectors of any width; each instruction then is one of the two shapes that write HI
and LO, with the values that the statement names. -/

namespace Sys2Proof.Machine

/-! ## Products and their halves -/

section Products

variable {n : Nat}

/-- A field that lies within the width reads a quotient modulo its own length, whatever was cut off above. -/
theorem extractLsb'_ofInt {w k m : Nat} (hw : k + m ≤ w) (p : Int) :
    (BitVec.ofInt w p).extractLsb' k m = BitVec.ofInt m (p / 2 ^ k) := by
  obtain ⟨j, rfl⟩ := Nat.exists_eq_add_of_le hw
  have hsplit : p % 2 ^ (k + m + j) = p - (2 ^ j * (p / 2 ^ (k + m + j)) * 2 ^ m) * 2 ^ k := by
    rw [Int.emod_def]; ring
  have hcut : p % 2 ^ (k + m + j) / 2 ^ k % 2 ^ m = p / 2 ^ k % 2 ^ m := by
    rw [hsplit, Int.sub_mul_ediv_right _ _ (by positivity), Int.sub_mul_emod_self_right]
  apply BitVec.eq_of_toNat_eq
  zify
  rw [BitVec.extractLsb'_toNat, BitVec.toNat_ofInt, BitVec.toNat_ofInt, Nat.shiftRight_eq_div_pow]
  push_cast
  rw [Int.toNat_of_nonneg (Int.emod_nonneg _ (by positivity)), hcut,
    Int.toNat_of_nonneg (Int.emod_nonneg _ (by positivity))]

theorem extractLsb'_ofNat {w k m : Nat} (hw : k + m ≤ w) (p : Nat) :
    (BitVec.ofNat w p).extractLsb' k m = BitVec.ofNat m (p / 2 ^ k) := by
  have h := extractLsb'_ofInt hw p
  rwa [← Nat.cast_ofNat, ← Nat.cast_pow, ← Int.natCast_ediv, BitVec.ofInt_natCast, BitVec.ofInt_natCast] at h

section Halves

variable {w : Nat} (a b : BitVec n)

theorem signedProduct_eq_ofInt : a.signExtend w * b.signExtend w = BitVec.ofInt w (a.toInt * b.toInt) :=
  (BitVec.ofInt_mul ..).symm

theorem unsignedProduct_eq_ofNat : a.setWidth w * b.setWidth w = BitVec.ofNat w (a.toNat * b.toNat) := by
  rw [BitVec.ofNat_mul, BitVec.ofNat_toNat, BitVec.ofNat_toNat]

theorem signedProduct_high (hw : n + n ≤ w) :
    (a.signExtend w * b.signExtend w).extractLsb' n n = BitVec.ofInt n (a.toInt * b.toInt / 2 ^ n) := by
  rw [signedProduct_eq_ofInt, extractLsb'_ofInt hw]

theorem signedProduct_low (hw : 0 + n ≤ w) :
    (a.signExtend w * b.signExtend w).extractLsb' 0 n = BitVec.ofInt n (a.toInt * b.toInt) := by
  rw [signedProduct_eq_ofInt, extractLsb'_ofInt hw, pow_zero, Int.ediv_one]

theorem unsignedProduct_high (hw : n + n ≤ w) :
    (a.setWidth w * b.setWidth w).extractLsb' n n = BitVec.ofNat n (a.toNat * b.toNat / 2 ^ n) := by
  rw [unsignedProduct_eq_ofNat, extractLsb'_ofNat hw]

theorem unsignedProduct_low (hw : 0 + n ≤ w) :
    (a.setWidth w * b.setWidth w).extractLsb' 0 n = BitVec.ofNat n (a.toNat * b.toNat) := by
  rw [unsignedProduct_eq_ofNat, extractLsb'_ofNat hw, pow_zero, Nat.div_one]

end Halves

theorem sext64_ofInt_of_fits {p : Int} (hn : 0 < n) (h : fits n p) : sext64 (BitVec.ofInt n p) = BitVec.ofInt 64 p := by
  show BitVec.ofInt 64 (BitVec.ofInt n p).toInt = _
  rw [BitVec.toInt_ofInt, bmod_of_fits hn h]

/-- The high half of a signed product is a signed number of the operands' width. -/
theorem fits_toInt_mul_toInt_div (hn : 0 < n) (a b : BitVec n) : fits n (a.toInt * b.toInt / 2 ^ n) := by
  obtain ⟨m, rfl⟩ : ∃ m, n = m + 1 := ⟨n - 1, by omega⟩
  have hpow : (2 : Int) ^ (m + 1) = 2 * 2 ^ m := by ring
  have hpos : (0 : Int) < 2 ^ m := by positivity
  have ha := a.le_toInt
  have ha' := a.toInt_lt
  have hb := b.le_toInt
  have hb' := b.toInt_lt
  unfold fits
  rw [Nat.add_sub_cancel] at *
  rw [hpow]
  generalize (2 : Int) ^ m = h at *
  constructor
  · rw [Int.le_ediv_iff_mul_le (by omega)]; nlinarith
  · rw [Int.ediv_lt_iff_lt_mul (by omega)]; nlinarith

end Products

/-! ## Quotients and remainders -/

section Quotients

variable {n : Nat}

/-- What fixes quotient and remainder of a division truncated toward zero (R534): the remainder is smaller than the divisor
and has the sign of the dividend. -/
theorem truncatedDivision (a : Int) {b : Int} (hb : b ≠ 0) :
    a = a.tdiv b * b + a.tmod b ∧ (a.tmod b).natAbs < b.natAbs ∧ (a.tmod b ≠ 0 → (a.tmod b < 0 ↔ a < 0)) := by
  refine ⟨(Int.tdiv_mul_add_tmod a b).symm, ?smaller, fun hr => ?sign⟩
  case smaller =>
    rw [Int.natAbs_tmod]
    exact Nat.mod_lt _ (Int.natAbs_pos.2 hb)
  case sign =>
    have hdvd : ¬ b ∣ a := mt Int.tmod_eq_zero_of_dvd hr
    rw [← Int.sign_eq_neg_one_iff_neg, ← Int.sign_eq_neg_one_iff_neg, Int.sign_tmod, if_neg hdvd]

theorem toInt_ne_zero {b : BitVec n} (hb : b ≠ 0#n) : b.toInt ≠ 0 :=
  fun h => hb (BitVec.eq_of_toInt_eq (h.trans BitVec.toInt_zero.symm))

theorem sext64_remS {a b : BitVec n} (hn : 0 < n) (hb : b ≠ 0#n) :
    sext64 (remS a b) = BitVec.ofInt 64 (a.toInt.tmod b.toInt) := by
  refine sext64_ofInt_of_fits hn ?_
  obtain ⟨-, hsmall, -⟩ := truncatedDivision a.toInt (toInt_ne_zero hb)
  have hlo := b.le_toInt
  have hhi := b.toInt_lt
  unfold fits
  omega

end Quotients

/-! ## The shapes of the instructions that write HI and LO -/

section Shapes

variable {i : Instr} {hi lo v w : DWord} {s : State}

/-- A word form writes what the model computes; the statement may name the values otherwise. -/
theorem completesHiLo_of_values (h : exec i s = (Res.ok () (s.setHiLo hi lo)).finish) (hhi : hi = v) (hlo : lo = w) :
    completesHiLo i v w s := by
  subst hhi hlo
  exact completesHiLo_of h

/-- A doubleword form does so behind its gate (R530). -/
theorem completesHiLo_of_gated {x : Res Unit} (h : exec i s = x.finish) (hx : x = .ok () (s.setHiLo hi lo)) (hhi : hi = v)
    (hlo : lo = w) : completesHiLo i v w s :=
  completesHiLo_of_values (h.trans (congrArg Res.finish hx)) hhi hlo

theorem divResult_of_ne {n : Nat} {b : BitVec n} (hb : b ≠ 0#n) (site : FreeSite) :
    divResult (b == 0#n) site v s = v := if_neg (by simpa using hb)

end Shapes

/-! ## Multiplies, divides and moves -/

/-- Settles O8: the halves of the product by `signedProduct_high`, `signedProduct_low` and their unsigned kin; the high word
of MULT, sign-extended, is still the exact quotient (`fits_toInt_mul_toInt_div`). -/
theorem multiply : Obligations.Multiply := by
  unfold Obligations.Multiply
  intro s rs rt
  have hword : 32 + 32 ≤ 64 := by decide
  have hdouble : 64 + 64 ≤ 128 := by decide
  refine ⟨⟨rfl, ?mult⟩, ⟨rfl, ?multu⟩, ⟨rfl, rfl⟩, fun h3 => ?gate, fun h3 => ⟨?dmult, ?dmultu⟩⟩
  case mult =>
    have hfits := fits_toInt_mul_toInt_div (by decide) (s.word rs) (s.word rt)
    exact completesHiLo_of_values rfl
      ((congrArg sext64 (signedProduct_high _ _ hword)).trans (sext64_ofInt_of_fits (by decide) hfits))
      (congrArg sext64 (signedProduct_low _ _ (by decide)))
  case multu =>
    exact completesHiLo_of_values rfl (congrArg sext64 (unsignedProduct_high _ _ hword))
      (congrArg sext64 (unsignedProduct_low _ _ (by decide)))
  case gate => and_intros <;> exact traps_of_exc rfl (Res.bind_of_exc (needMips3_off h3))
  case dmult =>
    exact completesHiLo_of_gated rfl (needMips3_bind h3) (signedProduct_high _ _ hdouble)
      (signedProduct_low _ _ (by decide))
  case dmultu =>
    exact completesHiLo_of_gated rfl (needMips3_bind h3) (unsignedProduct_high _ _ hdouble)
      (unsignedProduct_low _ _ (by decide))

/-- Settles O9: for a divisor that is not zero the signed results are those of `truncatedDivision`, and the unsigned ones are
the quotient and remainder of naturals; for a zero divisor the free values stand in HI and LO. -/
theorem divide : Obligations.Divide := by
  unfold Obligations.Divide
  intro s rs rt
  refine ⟨⟨rfl, rfl, rfl, rfl⟩, fun hb => ⟨?div, ?divu⟩, fun _ => ?zero, fun h3 => ?gate,
    fun h3 hb => ⟨?ddiv, ?ddivu⟩, fun h3 _ => ?dzero⟩
  case div =>
    obtain ⟨hsum, hsmall, hsign⟩ := truncatedDivision (s.word rs).toInt (toInt_ne_zero hb)
    exact ⟨_, _, hsum, hsmall, hsign, completesHiLo_of_values rfl
      ((divResult_of_ne hb _).trans (sext64_remS (by decide) hb)) (divResult_of_ne hb _)⟩
  case divu =>
    rw [← BitVec.udiv_def, ← BitVec.umod_def]
    exact completesHiLo_of_values rfl (divResult_of_ne hb _) (divResult_of_ne hb _)
  case zero => exact ⟨⟨_, _, completesHiLo_of rfl⟩, _, _, completesHiLo_of rfl⟩
  case gate => and_intros <;> exact traps_of_exc rfl (Res.bind_of_exc (needMips3_off h3))
  case ddiv =>
    obtain ⟨hsum, hsmall, hsign⟩ := truncatedDivision (s.rget rs).toInt (toInt_ne_zero hb)
    exact ⟨_, _, hsum, hsmall, hsign,
      completesHiLo_of_gated rfl (needMips3_bind h3) (divResult_of_ne hb _) (divResult_of_ne hb _)⟩
  case ddivu =>
    rw [← BitVec.udiv_def, ← BitVec.umod_def]
    exact completesHiLo_of_gated rfl (needMips3_bind h3) (divResult_of_ne hb _) (divResult_of_ne hb _)
  case dzero =>
    exact ⟨⟨_, _, completesHiLo_of_gated rfl (needMips3_bind h3) rfl rfl⟩,
      _, _, completesHiLo_of_gated rfl (needMips3_bind h3) rfl rfl⟩

/-- Settles O10: each move is the shape of one written register, or of HI and LO with the other's own value kept. -/
theorem hiLoMoves : Obligations.HiLoMoves := by
  unfold Obligations.HiLoMoves
  intro s rs rd
  exact ⟨⟨rfl, completesGpr_of rfl⟩, ⟨rfl, completesGpr_of rfl⟩, ⟨rfl, completesHiLo_of rfl⟩,
    ⟨rfl, completesHiLo_of rfl⟩⟩

end Sys2Proof.Machine
end

section
/-! PROOFS. The family `42_load_store.md`: the aligned loads and stores, uncached, gathered and cached (O34 to O37), the
unaligned ones (O38, O39), and LL and SC with their doubleword forms (O40, O41).  What an instruction does past its gate is
said once, by `AlignedLoad` and `AlignedStore`; where its bytes are or go is the business of Laws/Reference.lean. -/

namespace Sys2Proof.Machine

/-- The uncached algorithms (R240). -/
theorem isUncached_iff {ca : BitVec 3} : isUncached ca = true ↔ ca = 2#3 ∨ ca = 7#3 := by
  unfold isUncached; simp

/-! ## The aligned loads (R564 to R570) -/

/-- Past its gate the instruction `i` reads `n` bytes at `va`, and what `f` makes of them goes to `rt`. -/
structure AlignedLoad (s : State) (i : Instr) (rt : RegNum) (va : DWord) (n : Nat) (f : DWord → DWord) : Prop where
  size    : n ∈ [1, 2, 4, 8]
  meaning : exec i s = Res.finishGpr rt ((memRead va n s).bind fun v s => .ok (f v) s)

section AlignedLoad

variable {s : State} {base rt : RegNum} {offset : BitVec 16} {va : DWord} {n : Nat} {i : Instr} {f : DWord → DWord}

theorem alignedLoad_lb : AlignedLoad s (.lb base rt offset) rt (s.rget base + sext64 offset) 1 (signLow 8) := ⟨by simp, rfl⟩

theorem alignedLoad_lbu : AlignedLoad s (.lbu base rt offset) rt (s.rget base + sext64 offset) 1 id := ⟨by simp, rfl⟩

theorem alignedLoad_lh : AlignedLoad s (.lh base rt offset) rt (s.rget base + sext64 offset) 2 (signLow 16) := ⟨by simp, rfl⟩

theorem alignedLoad_lhu : AlignedLoad s (.lhu base rt offset) rt (s.rget base + sext64 offset) 2 id := ⟨by simp, rfl⟩

theorem alignedLoad_lw : AlignedLoad s (.lw base rt offset) rt (s.rget base + sext64 offset) 4 (signLow 32) := ⟨by simp, rfl⟩

theorem alignedLoad_lwu (h3 : s.mips3 = true) :
    AlignedLoad s (.lwu base rt offset) rt (s.rget base + sext64 offset) 4 id :=
  ⟨by simp, congrArg (Res.finishGpr rt) (Res.bind_of_open (needMips3_on h3) rfl)⟩

theorem alignedLoad_ld (h3 : s.mips3 = true) :
    AlignedLoad s (.ld base rt offset) rt (s.rget base + sext64 offset) 8 id :=
  ⟨by simp, congrArg (Res.finishGpr rt) (Res.bind_of_open (needMips3_on h3) rfl)⟩

/-- The number of one byte, sign-extended (LB). -/
theorem signLow_byte (be : Bool) (b : Nat → Byte) : signLow 8 (BitVec.ofNat 64 (orderedValue be 1 b)) = sext64 (b 0) := by
  rw [signLow_ofNat _ _ (by decide)]
  cases be <;> simp [orderedValue]

/-- The number of one byte, zero-extended (LBU). -/
theorem ofNat_byte (be : Bool) (b : Nat → Byte) : BitVec.ofNat 64 (orderedValue be 1 b) = zext64 (b 0) := by
  cases be <;> simp [orderedValue, zext64, BitVec.ofNat_toNat]

/-- The loads as the statements list them, each with the value that it gives of the bytes `b`. -/
theorem AlignedLoad.of_value {b : Nat → Byte} {v : DWord} (hva : va = s.rget base + sext64 offset)
    (h : (n, i, v) ∈ [(1, Instr.lb base rt offset, sext64 (b 0)), (1, .lbu base rt offset, zext64 (b 0)),
        (2, .lh base rt offset, sext64 (BitVec.ofNat 16 (orderedValue s.bigEndianCpu 2 b))),
        (2, .lhu base rt offset, BitVec.ofNat 64 (orderedValue s.bigEndianCpu 2 b)),
        (4, .lw base rt offset, sext64 (BitVec.ofNat 32 (orderedValue s.bigEndianCpu 4 b)))] ∨
      s.mips3 = true ∧ (n, i, v) ∈ [(4, Instr.lwu base rt offset, BitVec.ofNat 64 (orderedValue s.bigEndianCpu 4 b)),
        (8, .ld base rt offset, BitVec.ofNat 64 (orderedValue s.bigEndianCpu 8 b))]) :
    ∃ f, AlignedLoad s i rt va n f ∧ f (BitVec.ofNat 64 (orderedValue s.bigEndianCpu n b)) = v := by
  subst hva
  simp only [List.mem_cons, Prod.mk.injEq, List.not_mem_nil, or_false] at h
  obtain (⟨rfl, rfl, rfl⟩ | ⟨rfl, rfl, rfl⟩ | ⟨rfl, rfl, rfl⟩ | ⟨rfl, rfl, rfl⟩ | ⟨rfl, rfl, rfl⟩) |
    ⟨h3, ⟨rfl, rfl, rfl⟩ | ⟨rfl, rfl, rfl⟩⟩ := h
  · exact ⟨_, alignedLoad_lb, signLow_byte _ b⟩
  · exact ⟨_, alignedLoad_lbu, ofNat_byte _ b⟩
  · exact ⟨_, alignedLoad_lh, signLow_ofNat _ _ (by decide)⟩
  · exact ⟨_, alignedLoad_lhu, rfl⟩
  · exact ⟨_, alignedLoad_lw, signLow_ofNat _ _ (by decide)⟩
  · exact ⟨_, alignedLoad_lwu h3, rfl⟩
  · exact ⟨_, alignedLoad_ld h3, rfl⟩

/-- The loads as the statements list them. -/
theorem AlignedLoad.of_mem (hva : va = s.rget base + sext64 offset)
    (h : (n, i) ∈ [(1, Instr.lb base rt offset), (1, .lbu base rt offset), (2, .lh base rt offset),
        (2, .lhu base rt offset), (4, .lw base rt offset)] ∨
      s.mips3 = true ∧ (n, i) ∈ [(4, Instr.lwu base rt offset), (8, .ld base rt offset)]) :
    ∃ f, AlignedLoad s i rt va n f := by
  subst hva
  simp only [List.mem_cons, Prod.mk.injEq, List.not_mem_nil, or_false] at h
  obtain (⟨rfl, rfl⟩ | ⟨rfl, rfl⟩ | ⟨rfl, rfl⟩ | ⟨rfl, rfl⟩ | ⟨rfl, rfl⟩) | ⟨h3, ⟨rfl, rfl⟩ | ⟨rfl, rfl⟩⟩ := h
  · exact ⟨_, alignedLoad_lb⟩
  · exact ⟨_, alignedLoad_lbu⟩
  · exact ⟨_, alignedLoad_lh⟩
  · exact ⟨_, alignedLoad_lhu⟩
  · exact ⟨_, alignedLoad_lw⟩
  · exact ⟨_, alignedLoad_lwu h3⟩
  · exact ⟨_, alignedLoad_ld h3⟩

theorem AlignedLoad.pos (h : AlignedLoad s i rt va n f) : 0 < n := by
  have := h.size
  simp only [List.mem_cons, List.not_mem_nil, or_false] at this
  omega

/-- A read that raises is what the load does. -/
theorem AlignedLoad.raises {e : Exc} {t : State} (h : AlignedLoad s i rt va n f) (hr : memRead va n s = .exc e t) :
    exec i s = .next (takeException e t) := by
  rw [h.meaning, hr, Res.bind_exc, Res.finishGpr_exc]

/-- A read that answers is followed by the write of the register. -/
theorem AlignedLoad.ends {v : DWord} {t : State} (h : AlignedLoad s i rt va n f) (hr : memRead va n s = .ok v t) :
    exec i s = Res.finishGpr rt (.ok (f v) t) := by
  rw [h.meaning, hr, Res.bind_ok]

/-- A load of bytes wherever they are. -/
theorem AlignedLoad.completes {x : Xlate} {b : Nat → Byte} {v : DWord} {after : State → State → Prop}
    (h : AlignedLoad s i rt va n f) (ha : va.toNat % n = 0) (hs : loadSource s va x.pa n x 1#2 false b after)
    (hv : f (BitVec.ofNat 64 (orderedValue s.bigEndianCpu n b)) = v) : loadCompletes i rt v after s := by
  obtain ⟨u, hread, hu, hmem, hafter⟩ := memRead_source h.size ha hs
  have hllb : u.llblock = s.llblock := by
    rw [hu]; exact (watched_same s x.pa .load).2.1
  obtain ⟨hg, hp, hl, hsame, hlink, hc, hm, he⟩ := load_done (rt := rt) (v := v) (link := false) (lb := u.llblock) hu hmem _ rfl
  exact ⟨_, (h.ends hread).trans (by rw [hv]; rfl), hg, hp, hl.trans hllb, hafter _ hsame hlink hc hm he⟩

/-- A load of a watched address that is uncached, or cached and hits (R1077). -/
theorem AlignedLoad.watch {x : Xlate} (h : AlignedLoad s i rt va n f) (ha : va.toNat % n = 0)
    (ht : translate s va .load = .ok x s) (hc : isUncached x.ca = true ∨ isCached x.ca = true ∧ ∃ w, dHit s x.va x.pa = some w)
    (hm : watchMatch s x.pa .load = true) (hl : watchLive s = true) : traps i .watch s := by
  refine h.raises ?_
  unfold memRead
  rw [dataTranslate_ok ha ht, Res.bind_ok, readAt_watch hc hm hl, Res.bind_exc]

/-- A load whose response is ERR or bad data (R1041). -/
theorem AlignedLoad.fails {x : Xlate} {r : Reply} {rs : List Reply} (h : AlignedLoad s i rt va n f) (ha : va.toNat % n = 0)
    (hu : UncachedRef s va x.pa n .load x) (hr : s.ext.replies = r :: rs) (hb : readFails r) :
    exec i s = .next (takeException (.busError .load) (reportCycles r
      { s with ext := { s.ext with bus := .dspRead 0#3 x.pa n x.uc 1#2 :: s.ext.bus, replies := rs } })) := by
  refine h.raises ?_
  unfold memRead
  rw [dataTranslate_ok ha hu.translated, Res.bind_ok, readAt_fails h.pos hu hr hb, Res.bind_exc]

/-- A load whose response brings the doubleword with its bytes (R928, R955). -/
theorem AlignedLoad.brings {x : Xlate} {r : Reply} {rs : List Reply} {d v : DWord} {c : Nat → Byte}
    (h : AlignedLoad s i rt va n f) (ha : va.toNat % n = 0) (hu : UncachedRef s va x.pa n .load x)
    (hr : s.ext.replies = r :: rs) (hd : BringsData r d)
    (hc : ∀ k, c k = d.extractLsb' (8 * (if s.bigEndianMem then 7 - (x.pa.toNat + k) % 8 else (x.pa.toNat + k) % 8)) 8)
    (hv : f (BitVec.ofNat 64 (orderedValue s.bigEndianCpu n c)) = v) :
    loadCompletes i rt v
      (fun s t => afterUncachedRead x.pa n x.uc 1#2 false { s with ext := { s.ext with replies := rs } } t) s := by
  obtain rfl : c = fun k => d.extractLsb' (laneOf s.bigEndianMem (x.pa.toNat + k)) 8 := funext fun k => by
    rw [hc]; unfold laneOf; split <;> rfl
  have hexec := h.ends (memRead_data h.pos hu ha hr hd)
  rw [hv] at hexec
  generalize hs' : ({ s with ext := { s.ext with replies := rs } } : State) = s' at hexec
  obtain ⟨hg, hp, hl, hsame, hlink, hcach, hm, he⟩ := load_watched (s := s') (pa := x.pa) (rt := rt) (v := v) (link := false)
    (u := breakLl ((s'.watched x.pa .load).emit (.dspRead 0#3 x.pa n x.uc 1#2))) rfl
  obtain ⟨_, e2, e3, _, e5, _⟩ := watched_same s' x.pa .load
  subst hs'
  exact ⟨_, hexec, hg, hp, hl.trans e2, hsame, hlink, hcach.trans e3, hm, fun a => by rw [hm],
    he.trans (by unfold State.watched; rw [latchWatch_frame]; rfl)⟩

end AlignedLoad

section BySize

variable {s : State} {base rt : RegNum} {offset : BitVec 16} {va : DWord} {x : Xlate} {b : Nat → Byte}
  {after : State → State → Prop}

/-- LB and LBU of a byte wherever it is. -/
theorem loadsByte_of_source (hva : va = s.rget base + sext64 offset) (h : loadSource s va x.pa 1 x 1#2 false b after) :
    loadCompletes (.lb base rt offset) rt (sext64 (b 0)) after s ∧
      loadCompletes (.lbu base rt offset) rt (zext64 (b 0)) after s := by
  subst hva
  exact ⟨alignedLoad_lb.completes (Nat.mod_one _) h (signLow_byte _ b),
    alignedLoad_lbu.completes (Nat.mod_one _) h (ofNat_byte _ b)⟩

/-- LH and LHU of a halfword wherever it is. -/
theorem loadsHalf_of_source (hva : va = s.rget base + sext64 offset) (ha : va.toNat % 2 = 0)
    (h : loadSource s va x.pa 2 x 1#2 false b after) :
    loadCompletes (.lh base rt offset) rt (sext64 (BitVec.ofNat 16 (orderedValue s.bigEndianCpu 2 b))) after s ∧
      loadCompletes (.lhu base rt offset) rt (BitVec.ofNat 64 (orderedValue s.bigEndianCpu 2 b)) after s := by
  subst hva
  exact ⟨alignedLoad_lh.completes ha h (signLow_ofNat _ _ (by decide)), alignedLoad_lhu.completes ha h rfl⟩

/-- LW and LWU of a word wherever it is. -/
theorem loadsWord_of_source (hva : va = s.rget base + sext64 offset) (ha : va.toNat % 4 = 0)
    (h : loadSource s va x.pa 4 x 1#2 false b after) :
    loadCompletes (.lw base rt offset) rt (sext64 (BitVec.ofNat 32 (orderedValue s.bigEndianCpu 4 b))) after s ∧
      (s.mips3 = true →
        loadCompletes (.lwu base rt offset) rt (BitVec.ofNat 64 (orderedValue s.bigEndianCpu 4 b)) after s) := by
  subst hva
  exact ⟨alignedLoad_lw.completes ha h (signLow_ofNat _ _ (by decide)), fun h3 => (alignedLoad_lwu h3).completes ha h rfl⟩

/-- LD of a doubleword wherever it is. -/
theorem loadsDouble_of_source (hva : va = s.rget base + sext64 offset) (ha : va.toNat % 8 = 0) (h3 : s.mips3 = true)
    (h : loadSource s va x.pa 8 x 1#2 false b after) :
    loadCompletes (.ld base rt offset) rt (BitVec.ofNat 64 (orderedValue s.bigEndianCpu 8 b)) after s := by
  subst hva
  exact (alignedLoad_ld h3).completes ha h rfl

end BySize

/-! ## The places a load finds its bytes -/

/-- Bytes of memory at an uncached address are a source of a load. -/
theorem UncachedRam.source {s : State} {va : DWord} {pa : PAddr} {n : Nat} {x : Xlate} {cause : BitVec 2} {link : Bool}
    {b : Nat → Byte} (h : UncachedRam s va pa n .load x) (hb : ∀ k, b k = Memory.read s.mem (pa.toNat + k)) :
    loadSource s va pa n x cause link b (afterUncachedRead pa n x.uc cause link) :=
  .inl ⟨h, hb, rfl⟩

/-- Bytes of a line of the data cache are a source of a load. -/
theorem DataHit.source {s : State} {va : DWord} {pa : PAddr} {n : Nat} {x : Xlate} {w link : Bool} {cause : BitVec 2}
    {b : Nat → Byte} (h : DataHit s va pa .load x w) (hb : ∀ k, b k = s.dByte (dSet x.va) w (pa.toNat % 32 + k))
    (hg : dBytesBad s (dSet x.va) w (pa.toNat % 32) n = false) :
    loadSource s va pa n x cause link b (afterReadHit x.va pa w link) :=
  .inr (.inl ⟨w, h, hg, hb, rfl⟩)

/-- Bytes of memory in a block that is in no cache are a source of a load. -/
theorem DataMiss.source {s : State} {va : DWord} {pa : PAddr} {n : Nat} {x : Xlate} {link : Bool} {cause : BitVec 2}
    {b : Nat → Byte} (h : DataMiss s va pa .load x) (hwf : s.caches.wf = true)
    (hb : ∀ k, b k = Memory.read s.mem (pa.toNat + k)) :
    loadSource s va pa n x cause link b (afterReadMiss x.va pa x.ca cause link) :=
  .inr (.inr ⟨hwf, h, hb, rfl⟩)

/-- Settles O34: memory at an uncached address is a source of a load; the other responses are the cases `fails` and `brings`
of an aligned load, a watched address its case `watch`. -/
theorem loadUncached : Obligations.LoadUncached := by
  unfold Obligations.LoadUncached
  intro s base rt offset x va b hva hb
  refine ⟨fun h => loadsByte_of_source hva (h.source hb), fun h ha => loadsHalf_of_source hva ha (h.source hb),
    fun h ha => loadsWord_of_source hva ha (h.source hb), fun h ha h3 => loadsDouble_of_source hva ha h3 (h.source hb),
    fun h3 => ?gate, fun n i hi ha => ?otherwise, fun r rs d c hr hd hc n i v hi ha h => ?brings⟩
  case gate => exact ⟨traps_of_gpr rfl (Res.bind_of_exc (needMips3_off h3)), traps_of_gpr rfl (Res.bind_of_exc (needMips3_off h3))⟩
  case otherwise =>
    obtain ⟨f, hload⟩ := AlignedLoad.of_mem hva hi
    exact ⟨fun r rs hu hr hb => hload.fails ha hu hr hb,
      fun ht hc hm hl => hload.watch ha ht (.inl (isUncached_iff.2 hc)) hm hl⟩
  case brings =>
    obtain ⟨f, hload, hv⟩ := AlignedLoad.of_value hva hi
    exact hload.brings ha h hr hd hc hv

/-- Settles O35: as O34, with a line of the data cache, or memory where the block is in no cache, as the source. -/
theorem loadHit : Obligations.LoadHit := by
  unfold Obligations.LoadHit
  intro s base rt offset x va w b m hva hmem
  refine ⟨fun hwf h => ?miss, fun n i hi ha ht hc hh hm hl => ?watch, fun h hb => ?hit⟩
  case miss =>
    have source n : loadSource s va x.pa n x 1#2 false m (afterReadMiss x.va x.pa x.ca 1#2 false) := h.source hwf hmem
    obtain ⟨hlb, hlbu⟩ := loadsByte_of_source (rt := rt) hva (source 1)
    exact ⟨hlb, hlbu, fun ha => loadsHalf_of_source hva ha (source 2), fun ha => loadsWord_of_source hva ha (source 4),
      fun ha h3 => loadsDouble_of_source hva ha h3 (source 8)⟩
  case watch =>
    obtain ⟨f, hload⟩ := AlignedLoad.of_mem hva hi
    exact hload.watch ha ht (.inr ⟨hc, w, hh⟩) hm hl
  case hit =>
    exact ⟨fun hg => loadsByte_of_source hva (h.source hb hg), fun hg ha => loadsHalf_of_source hva ha (h.source hb hg),
      fun hg ha => loadsWord_of_source hva ha (h.source hb hg), fun hg ha h3 => loadsDouble_of_source hva ha h3 (h.source hb hg)⟩

end Sys2Proof.Machine
end

section
/-! PROOFS. The aligned stores to cached memory (O37), and the unaligned loads and stores (O38, O39). -/

namespace Sys2Proof.Machine

/-! ## The aligned stores (R571 to R574) -/

/-- Past its gate the instruction `i` writes the low `n` bytes of `rt` at `va`. -/
structure AlignedStore (s : State) (i : Instr) (rt : RegNum) (va : DWord) (n : Nat) : Prop where
  size    : n ∈ [1, 2, 4, 8]
  meaning : exec i s = (memWrite va n (s.rget rt) s).finish

section AlignedStore

variable {s : State} {base rt : RegNum} {offset : BitVec 16} {va : DWord} {n : Nat} {i : Instr} {x : Xlate}

theorem alignedStore_sd (h3 : s.mips3 = true) : AlignedStore s (.sd base rt offset) rt (s.rget base + sext64 offset) 8 :=
  ⟨by simp, congrArg Res.finish (Res.bind_of_open (needMips3_on h3) rfl)⟩

/-- The stores as the statements list them. -/
theorem AlignedStore.of_mem (hva : va = s.rget base + sext64 offset)
    (h : (n, i) ∈ [(1, Instr.sb base rt offset), (2, .sh base rt offset), (4, .sw base rt offset)] ∨
      s.mips3 = true ∧ (n, i) = (8, Instr.sd base rt offset)) : AlignedStore s i rt va n := by
  subst hva
  simp only [List.mem_cons, Prod.mk.injEq, List.not_mem_nil, or_false] at h
  obtain (⟨rfl, rfl⟩ | ⟨rfl, rfl⟩ | ⟨rfl, rfl⟩) | ⟨h3, rfl, rfl⟩ := h
  · exact ⟨by simp, rfl⟩
  · exact ⟨by simp, rfl⟩
  · exact ⟨by simp, rfl⟩
  · exact alignedStore_sd h3

/-- A store of bytes wherever they go. -/
theorem AlignedStore.completes {after : State → State → Prop} (h : AlignedStore s i rt va n) (ha : va.toNat % n = 0)
    (hs : storeTarget s va x.pa n x 1#2 (orderedByte s.bigEndianCpu n (s.rget rt)) after) : storeCompletes i after s := by
  obtain ⟨u, hwrite, hu, hafter⟩ := memWrite_target h.size ha hs
  obtain ⟨hg, hp, hsame, hl, hb, hc, hm, he⟩ := store_done hu _ rfl
  exact ⟨_, h.meaning.trans (by rw [hwrite]; rfl), hg, hp, hafter _ hsame hl hb hc hm he⟩

/-- A store to a watched address that is uncached, or cached and hits (R1077). -/
theorem AlignedStore.watch (h : AlignedStore s i rt va n) (ha : va.toNat % n = 0) (ht : translate s va .store = .ok x s)
    (hc : isUncached x.ca = true ∨ isCached x.ca = true ∧ ∃ w, dHit s x.va x.pa = some w)
    (hm : watchMatch s x.pa .store = true) (hl : watchLive s = true) : traps i .watch s := by
  refine traps_of_exc h.meaning ?_
  unfold memWrite
  rw [dataTranslate_ok ha ht, Res.bind_ok, writeAt_watch hc hm hl, Res.bind_exc]

end AlignedStore

/-- Settles O37: each of the four places is a target of a store, and the watched address the case `watch` of an aligned
store. -/
theorem storeHit : Obligations.StoreHit := by
  unfold Obligations.StoreHit
  rintro s base rt offset x va w n i _ hva hi ha rfl
  have hstore : AlignedStore s i rt va n := .of_mem hva hi
  refine ⟨fun hwf h => ⟨fun hst => ?exclusive, fun v hst hfree => ⟨fun hin hr => ?shared, fun hin => ?clean⟩⟩, fun hwf h => ?miss,
    fun ht hc hh hm hl => hstore.watch ha ht (.inr ⟨hc, w, hh⟩) hm hl⟩
  all_goals refine hstore.completes (x := x) ha (.inr ⟨hwf, ?_⟩)
  case exclusive => exact .inl ⟨w, h, hst, rfl⟩
  case shared => exact .inr (.inl ⟨w, v, h, hst, hfree, .inl ⟨hin, hr, rfl⟩⟩)
  case clean => exact .inr (.inl ⟨w, v, h, hst, hfree, .inr ⟨hin, rfl⟩⟩)
  case miss => exact .inr (.inr ⟨h, rfl⟩)

/-! ## The unaligned loads (R576, R577, R580, R581) -/

/-- Past its gate the instruction `i` reads the bytes of a left or right form and merges them by `f` into `rt`. -/
def UnalignedLoad (s : State) (i : Instr) (rt : RegNum) (left : Bool) (va : DWord) (n : Nat) (f : Nat → DWord → DWord → DWord) : Prop :=
  exec i s = Res.finishGpr rt ((unalignedRead left n va s).bind fun r s => .ok (f r.1 r.2 (s.rget rt)) s)

section

variable {s : State} {base rt : RegNum} {offset : BitVec 16}

theorem unalignedLoad_lwl : UnalignedLoad s (.lwl base rt offset) rt true (s.rget base + sext64 offset) 4
    fun k r old => signLow 32 (mergeLeft 4 k r old) := rfl

theorem unalignedLoad_lwr : UnalignedLoad s (.lwr base rt offset) rt false (s.rget base + sext64 offset) 4
    fun k r old => signLow 32 (mergeRight 4 k r old) := rfl

theorem unalignedLoad_ldl (h3 : s.mips3 = true) :
    UnalignedLoad s (.ldl base rt offset) rt true (s.rget base + sext64 offset) 8 (mergeLeft 8) :=
  congrArg (Res.finishGpr rt) (Res.bind_of_open (needMips3_on h3) rfl)

theorem unalignedLoad_ldr (h3 : s.mips3 = true) :
    UnalignedLoad s (.ldr base rt offset) rt false (s.rget base + sext64 offset) 8 (mergeRight 8) :=
  congrArg (Res.finishGpr rt) (Res.bind_of_open (needMips3_on h3) rfl)

end

theorem Touched.rget {s u : State} {pa : PAddr} {kind : AccessKind} (h : Touched s pa kind u) (r : RegNum) : u.rget r = s.rget r := by
  rw [h]; exact watched_rget s pa kind r

section UnalignedLoad

variable {s : State} {i : Instr} {rt : RegNum} {left : Bool} {va : DWord} {n k : Nat} {x : Xlate} {sp : Nat × Nat}
  {b : Nat → Byte} {f : Nat → DWord → DWord → DWord} {v : DWord} {after : State → State → Prop}

/-- An unaligned load of bytes wherever they are. -/
theorem UnalignedLoad.completes (h : UnalignedLoad s i rt left va n f) (hn : n ∈ [4, 8])
    (hk : k = unalignedPos s.bigEndianCpu n x.va)
    (hsp : sp = (if left then leftSpan s.bigEndianCpu n k else rightSpan s.bigEndianCpu n k))
    (hs : loadSource s va (BitVec.ofNat 40 (x.pa.toNat / n * n) + BitVec.ofNat 40 sp.1) sp.2 x 1#2 false b after)
    (hv : f k (BitVec.ofNat 64 (orderedValue s.bigEndianCpu sp.2 b)) (s.rget rt) = v) : loadCompletes i rt v after s := by
  obtain ⟨u, hread, hu, hmem, hafter⟩ := unalignedRead_source hn hk hsp hs
  have hllb : u.llblock = s.llblock := by rw [hu]; exact (watched_same s _ .load).2.1
  have hold : (breakLl u).rget rt = s.rget rt := hu.rget rt
  obtain ⟨hg, hp, hl, hsame, hlink, hc, hm, he⟩ := load_done (rt := rt) (v := v) (link := false) (lb := u.llblock) hu hmem _ rfl
  refine ⟨_, ?_, hg, hp, hl.trans hllb, hafter _ hsame hlink hc hm he⟩
  rw [h, hread, Res.bind_ok, hold, hv]; rfl

end UnalignedLoad

/-- Settles O38: the source holds the bytes of the span, and the merge as a number is that of Laws/Unaligned.lean. -/
theorem unalignedLoads : Obligations.UnalignedLoads := by
  unfold Obligations.UnalignedLoads
  rintro s base rt offset x _ n k _ b after rfl rfl hk
  have hlt : n ∈ [4, 8] → k < n := fun hn => hk ▸ unalignedPos_lt hn
  refine ⟨fun h => ⟨?lwl, ?ldl⟩, fun h => ⟨?lwr, ?ldr⟩, fun h3 =>
    ⟨traps_of_gpr rfl (Res.bind_of_exc (needMips3_off h3)), traps_of_gpr rfl (Res.bind_of_exc (needMips3_off h3))⟩⟩
  case lwl =>
    rintro rfl
    refine unalignedLoad_lwl.completes (sp := leftSpan s.bigEndianCpu 4 k) (by simp) hk rfl h ?_
    exact (congrArg (signLow 32) (mergeLeft_toNat _ _ _ _ (hlt (by simp)) (by decide))).trans (signLow_ofNat _ _ (by decide))
  case ldl =>
    rintro rfl h3
    refine (unalignedLoad_ldl h3).completes (sp := leftSpan s.bigEndianCpu 8 k) (by simp) hk rfl h ?_
    exact mergeLeft_toNat _ _ _ _ (hlt (by simp)) (by decide)
  case lwr =>
    rintro rfl
    refine unalignedLoad_lwr.completes (sp := rightSpan s.bigEndianCpu 4 k) (by simp) hk rfl h ?_
    exact (congrArg (signLow 32) (mergeRight_toNat _ _ _ _ (hlt (by simp)) (by decide) (orderedValue_lt _ _ _))).trans
      (signLow_ofNat _ _ (by decide))
  case ldr =>
    rintro rfl h3
    refine (unalignedLoad_ldr h3).completes (sp := rightSpan s.bigEndianCpu 8 k) (by simp) hk rfl h ?_
    exact mergeRight_toNat _ _ _ _ (hlt (by simp)) (by decide) (orderedValue_lt _ _ _)

/-! ## The unaligned stores (R578, R579, R582, R583) -/

/-- The bytes a left form takes: those of the value from its most significant end on (R578). -/
theorem orderedByte_ushiftRight (be : Bool) (n m : Nat) (v : DWord) (i : Nat) :
    orderedByte be n (v >>> (8 * m)) i = v.extractLsb' (8 * ((if be then n - 1 - i else i) + m)) 8 := by
  unfold orderedByte
  apply BitVec.eq_of_getLsbD_eq
  intro j hj
  simp only [BitVec.getLsbD_extractLsb', BitVec.getLsbD_ushiftRight]
  congr 2; omega

section UnalignedStore

variable {s : State} {i : Instr} {rt : RegNum} {left : Bool} {va : DWord} {n k : Nat} {x : Xlate} {sp : Nat × Nat}
  {b : Nat → Byte} {after : State → State → Prop}

/-- An unaligned store of bytes wherever they go. -/
theorem storeCompletes_unaligned (h : exec i s = (unalignedWrite left n (s.rget rt) va s).finish) (hn : n ∈ [4, 8])
    (hk : k = unalignedPos s.bigEndianCpu n x.va)
    (hsp : sp = (if left then leftSpan s.bigEndianCpu n k else rightSpan s.bigEndianCpu n k))
    (hb : b = orderedByte s.bigEndianCpu sp.2 (if left then s.rget rt >>> (8 * (n - 1 - k)) else s.rget rt))
    (hs : storeTarget s va (BitVec.ofNat 40 (x.pa.toNat / n * n) + BitVec.ofNat 40 sp.1) sp.2 x 1#2 b after) :
    storeCompletes i after s := by
  obtain ⟨u, hwrite, hu, hafter⟩ := unalignedWrite_target hn hk hsp hb hs
  obtain ⟨hg, hp, hsame, hl, hb, hc, hm, he⟩ := store_done hu _ rfl
  exact ⟨_, h.trans (by rw [hwrite]; rfl), hg, hp, hafter _ hsame hl hb hc hm he⟩

end UnalignedStore

/-- Settles O39: the bytes of the span are those of the value, shifted for the left forms. -/
theorem unalignedStores : Obligations.UnalignedStores := by
  unfold Obligations.UnalignedStores
  rintro s base rt offset x _ n k _ after rfl rfl hk
  refine ⟨fun h => ?left, fun h => ?right, fun h3 =>
    ⟨traps_of_exc rfl (Res.bind_of_exc (needMips3_off h3)), traps_of_exc rfl (Res.bind_of_exc (needMips3_off h3))⟩⟩
  case left =>
    have hb : (fun i => (s.rget rt).extractLsb' (8 * ((if s.bigEndianCpu then k - i else i) + (n - 1 - k))) 8) =
        orderedByte s.bigEndianCpu (k + 1) (s.rget rt >>> (8 * (n - 1 - k))) :=
      funext fun i => (orderedByte_ushiftRight _ (k + 1) (n - 1 - k) _ _).symm
    have stores i (hn : n ∈ [4, 8]) (hi : exec i s = (unalignedWrite true n (s.rget rt) (s.ea base offset) s).finish) :
        storeCompletes i after s := storeCompletes_unaligned (sp := leftSpan s.bigEndianCpu n k) hi hn hk rfl hb h
    refine ⟨?swl, ?sdl⟩
    case swl => rintro rfl; exact stores _ (by simp) rfl
    case sdl => rintro rfl h3; exact stores _ (by simp) (congrArg Res.finish (Res.bind_of_open (needMips3_on h3) rfl))
  case right =>
    have hb : (fun i => (s.rget rt).extractLsb' (8 * (if s.bigEndianCpu then n - 1 - k - i else i)) 8) =
        orderedByte s.bigEndianCpu (n - k) (s.rget rt) :=
      funext fun i => by unfold orderedByte; rw [Nat.sub_right_comm n 1 k]
    have stores i (hn : n ∈ [4, 8]) (hi : exec i s = (unalignedWrite false n (s.rget rt) (s.ea base offset) s).finish) :
        storeCompletes i after s := storeCompletes_unaligned (sp := rightSpan s.bigEndianCpu n k) hi hn hk rfl hb h
    refine ⟨?swr, ?sdr⟩
    case swr => rintro rfl; exact stores _ (by simp) rfl
    case sdr => rintro rfl h3; exact stores _ (by simp) (congrArg Res.finish (Res.bind_of_open (needMips3_on h3) rfl))

end Sys2Proof.Machine
end

section
/-! PROOFS. The linked loads and the conditional stores (O40, O41). -/

namespace Sys2Proof.Machine

/-! ## The linked loads (R585, R586) -/

/-- An aligned word or doubleword lies in a line of the data cache. -/
theorem aligned_line {s t : State} {va : DWord} {n : Nat} {k : AccessKind} {x : Xlate} (hn : n ∈ [4, 8]) (ha : va.toNat % n = 0)
    (ht : translate s va k = .ok x t) : 0 < n ∧ x.pa.toNat % 32 + n ≤ 32 := by
  have hlow := (translate_low ht).1
  simp only [List.mem_cons, List.not_mem_nil, or_false] at hn
  obtain rfl | rfl := hn <;> omega

/-- An aligned linked load wherever its bytes are: it sets the link on their block. -/
theorem linkedRead_source {s : State} {va : DWord} {n : Nat} {x : Xlate} {b : Nat → Byte} {after : State → State → Prop}
    (hn : n ∈ [4, 8]) (ha : va.toNat % n = 0) (h : loadSource s va x.pa n x 2#2 true b after) :
    ∃ u, linkedRead va n s = .ok (BitVec.ofNat 64 (orderedValue s.bigEndianCpu n b))
        { u with llbit := true, llblock := s.hw.blockBase x.pa } ∧
      Touched s x.pa .load u ∧ u.mem = s.mem ∧
      ∀ t : State, sameBesidesMemory { s.watched x.pa .load with cp0 := u.cp0 } t → t.llbit = true → t.caches = u.caches →
        t.mem = s.mem → t.ext = u.ext → after s t := by
  have ht : translate s va .load = .ok x s := by
    obtain ⟨h, _⟩ | ⟨w, h, _⟩ | ⟨_, h, _⟩ := h <;> exact h.translated
  have hline := aligned_line hn ha ht
  obtain ⟨_, u, hread, hu, hmem, hafter⟩ := readAt_source hline.1 hline.2 h
  refine ⟨u, ?_, hu, hmem, hafter⟩
  have hvalue := valueOfBytes_readBytes s.bigEndianCpu b 0 n
  simp only [readBytes_eq_map, Nat.zero_add] at hvalue
  unfold linkedRead
  rw [dataTranslate_ok ha ht, Res.bind_ok, hread, Res.bind_ok, hu.bigEndian, hvalue, hu.hw]

/-- A linked load of bytes wherever they are, `f` the extension of its value. -/
theorem linkedLoad_completes {s : State} {i : Instr} {rt : RegNum} {va : DWord} {n : Nat} {f : DWord → DWord} {x : Xlate}
    {b : Nat → Byte} {v : DWord} {after : State → State → Prop}
    (hi : exec i s = Res.finishGpr rt ((linkedRead va n s).bind fun v s => .ok (f v) s)) (hn : n ∈ [4, 8]) (ha : va.toNat % n = 0)
    (h : loadSource s va x.pa n x 2#2 true b after) (hv : f (BitVec.ofNat 64 (orderedValue s.bigEndianCpu n b)) = v) :
    ∃ t, exec i s = .next t ∧ gprBecomes rt v s t ∧ fprSame s t ∧ t.llblock = s.hw.blockBase x.pa ∧ after s t := by
  obtain ⟨u, hread, hu, hmem, hafter⟩ := linkedRead_source hn ha h
  obtain ⟨hg, hp, hl, hsame, hlink, hc, hm, he⟩ :=
    load_done (rt := rt) (v := v) (link := true) (lb := s.hw.blockBase x.pa) hu hmem _ rfl
  exact ⟨_, hi.trans (by rw [hread, Res.bind_ok, hv]; rfl), hg, hp, hl, hafter _ hsame hlink hc hm he⟩

/-- Settles O40: LL and LLD by the read that sets the link, from any source. -/
theorem linkedLoad : Obligations.LinkedLoad := by
  unfold Obligations.LinkedLoad
  rintro s base rt offset x _ b after rfl links hlinks
  refine ⟨fun h ha => (hlinks _ _).2 ?ll, fun h ha h3 => (hlinks _ _).2 ?lld,
    fun h3 => traps_of_gpr rfl (Res.bind_of_exc (needMips3_off h3))⟩
  case ll => exact linkedLoad_completes rfl (by simp) ha h (signLow_ofNat _ _ (by decide))
  case lld =>
    have hexec : exec (.lld base rt offset) s =
        Res.finishGpr rt ((linkedRead (s.rget base + sext64 offset) 8 s).bind fun v s => .ok (id v) s) := by
      refine (congrArg (Res.finishGpr rt) (Res.bind_of_open (needMips3_on h3) rfl)).trans ?_
      unfold State.ea
      cases linkedRead (s.rget base + sext64 offset) 8 s <;> rfl
    exact linkedLoad_completes hexec (by simp) ha h rfl

/-! ## The conditional stores (R587, R588) -/

theorem exec_conditional {s : State} {base rt : RegNum} {offset : BitVec 16} {n : Nat} {i : Instr}
    (hi : (n, i) ∈ [(4, Instr.sc base rt offset), (8, .scd base rt offset)]) (h3 : n = 8 → s.mips3 = true) :
    n ∈ [4, 8] ∧ exec i s = Res.finishGpr rt
      ((conditionalWrite (s.rget base + sext64 offset) n (s.rget rt) s).bind fun ok s => .ok (scValue ok) s) := by
  simp only [List.mem_cons, Prod.mk.injEq, List.not_mem_nil, or_false] at hi
  obtain ⟨rfl, rfl⟩ | ⟨rfl, rfl⟩ := hi
  · exact ⟨by simp, rfl⟩
  · exact ⟨by simp, congrArg (Res.finishGpr rt) (Res.bind_of_open (needMips3_on (h3 rfl)) rfl)⟩

section Conditional

variable {s : State} {va v : DWord} {n : Nat} {x : Xlate}

/-- With the link a conditional store writes, wherever its bytes go. -/
theorem conditionalWrite_target {after : State → State → Prop} (hn : n ∈ [4, 8]) (ha : va.toNat % n = 0) (hl : s.llbit = true)
    (h : storeTarget s va x.pa n x 2#2 (orderedByte s.bigEndianCpu n v) after) :
    ∃ u, conditionalWrite va n v s = .ok true (breakLl u) ∧ Touched s x.pa .store u ∧
      ∀ t : State, sameBesidesMemory { s.watched x.pa .store with cp0 := u.cp0 } t → t.llbit = false → t.llblock = s.llblock →
        t.caches = u.caches → t.mem = u.mem → t.ext = u.ext → after s t := by
  have ht : translate s va .store = .ok x s := by
    obtain ⟨_, h, _⟩ | ⟨_, ⟨_, h, _⟩ | ⟨_, _, h, _⟩ | ⟨h, _⟩⟩ := h <;> exact h.translated
  obtain ⟨_, u, hwrite, hu, hafter⟩ := writeAt_target (whole := true) (aligned_line hn ha ht).2 h
  refine ⟨u, ?_, hu, hafter⟩
  unfold conditionalWrite
  rw [dataTranslate_ok ha ht, Res.bind_ok, if_pos hl, bytesOfValue_eq_map, hwrite, Res.bind_ok]

/-- Without it the store is not performed; a Watch match is postponed (R1078). -/
theorem conditionalWrite_unlinked (ha : va.toNat % n = 0) (ht : translate s va .store = .ok x s) (hl : s.llbit = false)
    (hw : watchMatch s x.pa .store = true → watchLive s = false) :
    conditionalWrite va n v s = .ok false (breakLl (s.watched x.pa .store)) := by
  unfold conditionalWrite
  rw [dataTranslate_ok ha ht, Res.bind_ok, hl, if_neg (by decide), watch_off hw, if_neg (by decide)]; rfl

/-- A watched address is the Watch exception, with the link or without (R1077). -/
theorem conditionalWrite_watch (ha : va.toNat % n = 0) (ht : translate s va .store = .ok x s)
    (hc : x.ca = 2#3 ∨ isCached x.ca = true ∧ ∃ w, dHit s x.va x.pa = some w) (hm : watchMatch s x.pa .store = true)
    (hlive : watchLive s = true) : conditionalWrite va n v s = .exc .watch s := by
  unfold conditionalWrite
  rw [dataTranslate_ok ha ht, Res.bind_ok]
  split
  · rw [writeAt_watch (hc.imp (fun h => isUncached_iff.2 (.inl h)) id) hm hlive, Res.bind_exc]
  · rw [hm, hlive, Bool.and_self, if_pos rfl]
    obtain h | ⟨h, w, hh⟩ := hc
    · rw [h]; rfl
    · rw [if_pos h]
      unfold watchCached
      rw [show dHit s (dataReq x x.pa .store 2#2).va (dataReq x x.pa .store 2#2).pa = some w from hh]

end Conditional

theorem advance_rset (s : State) (r : RegNum) (v : DWord) : advance (s.rset r v) = (advance s).rset r v := by
  unfold State.rset; split <;> rfl

theorem State.rset_fraw (s : State) (r : RegNum) (v : DWord) (q : RegNum) : (s.rset r v).fraw q = s.fraw q := by
  unfold State.fraw; rw [State.rset_fpu]

/-- A write of a general register is among what a data reference may change. -/
theorem sameBesidesMemory.rset {s t : State} (h : sameBesidesMemory s t) (r : RegNum) (v : DWord) :
    sameBesidesMemory s (t.rset r v) := by
  unfold sameBesidesMemory hiLoSame fallsThrough at h ⊢
  simpa using h

/-- Settles O41: with the link the store goes to its target and 1 to `rt`; without it only `rt` is written, and the latch of a
postponed Watch exception set. -/
theorem conditionalStore : Obligations.ConditionalStore := by
  unfold Obligations.ConditionalStore
  rintro s base rt offset x _ n i rfl hi
  refine ⟨?gate, fun h3 ha => ?past⟩
  case gate =>
    rintro rfl h3
    obtain rfl : i = .scd base rt offset := by simpa using hi
    exact traps_of_gpr rfl (Res.bind_of_exc (needMips3_off h3))
  case past =>
    obtain ⟨hn, hexec⟩ := exec_conditional hi h3
    refine ⟨fun hl after h => ?linked, fun ht => ⟨fun hl hw => ?unlinked, fun hc hm hlive => ?watch⟩⟩
    case linked =>
      obtain ⟨u, hwrite, hu, hafter⟩ := conditionalWrite_target hn ha hl h
      obtain ⟨hg, hp, hsame, hlink, hb, hc, hm, he⟩ := store_done hu _ rfl
      refine ⟨(advance (breakLl u)).rset rt 1#64, ?_, fun r => ?_, fun q => ?_, hafter _ (hsame.rset rt _)
        ((State.rset_llbit _ _ _).trans hlink) ((State.rset_llblock _ _ _).trans hb) ((State.rset_caches _ _ _).trans hc)
        ((State.rset_mem _ _ _).trans hm) ((State.rset_ext _ _ _).trans he)⟩
      · rw [hexec, hwrite, ← advance_rset]; rfl
      · rw [State.rget_rset, hg]
      · rw [State.rset_fraw, hp]
    case unlinked =>
      have hkeep : breakLl (s.watched x.pa .store) = s.watched x.pa .store := by
        have : (s.watched x.pa .store).llbit = false := (watched_same s x.pa .store).1.trans hl
        unfold breakLl; rw [← this]
      have hfall : fallsThrough (s.watched x.pa .store) = fallsThrough s := by
        unfold State.watched; rw [latchWatch_frame]; rfl
      have hhilo : hiLoSame (s.watched x.pa .store) = hiLoSame s := by
        unfold State.watched; rw [latchWatch_frame]; rfl
      refine ⟨advance ((s.watched x.pa .store).rset rt 0#64), ?_, fun r => ?_, hhilo ▸ advance_rset_hiLoSame _ _ _,
        hfall ▸ advance_rset_fallsThrough _ _ _, advance_rset_sameSystem _ _ _⟩
      · rw [hexec, conditionalWrite_unlinked ha ht hl hw, hkeep]; rfl
      · rw [advance_rset_gprBecomes, watched_rget]
    case watch => exact traps_of_gpr hexec (Res.bind_of_exc (conditionalWrite_watch ha ht hc hm hlive))

end Sys2Proof.Machine
end

section
/-! PROOFS. The uncached buffer and its gatherer (R914 to R916): the stores of O36, each one entry of the buffer of which
`gatherNext` says what it makes ready, and the load that flushes a gathering.  What the requests made ready do to memory is
`issueAll_ram`; one statement, `afterFlush`, holds of every store, and the other forms are readings of it. -/

namespace Sys2Proof.Machine

/-! ## Requests that store to RAM -/

/-- Every byte of memory after the external agent accepts a list of bytes in RAM. -/
theorem physWrite_read_list {s : State} {pa : PAddr} {l : List Byte} (hwf : s.mem.wf = true)
    (hm : ∀ a, pa.toNat ≤ a → a < pa.toNat + l.length → s.physAt a = .ram) (a : Nat) :
    Memory.read (s.physWrite pa l).mem a =
      if pa.toNat ≤ a ∧ a < pa.toNat + l.length then l.getD (a - pa.toNat) 0#8 else Memory.read s.mem a := by
  have hl : (List.range l.length).map (fun i => l.getD i 0#8) = l := by
    refine List.ext_getElem (by simp) fun i h₁ h₂ => ?_
    simp [List.getElem?_eq_getElem h₂]
  have h := physWrite_read (b := fun i => l.getD i 0#8) hwf hm a
  rwa [hl] at h

/-- A request that is no coherency data response, issued: memory takes its bytes. -/
theorem issue_eq (s : State) {r : BusReq} (h : r.isDataResponse = false) :
    s.issue r = (s.physWrite (r.stores s.bigEndianMem).1 (r.stores s.bigEndianMem).2).emit r := by
  cases r with
  | dataResponse => cases h
  | _ => rfl

/-- Requests issued in turn whose bytes go to RAM: memory holds what they stored last, and they go out in their order. -/
theorem issueAll_ram (rs : List BusReq) : ∀ {s : State}, s.mem.wf = true → (∀ r ∈ rs, r.isDataResponse = false) →
    storesToRam s (rs.map (BusReq.stores s.bigEndianMem)) →
    ∃ m, issueAll rs s = { s with mem := m, ext := { s.ext with bus := rs.reverse ++ s.ext.bus } } ∧ (rs = [] → m = s.mem) ∧
      ∀ a, m.read a = lastStored (rs.map (BusReq.stores s.bigEndianMem)) a (s.mem.read a) := by
  induction rs with
  | nil => intro s _ _ _; exact ⟨s.mem, rfl, fun _ => rfl, fun _ => rfl⟩
  | cons r rs ih =>
    intro s hwf hresp hram
    have hissue := issue_eq s (hresp r (List.mem_cons_self ..))
    have hone := physWrite_read_list hwf (hram _ (List.mem_cons_self ..))
    have hwf' : (s.issue r).mem.wf = true := by rw [hissue]; exact physWriteList_wf hwf
    have hbe : (s.issue r).bigEndianMem = s.bigEndianMem := by rw [hissue]; rfl
    have hphys : (s.issue r).physAt = s.physAt := by rw [hissue]; rfl
    obtain ⟨m, hall, -, hread⟩ := ih hwf' (fun q hq => hresp q (List.mem_cons_of_mem _ hq)) (by
      rw [hbe]; unfold storesToRam; rw [hphys]; exact fun w hw => hram w (List.mem_cons_of_mem _ hw))
    refine ⟨m, ?_, fun h => (List.cons_ne_nil _ _ h).elim, fun a => ?_⟩
    · unfold issueAll
      rw [hall, hissue, List.reverse_cons, List.append_assoc]; rfl
    · rw [hread, hbe, List.map_cons, lastStored, ← hone a, hissue]; rfl

/-- The bytes of doublewords made of bytes are those bytes. -/
theorem bytesOfDwords_dwordsOfBytes (be : Bool) (k : Nat) :
    ∀ l : List Byte, l.length = 8 * k → bytesOfDwords be (dwordsOfBytes be l k) = l := by
  induction k with
  | zero => intro l hl; exact (List.eq_nil_of_length_eq_zero hl).symm
  | succ k ih =>
    intro l hl
    have hword : bytesOfValue be (valueOfBytes be (l.take 8)) 8 = l.take 8 := by
      have htake : l.take 8 = readBytes (fun i => l.getD i 0#8) 0 8 := by
        rw [readBytes_eq_map]
        refine List.ext_getElem (by simp; omega) fun i h₁ h₂ => ?_
        have : i < l.length := by simp at h₁; omega
        simp [List.getElem?_eq_getElem this]
      rw [htake, valueOfBytes_readBytes, bytesOfValue_eq_map, readBytes_eq_map]
      exact List.map_congr_left fun i hi => byte_of_ordered be _ i (List.mem_range.1 hi)
    unfold dwordsOfBytes bytesOfDwords
    rw [hword, ih _ (by rw [List.length_drop]; omega), List.take_append_drop]

/-! ## A reference that enters the uncached buffer -/

/-- An uncached reference, a Watch match postponed and no request held back, whatever is gathered. -/
structure BufferedRef (s : State) (va : DWord) (kind : AccessKind) (x : Xlate) : Prop where
  translated : translate s va kind = .ok x s
  uncached   : isCached x.ca = false ∧ isUncached x.ca = true
  postponed  : watchMatch s x.pa kind = true → watchLive s = false
  free       : s.busFree

theorem AcceleratedRef.buffered {s : State} {va : DWord} {x : Xlate} (h : AcceleratedRef s va x.pa x) :
    BufferedRef s va .store x :=
  ⟨h.translated, by rw [h.accelerated]; exact ⟨rfl, rfl⟩, h.postponed, h.free⟩

theorem FlushRef.buffered {s : State} {va : DWord} {kind : AccessKind} {x : Xlate} {g : Gather} (h : FlushRef s va x.pa kind x g) :
    BufferedRef s va kind x := by
  refine ⟨h.translated, ?_, h.postponed, h.free⟩
  obtain e | e := h.uncached <;> rw [e] <;> exact ⟨rfl, rfl⟩

section Store

variable {s : State} {va : DWord} {x : Xlate} {n : Nat} {i : Instr} {rt : RegNum} {v : DWord}

/-- The entry of the uncached buffer that a store of the low `n` bytes of `v` makes. -/
def storeEntry (s : State) (x : Xlate) (n : Nat) (v : DWord) : UncachedStore :=
  { pa := x.pa, bytes := (List.range n).map (orderedByte s.bigEndianCpu n v), uc := x.uc, accel := x.ca == 7#3,
    whole := n == 4 || n == 8 }

/-- With nothing waiting in the buffer a store enters it, unless it is a doubleword after an unpaired word (U36). -/
theorem memWrite_buffered (h : BufferedRef s va .store x) (ha : va.toNat % n = 0) :
    memWrite va n v s =
      if x.ca = 7#3 ∧ (n == 4 || n == 8) = true ∧ unpaired s.ext.gather n x.uc = true then .refuse .unpairedGather
      else .ok () (breakLl (latchWatch (watchMatch s x.pa .store) (bufferStore (storeEntry s x n v) s))) := by
  have hahead : gatherAhead s = s.ext.gather := by unfold gatherAhead; rw [h.free.queued]; rfl
  have hroom : uncachedFull s = false := by unfold uncachedFull; rw [h.free.queued]; rfl
  unfold memWrite
  rw [dataTranslate_ok ha h.translated, Res.bind_ok]
  unfold writeAt
  simp only [watch_off h.postponed, h.uncached, Bool.false_eq_true, if_false, if_true]
  unfold uncachedWrite
  rw [drain_free h.free, hroom, if_neg Bool.false_ne_true, bytesOfValue_eq_map, hahead, List.length_map, List.length_range]
  split <;> rfl

/-- What a store leaves that passes through the uncached buffer, `m` memory and `e` the boundary then. -/
theorem store_buffered (s : State) (m : Memory) (e : Ext) (pa : PAddr) (t : State)
    (ht : t = advance (breakLl (latchWatch (watchMatch s pa .store) { s with mem := m, ext := e }))) :
    gprSame s t ∧ fprSame s t ∧ sameBesidesMemory (s.watched pa .store) t ∧ t.llbit = false ∧ t.llblock = s.llblock ∧
      t.caches = s.caches ∧ t.mem = m ∧ t.ext = e := by
  subst ht
  obtain ⟨hg, hf, hsame, hl, hlb, hc, hm, he⟩ := store_after (s := s) (pa := pa)
    (u := breakLl (latchWatch (watchMatch s pa .store) { s with mem := m, ext := e })) (by
      unfold State.watched latchWatch; split <;> rfl)
  refine ⟨hg, hf, hsame, hl, hlb, hc.trans ?_, hm.trans ?_, he.trans ?_⟩ <;> (rw [latchWatch_frame]; rfl)

/-- What a store leaves whose entry makes the requests of `ready` leave, all to RAM. -/
theorem AlignedStore.buffers {g : Option Gather} {ready : List (List BusReq)} {rs : List BusReq} {ws : List (PAddr × List Byte)}
    (h : AlignedStore s i rt va n) (hb : BufferedRef s va .store x) (ha : va.toNat % n = 0) (hwf : s.mem.wf = true)
    (hp : ¬ (x.ca = 7#3 ∧ (n == 4 || n == 8) = true ∧ unpaired s.ext.gather n x.uc = true))
    (hnext : gatherNext s s.ext.gather (storeEntry s x n (s.rget rt)) = (g, ready)) (hrs : ready.flatten = rs)
    (hresp : ∀ r ∈ rs, r.isDataResponse = false) (hws : rs.map (BusReq.stores s.bigEndianMem) = ws) (hram : storesToRam s ws) :
    storeCompletes i (fun s t => afterFlush x.pa .store ws rs g s t ∧ (rs = [] → t.mem = s.mem)) s := by
  subst hws
  obtain ⟨m, hall, hnone, hread⟩ := issueAll_ram rs (s := { s with ext := { s.ext with gather := g } }) hwf hresp hram
  have hexec : exec i s = .next (advance (breakLl (latchWatch (watchMatch s x.pa .store)
      { s with mem := m, ext := { s.ext with gather := g, bus := rs.reverse ++ s.ext.bus } }))) := by
    rw [h.meaning, memWrite_buffered hb ha, if_neg hp, bufferStore_free hb.free, hnext, hrs, hall]; rfl
  obtain ⟨hg, hf, hsame, hl, hlb, hc, hm, he⟩ := store_buffered s m _ x.pa _ rfl
  exact ⟨_, hexec, hg, hf, ⟨hsame, hl, hlb, hc, fun a => by rw [hm]; exact hread a, he⟩, fun h => hm.trans (hnone h)⟩

end Store

/-! ## What a store makes of the gathering (R916) -/

section Gathering

variable {s : State} {g : Gather} {m : GatherMode} {u : UncachedStore}

theorem unpaired_iff {n : Nat} {uc : BitVec 2} :
    unpaired (some g) n uc = true ↔ g.uc = uc ∧ g.mode = .sequential ∧ n = 8 ∧ g.n % 8 = 4 := by
  unfold unpaired
  simp only [Bool.and_eq_true, beq_iff_eq, and_assoc]

/-- A store of at most a doubleword leaves the block that it begins incomplete. -/
theorem startGather_aligned (ha : u.pa.toNat % 2 ^ s.hw.blkLog = 0) (hn : u.bytes.length ≤ 8) : startGather s u =
    (some { base := u.pa, uc := u.uc, mode := .undetermined, n := u.bytes.length, stores := [(u.pa, u.bytes)] }, []) := by
  unfold startGather gathering
  rw [if_pos ha, if_neg]
  obtain e | e := blkLog_cases s.hw <;> rw [e] <;> dsimp only <;> omega

theorem startGather_unaligned (ha : u.pa.toNat % 2 ^ s.hw.blkLog ≠ 0) :
    startGather s u = (none, [[.dspWrite true u.pa u.bytes u.uc 2#2]]) := if_neg ha

/-- The next store in ascending order, or one more at the same address, is gathered. -/
theorem gatherNext_append (h : u.accel = true ∧ u.whole = true) (huc : u.uc = g.uc)
    (hm : m = .sequential ∧ g.mode ≠ .identical ∧ u.pa.toNat = g.base.toNat + g.n ∨
      m = .identical ∧ g.mode ≠ .sequential ∧ u.pa = g.base ∧ g.n ≠ 0) :
    gatherNext s (some g) u = gathering s (g.append m u) := by
  unfold gatherNext
  rw [if_pos h]
  dsimp only
  rw [if_neg (not_not.2 huc)]
  obtain ⟨rfl, hmode, hpa⟩ | ⟨rfl, hmode, hpa, hn⟩ := hm
  · rw [if_pos ⟨hmode, hpa⟩]
  · rw [if_neg (by rw [hpa]; omega), if_pos ⟨hmode, hpa⟩]

/-- A store of another mode, address or uncached field flushes the gathering and may begin one. -/
theorem gatherNext_flush (h : u.accel = true ∧ u.whole = true) (hne : u.uc ≠ g.uc ∨
      (g.mode = .identical ∨ u.pa.toNat ≠ g.base.toNat + g.n) ∧ (g.mode = .sequential ∨ u.pa ≠ g.base)) :
    gatherNext s (some g) u = afterFlushed (some g) (startGather s u) := by
  unfold gatherNext
  rw [if_pos h]
  dsimp only
  obtain huc | ⟨hseq, hid⟩ := hne
  · rw [if_pos huc]
  · split
    · rfl
    · rw [if_neg (by tauto), if_neg (by tauto)]

/-- A store that is not gathered flushes the gathering and leaves by itself. -/
theorem gatherNext_plain (h : ¬ (u.accel = true ∧ u.whole = true)) : gatherNext s (some g) u =
    (none, flushedEntry (some g) ++ [[.dspWrite u.accel u.pa u.bytes u.uc 1#2]]) := if_neg h

/-- The requests of a flushed gathering and of a store behind it. -/
theorem flushedEntry_flatten (g : Gather) (es : List (List BusReq)) :
    (flushedEntry (some g) ++ es).flatten = flushedWrites g ++ es.flatten := by
  rw [List.flatten_append]; unfold flushedEntry; rw [List.flatten_singleton]; rfl

theorem flushedWrites_stores (be : Bool) (g : Gather) : (flushedWrites g).map (BusReq.stores be) = g.stores := by
  unfold flushedWrites
  rw [List.map_map]
  exact List.map_id _

theorem flushedWrites_noResponse {r : BusReq} (h : r ∈ flushedWrites g) : r.isDataResponse = false := by
  obtain ⟨w, -, rfl⟩ := List.mem_map.1 h
  rfl

end Gathering

/-! ## Readings of `afterFlush` -/

theorem storeCompletes.imp {i : Instr} {s : State} {after after' : State → State → Prop} (h : storeCompletes i after s)
    (ha : ∀ t, after s t → after' s t) : storeCompletes i after' s := by
  obtain ⟨t, hexec, hg, hf, hafter⟩ := h
  exact ⟨t, hexec, hg, hf, ha t hafter⟩

section Readings

variable {s t : State} {pa : PAddr}

/-- One store behind no gathering. -/
theorem afterUncachedWrite_of_flush {accel : Bool} {n : Nat} {b : Nat → Byte} {uc cause : BitVec 2} (hg : s.ext.gather = none)
    (h : afterFlush pa .store [(pa, (List.range n).map b)] [.dspWrite accel pa ((List.range n).map b) uc cause] none s t) :
    afterUncachedWrite accel pa n b uc cause s t := by
  obtain ⟨hsame, hl, hlb, hc, hm, he⟩ := h
  refine ⟨hsame, hl, hlb, hc, fun a => ?_, by rw [he, ← hg]; rfl⟩
  rw [hm]
  simp only [lastStored, List.length_map, List.length_range]
  split
  · next h => simp [show a - pa.toNat < n by omega]
  · rfl

/-- A store that the gathering keeps. -/
theorem afterGather_of_flush {g : Gather} (h : afterFlush pa .store [] [] (some g) s t) (hm : t.mem = s.mem) :
    afterGather pa g s t := by
  obtain ⟨hsame, hl, hlb, hc, -, he⟩ := h
  exact ⟨hsame, hl, hlb, hc, hm, fun a => by rw [hm], he⟩

/-- A store that completes its block. -/
theorem afterBlockGather_of_flush {g : Gather} {l : List Byte} {cause : BitVec 2} (h : afterFlush pa .store [(g.base, l)]
      [.gatherWrite g.base (dwordsOfBytes s.bigEndianMem l (g.n / 8)) g.uc cause] none s t) :
    afterBlockGather pa g l cause s t := by
  obtain ⟨hsame, hl, hlb, hc, hm, he⟩ := h
  exact ⟨hsame, hl, hlb, hc, hm, he⟩

end Readings

/-! ## The accelerated stores -/

section Accelerated

variable {s : State} {va : DWord} {x : Xlate} {n : Nat} {i : Instr} {rt : RegNum}

/-- A word or doubleword store under Uncached accelerated is one that the gatherer may gather. -/
theorem storeEntry_whole {v : DWord} (hr : AcceleratedRef s va x.pa x) (hn : n = 4 ∨ n = 8) :
    (storeEntry s x n v).accel = true ∧ (storeEntry s x n v).whole = true ∧ (storeEntry s x n v).bytes.length = n := by
  unfold storeEntry
  rw [hr.accelerated]
  refine ⟨rfl, ?_, by simp⟩
  obtain rfl | rfl := hn <;> rfl

/-- With nothing gathered, a store that is not block-aligned leaves by itself. -/
theorem AlignedStore.single (h : AlignedStore s i rt va n) (hr : AcceleratedRef s va x.pa x) (hn : n = 4 ∨ n = 8)
    (ha : va.toNat % n = 0) (hwf : s.mem.wf = true) (hg : s.ext.gather = none) (hpa : x.pa.toNat % 2 ^ s.hw.blkLog ≠ 0)
    (hram : ∀ a, x.pa.toNat ≤ a → a < x.pa.toNat + n → s.physAt a = .ram) :
    storeCompletes i (afterUncachedWrite true x.pa n (orderedByte s.bigEndianCpu n (s.rget rt)) x.uc 2#2) s := by
  obtain ⟨haccel, hwhole, -⟩ := storeEntry_whole (v := s.rget rt) hr hn
  have hnext : gatherNext s s.ext.gather (storeEntry s x n (s.rget rt)) = (none,
      [[.dspWrite true x.pa ((List.range n).map (orderedByte s.bigEndianCpu n (s.rget rt))) x.uc 2#2]]) := by
    rw [hg]; exact (if_pos ⟨haccel, hwhole⟩).trans (startGather_unaligned hpa)
  refine (h.buffers hr.buffered ha hwf (by rw [hg]; simp [unpaired]) hnext rfl (by simp [BusReq.isDataResponse]) rfl ?_).imp
    fun t ht => afterUncachedWrite_of_flush hg ht.1
  simpa [storesToRam, BusReq.stores] using hram

/-- With nothing gathered, a block-aligned store begins a gathering. -/
theorem AlignedStore.begins {l : List Byte} (h : AlignedStore s i rt va n) (hr : AcceleratedRef s va x.pa x) (hn : n = 4 ∨ n = 8)
    (ha : va.toNat % n = 0) (hwf : s.mem.wf = true) (hl : l = (List.range n).map (orderedByte s.bigEndianCpu n (s.rget rt)))
    (hg : s.ext.gather = none) (hpa : x.pa.toNat % 2 ^ s.hw.blkLog = 0) :
    storeCompletes i (afterGather x.pa
      { base := x.pa, uc := x.uc, mode := .undetermined, n := n, stores := [(x.pa, l)] }) s := by
  obtain ⟨haccel, hwhole, hlen⟩ := storeEntry_whole (v := s.rget rt) hr hn
  have hnext : gatherNext s s.ext.gather (storeEntry s x n (s.rget rt)) =
      (some { base := x.pa, uc := x.uc, mode := .undetermined, n := n, stores := [(x.pa, l)] }, []) := by
    have hstart := startGather_aligned (s := s) (u := storeEntry s x n (s.rget rt)) hpa (by omega)
    rw [hlen] at hstart
    rw [hg, hl]; exact (if_pos ⟨haccel, hwhole⟩).trans hstart
  exact (h.buffers hr.buffered ha hwf (by rw [hg]; simp [unpaired]) hnext rfl (by simp) rfl (by simp [storesToRam])).imp
    fun t ht => afterGather_of_flush ht.1 (ht.2 rfl)

variable {g : Gather}

/-- A doubleword after an unpaired word is refused (U36; log 18). -/
theorem AlignedStore.refused (h : AlignedStore s i rt va n) (hr : AcceleratedRef s va x.pa x) (hn : n = 8)
    (ha : va.toNat % n = 0) (hg : s.ext.gather = some g) (huc : g.uc = x.uc) (hmode : g.mode = .sequential) (hodd : g.n % 8 = 4) :
    exec i s = .refused .unpairedGather := by
  rw [h.meaning, memWrite_buffered hr.buffered ha, if_pos]
  · rfl
  · rw [hg]
    exact ⟨hr.accelerated, by simp [hn], unpaired_iff.2 ⟨huc, hmode, hn, hodd⟩⟩

/-- The next store of a gathering: kept while the block is incomplete, and written with the block that it completes. -/
theorem AlignedStore.gathers {m : GatherMode} {g' : Gather} {l : List Byte} (h : AlignedStore s i rt va n)
    (hr : AcceleratedRef s va x.pa x) (hn : n = 4 ∨ n = 8) (ha : va.toNat % n = 0) (hwf : s.mem.wf = true)
    (hl : l = (List.range n).map (orderedByte s.bigEndianCpu n (s.rget rt))) (hg : s.ext.gather = some g) (huc : g.uc = x.uc)
    (hpair : ¬ (g.mode = .sequential ∧ n = 8 ∧ g.n % 8 = 4))
    (hm : m = .sequential ∧ g.mode ≠ .identical ∧ x.pa.toNat = g.base.toNat + g.n ∨
      m = .identical ∧ g.mode ≠ .sequential ∧ x.pa = g.base ∧ g.n ≠ 0)
    (hg' : g' = { g with mode := m, n := g.n + n, stores := g.stores ++ [(x.pa, l)] }) :
    (g'.n ≠ 2 ^ s.hw.blkLog → storeCompletes i (afterGather x.pa g') s) ∧
      ∀ bytes, g'.n = 2 ^ s.hw.blkLog → bytes = storesBytes g'.stores → bytes.length = g'.n →
        (∀ a, g.base.toNat ≤ a → a < g.base.toNat + g'.n → s.physAt a = .ram) →
        storeCompletes i (afterBlockGather x.pa g' bytes (if m = .identical then 3#2 else 2#2)) s := by
  obtain ⟨haccel, hwhole, hlen⟩ := storeEntry_whole (v := s.rget rt) hr hn
  have happend : g.append m (storeEntry s x n (s.rget rt)) = g' := by
    rw [hg', hl]; unfold Gather.append; rw [hlen]; rfl
  have hnext : gatherNext s s.ext.gather (storeEntry s x n (s.rget rt)) = gathering s g' := by
    rw [hg, gatherNext_append ⟨haccel, hwhole⟩ huc.symm hm, happend]
  have hp : ¬ (x.ca = 7#3 ∧ (n == 4 || n == 8) = true ∧ unpaired s.ext.gather n x.uc = true) := by
    rw [hg, unpaired_iff]; tauto
  have hbase : g'.base = g.base ∧ g'.mode = m := by rw [hg']; exact ⟨rfl, rfl⟩
  refine ⟨fun hinc => ?kept, fun bytes hfull hbytes hlength hram => ?written⟩
  case kept =>
    exact (h.buffers hr.buffered ha hwf hp (hnext.trans (if_neg hinc)) rfl (by simp) rfl (by simp [storesToRam])).imp
      fun t ht => afterGather_of_flush ht.1 (ht.2 rfl)
  case written =>
    have height : bytes.length = 8 * (g'.n / 8) := by
      rw [hlength, hfull]
      obtain e | e := blkLog_cases s.hw <;> rw [e] <;> rfl
    have hstored := bytesOfDwords_dwordsOfBytes s.bigEndianMem _ bytes height
    rw [← hbase.2]
    refine (h.buffers hr.buffered ha hwf hp (hnext.trans (if_pos hfull)) rfl (by simp [BusReq.isDataResponse])
      (ws := [(g'.base, bytes)]) ?_ ?_).imp fun t ht => afterBlockGather_of_flush (hbytes ▸ ht.1)
    · simp [BusReq.stores, ← hbytes, hstored]
    · simpa [storesToRam, hlength, hbase.1] using hram

/-- A store that flushes the gathering and leaves behind it. -/
theorem AlignedStore.flushes_single {l : List Byte} {accel : Bool} {cause : BitVec 2} (h : AlignedStore s i rt va n)
    (hb : BufferedRef s va .store x) (ha : va.toNat % n = 0) (hwf : s.mem.wf = true)
    (hp : ¬ (x.ca = 7#3 ∧ (n == 4 || n == 8) = true ∧ unpaired s.ext.gather n x.uc = true))
    (hnext : gatherNext s s.ext.gather (storeEntry s x n (s.rget rt)) =
      (none, flushedEntry (some g) ++ [[.dspWrite accel x.pa l x.uc cause]]))
    (hram : storesToRam s g.stores) (hone : storesToRam s [(x.pa, l)]) :
    storeCompletes i (afterFlush x.pa .store (g.stores ++ [(x.pa, l)])
      (flushedWrites g ++ [.dspWrite accel x.pa l x.uc cause]) none) s := by
  have hresp : ∀ r ∈ flushedWrites g ++ [BusReq.dspWrite accel x.pa l x.uc cause], r.isDataResponse = false := by
    intro r hr
    obtain hr | hr := List.mem_append.1 hr
    · exact flushedWrites_noResponse hr
    · rw [List.mem_singleton.1 hr]; rfl
  have hws : (flushedWrites g ++ [BusReq.dspWrite accel x.pa l x.uc cause]).map (BusReq.stores s.bigEndianMem) =
      g.stores ++ [(x.pa, l)] := by
    rw [List.map_append, flushedWrites_stores]; rfl
  exact (h.buffers hb ha hwf hp hnext (flushedEntry_flatten g _) hresp hws fun w hw =>
    (List.mem_append.1 hw).elim (hram w) (hone w)).imp fun t ht => ht.1

/-- A word or doubleword store that flushes the gathering begins one of its own if it is block-aligned, and else leaves behind
it. -/
theorem AlignedStore.flushes_accelerated {l : List Byte} (h : AlignedStore s i rt va n)
    (hr : AcceleratedRef s va x.pa x) (hn : n = 4 ∨ n = 8) (ha : va.toNat % n = 0) (hwf : s.mem.wf = true)
    (hl : l = (List.range n).map (orderedByte s.bigEndianCpu n (s.rget rt))) (hg : s.ext.gather = some g)
    (hram : storesToRam s g.stores) (hne : x.uc ≠ g.uc ∨ ¬ (g.mode = .sequential ∧ n = 8 ∧ g.n % 8 = 4) ∧
      (g.mode = .identical ∨ x.pa.toNat ≠ g.base.toNat + g.n) ∧ (g.mode = .sequential ∨ x.pa ≠ g.base)) :
    (x.pa.toNat % 2 ^ s.hw.blkLog = 0 → storeCompletes i (afterFlush x.pa .store g.stores (flushedWrites g) (some
        { base := x.pa, uc := x.uc, mode := .undetermined, n := n, stores := [(x.pa, l)] })) s) ∧
      (x.pa.toNat % 2 ^ s.hw.blkLog ≠ 0 → storesToRam s [(x.pa, l)] →
        storeCompletes i (afterFlush x.pa .store (g.stores ++ [(x.pa, l)])
          (flushedWrites g ++ [.dspWrite true x.pa l x.uc 2#2]) none) s) := by
  subst hl
  obtain ⟨haccel, hwhole, hlen⟩ := storeEntry_whole (v := s.rget rt) hr hn
  have hnext : gatherNext s s.ext.gather (storeEntry s x n (s.rget rt)) =
      afterFlushed (some g) (startGather s (storeEntry s x n (s.rget rt))) := by
    rw [hg, gatherNext_flush ⟨haccel, hwhole⟩ (hne.imp id And.right)]
  have hp : ¬ (x.ca = 7#3 ∧ (n == 4 || n == 8) = true ∧ unpaired s.ext.gather n x.uc = true) := by
    rw [hg, unpaired_iff]; tauto
  refine ⟨fun hpa => ?begins, fun hpa hone => ?single⟩
  case begins =>
    have hstart := startGather_aligned (s := s) (u := storeEntry s x n (s.rget rt)) hpa (by omega)
    rw [hlen] at hstart
    refine (h.buffers hr.buffered ha hwf hp (hnext.trans (congrArg (afterFlushed (some g)) hstart))
      ((flushedEntry_flatten g []).trans (List.append_nil _)) (fun r => flushedWrites_noResponse) (flushedWrites_stores _ g) hram).imp
      fun t ht => ht.1
  case single =>
    have hnext' : gatherNext s s.ext.gather (storeEntry s x n (s.rget rt)) = (none, flushedEntry (some g) ++
        [[.dspWrite true x.pa ((List.range n).map (orderedByte s.bigEndianCpu n (s.rget rt))) x.uc 2#2]]) :=
      hnext.trans (congrArg (afterFlushed (some g)) (startGather_unaligned hpa))
    exact h.flushes_single hr.buffered ha hwf hp hnext' hram hone

end Accelerated

/-! ## What an ordinary reference makes of the gathering -/

section Flush

variable {s : State} {va : DWord} {x : Xlate} {n : Nat} {i : Instr} {rt : RegNum} {g : Gather}

/-- A store that is not gathered flushes the gathering and leaves behind it. -/
theorem AlignedStore.flushes_plain {l : List Byte} (h : AlignedStore s i rt va n) (hr : FlushRef s va x.pa .store x g)
    (ha : va.toNat % n = 0) (hwf : s.mem.wf = true) (hl : l = (List.range n).map (orderedByte s.bigEndianCpu n (s.rget rt)))
    (hplain : x.ca = 2#3 ∨ n < 4) (hone : storesToRam s [(x.pa, l)]) :
    storeCompletes i (afterFlush x.pa .store (g.stores ++ [(x.pa, l)])
      (flushedWrites g ++ [.dspWrite (x.ca == 7#3) x.pa l x.uc 1#2]) none) s := by
  have hkind : ¬ (x.ca = 7#3 ∧ (n == 4 || n == 8) = true) := by
    rintro ⟨hca, hwhole⟩
    obtain e | e := hplain
    · exact absurd (e.symm.trans hca) (by decide)
    · simp only [Bool.or_eq_true, beq_iff_eq] at hwhole; omega
  refine h.flushes_single hr.buffered ha hwf (fun hp => hkind ⟨hp.1, hp.2.1⟩) ?_ hr.ram hone
  rw [hr.gathering, hl]
  exact gatherNext_plain fun hp => hkind ⟨by simpa [storeEntry] using hp.1, hp.2⟩

/-- With no request waiting but in the gatherer, what is ready there leaves. -/
theorem drain_ready {t : State} (issued : t.ext.outgoing = []) (queued : t.ext.fifo = []) (writes : t.ext.writesHeld = false)
    (external : t.ext.cluster = []) :
    drain t = issueAll t.ext.gathered.flatten { t with ext := { t.ext with gathered := [] } } := by
  have hfifo : ({ t with ext := { t.ext with fifo := [] } } : State) = t := by rw [← queued]
  unfold drain
  dsimp only
  rw [drainOutgoing_idle issued]
  conv_lhs => rw [queued, hfifo]
  exact issueGathered_free writes external

/-- A gathering in progress leaves as its single writes, oldest first. -/
theorem flushGather_gathering (hf : s.busFree) (hg : s.ext.gather = some g) :
    flushGather s = issueAll (flushedWrites g) { s with ext := { s.ext with gather := none } } := by
  unfold flushGather
  dsimp only
  rw [drain_free hf, if_pos hf.queued, hg, hf.gathered]
  refine (drain_ready (t := { s with ext := { s.ext with gather := none, gathered := [] ++ flushedEntry (some g) } })
    hf.issued hf.queued hf.writes hf.external).trans ?_
  refine congrArg₂ issueAll ((flushedEntry_flatten g []).trans (List.append_nil _)) ?_
  rw [← hf.gathered]

/-- A load that flushes the gathering reads what its stores left in memory. -/
theorem memRead_flushes {b : Nat → Byte} (hn : 0 < n) (hr : FlushRef s va x.pa .load x g) (ha : va.toNat % n = 0)
    (hwf : s.mem.wf = true) (hreply : s.ext.replies = []) (hram : ∀ a, x.pa.toNat ≤ a → a < x.pa.toNat + n → s.physAt a = .ram)
    (hb : ∀ k, b k = lastStored g.stores (x.pa.toNat + k) (Memory.read s.mem (x.pa.toNat + k))) :
    ∃ m, memRead va n s = .ok (BitVec.ofNat 64 (orderedValue s.bigEndianCpu n b))
        (breakLl (latchWatch (watchMatch s x.pa .load) { s with mem := m, ext := { s.ext with
          gather := none, bus := (flushedWrites g ++ [BusReq.dspRead 0#3 x.pa n x.uc 1#2]).reverse ++ s.ext.bus } })) ∧
      ∀ a, m.read a = lastStored g.stores a (s.mem.read a) := by
  obtain ⟨m, hall, -, hread⟩ := issueAll_ram (flushedWrites g) (s := { s with ext := { s.ext with gather := none } }) hwf
    (fun r => flushedWrites_noResponse) (by rw [flushedWrites_stores]; exact hr.ram)
  rw [flushedWrites_stores] at hread
  have hf : State.busFree { s with mem := m, ext := { s.ext with
      gather := none, bus := (flushedWrites g).reverse ++ s.ext.bus } } :=
    ⟨hr.free.issued, hr.free.queued, hr.free.gathered, hr.free.answered, hr.free.external, hr.free.used, hr.free.reads,
      hr.free.writes⟩
  have hvalue := valueOfBytes_readBytes s.bigEndianCpu (Memory.read m) x.pa.toNat n
  rw [show (fun k => Memory.read m (x.pa.toNat + k)) = b from funext fun k => by rw [hread, hb]] at hvalue
  refine ⟨m, ?_, hread⟩
  unfold memRead
  rw [dataTranslate_ok ha hr.translated, Res.bind_ok]
  unfold readAt
  simp only [watch_off hr.postponed, hr.buffered.uncached, Bool.false_eq_true, if_false, if_true]
  rw [flushGather_gathering hr.free hr.gathering, hall, uncachedRead_ram hn hf hreply hram, Res.bind_ok, Res.bind_ok]
  rw [← hvalue, List.reverse_append]
  cases watchMatch s x.pa .load <;> rfl

/-- A Watch match does not look at memory. -/
theorem watched_mem (s : State) (m : Memory) (pa : PAddr) (k : AccessKind) :
    State.watched { s with mem := m } pa k = { s.watched pa k with mem := m } := by
  unfold State.watched
  rw [show watchMatch { s with mem := m } pa k = watchMatch s pa k from rfl]
  unfold latchWatch; split <;> rfl

/-- What a load leaves that flushed the gathering, `m` memory and `e` the boundary then. -/
theorem load_buffered (s : State) (m : Memory) (e : Ext) (pa : PAddr) (rt : RegNum) (v : DWord) (t : State)
    (ht : t = advance ((breakLl (latchWatch (watchMatch s pa .load) { s with mem := m, ext := e })).rset rt v)) :
    gprBecomes rt v s t ∧ fprSame s t ∧ sameBesidesMemory (s.watched pa .load) t ∧ t.llbit = false ∧ t.llblock = s.llblock ∧
      t.caches = s.caches ∧ t.mem = m ∧ t.ext = e := by
  subst ht
  obtain ⟨hg, hp, hlb, hsame, hl, hc, hm, he⟩ := load_watched (s := { s with mem := m }) (pa := pa) (rt := rt) (v := v)
    (link := false) (u := breakLl (latchWatch (watchMatch s pa .load) { s with mem := m, ext := e })) (by
      rw [watched_mem]; unfold State.watched latchWatch; split <;> rfl)
  rw [watched_mem] at hsame
  refine ⟨hg, hp, hsame, hl, hlb.trans ?_, hc.trans ?_, hm, he.trans ?_⟩ <;> (rw [latchWatch_frame]; rfl)

/-- A load that flushes the gathering. -/
theorem AlignedLoad.flushes {f : DWord → DWord} {b : Nat → Byte} {v : DWord} (h : AlignedLoad s i rt va n f)
    (hr : FlushRef s va x.pa .load x g) (ha : va.toNat % n = 0) (hwf : s.mem.wf = true) (hreply : s.ext.replies = [])
    (hram : ∀ a, x.pa.toNat ≤ a → a < x.pa.toNat + n → s.physAt a = .ram)
    (hb : ∀ k, b k = lastStored g.stores (x.pa.toNat + k) (Memory.read s.mem (x.pa.toNat + k)))
    (hv : f (BitVec.ofNat 64 (orderedValue s.bigEndianCpu n b)) = v) :
    loadCompletes i rt v (afterFlush x.pa .load g.stores (flushedWrites g ++ [.dspRead 0#3 x.pa n x.uc 1#2]) none) s := by
  obtain ⟨m, hmem, hread⟩ := memRead_flushes h.pos hr ha hwf hreply hram hb
  have hexec := h.ends hmem
  rw [hv] at hexec
  obtain ⟨hg, hp, hsame, hl, hlb, hc, hm, he⟩ := load_buffered s m _ x.pa rt v _ rfl
  exact ⟨_, hexec, hg, hp, hlb, hsame, hl, hlb, hc, fun a => by rw [hm]; exact hread a, he⟩

end Flush

/-- Settles O36: the plain stores by their target; the accelerated ones by what `gatherNext` makes of the gathering; the
references that flush it by `flushes_plain` and `AlignedLoad.flushes`. -/
theorem storeUncached : Obligations.StoreUncached := by
  unfold Obligations.StoreUncached
  intro s base rt offset x va hwf hva
  refine ⟨fun n i hi h ha => ?plain, fun h3 h ha => ?sd, fun h3 => traps_of_exc rfl (Res.bind_of_exc (needMips3_off h3)),
    fun n i hi ha ht hc hm hl => ?watch, fun n i l hi ha hr hl => ⟨fun hg => ⟨fun hpa hram => ?single, fun hpa => ?begins⟩,
      fun g m g' hg huc => ⟨fun hmode hn8 hodd => ?unpaired, fun hpair hm hg' => ?gathers⟩, fun g hg hram hne => ?flushes⟩,
    fun n i hi ha g l hr hl hplain hone => ?flushesPlain, fun g b n i v hb hi ha hr hreply hram => ?flushesLoad⟩
  case plain => exact (AlignedStore.of_mem hva (.inl hi)).completes ha (.inl ⟨hwf, h, rfl⟩)
  case sd => exact (AlignedStore.of_mem hva (.inr ⟨h3, rfl⟩)).completes ha (.inl ⟨hwf, h, rfl⟩)
  case watch => exact (AlignedStore.of_mem hva hi).watch ha ht (.inl (isUncached_iff.2 hc)) hm hl
  case flushesPlain => exact (AlignedStore.of_mem hva hi).flushes_plain hr ha hwf hl hplain hone
  case flushesLoad =>
    obtain ⟨f, hload, hv⟩ := AlignedLoad.of_value hva hi
    exact hload.flushes hr ha hwf hreply hram hb hv
  all_goals
    have hn : n = 4 ∨ n = 8 := by simp only [Prod.mk.injEq] at hi; tauto
    have hstore : AlignedStore s i rt va n := .of_mem hva (hi.imp (fun h => by simp [h]) id)
  case single => exact hstore.single hr hn ha hwf hg hpa hram
  case begins => exact hstore.begins hr hn ha hwf hl hg hpa
  case unpaired => exact hstore.refused hr hn8 ha hg huc hmode hodd
  case gathers => exact hstore.gathers hr hn ha hwf hl hg huc hpair hm hg'
  case flushes => exact hstore.flushes_accelerated hr hn ha hwf hl hg hram hne

end Sys2Proof.Machine
end

section
/-! PROOFS. The family `43_branch_jump.md`: jumps (O13), ordinary branches (O14), likely branches (O15), control transfers in a
delay slot (O17) and the step that runs the fetched instruction (O24).  A branch is `condOp` of its condition, and the step is
`endRun` of the decoded instruction; what its end leaves is read off `Served.concluded` and `tick`. -/

namespace Sys2Proof.Machine

/-! ## Targets (R631) -/

/-- The shifted offset as the integer 4 * offset. -/
theorem State.branchTarget_eq (s : State) (offset : BitVec 16) :
    s.branchTarget offset = s.pc + 4#64 + BitVec.ofInt 64 (4 * offset.toInt) := by
  have hshift : sext64 offset <<< 2 = BitVec.ofInt 64 (4 * offset.toInt) := by
    rw [BitVec.shiftLeft_eq_mul_twoPow, BitVec.ofInt_mul, BitVec.mul_comm]
    rfl
  unfold State.branchTarget
  rw [hshift]

/-! ## Conditions (R642 to R645) -/

theorem isLez_iff {v : DWord} : isLez v = true ↔ v.toInt ≤ 0 := BitVec.sle_iff_toInt_le

theorem isGtz_iff {v : DWord} : isGtz v = true ↔ 0 < v.toInt := by
  unfold isGtz
  rw [Bool.not_eq_true', ← Bool.not_eq_true, BitVec.sle_iff_toInt_le]
  exact not_le

theorem isLtz_iff {v : DWord} : isLtz v = true ↔ v.toInt < 0 := BitVec.slt_iff_toInt_lt

theorem isGez_iff {v : DWord} : isGez v = true ↔ 0 ≤ v.toInt := by
  unfold isGez
  rw [Bool.not_eq_true', ← Bool.not_eq_true, BitVec.slt_iff_toInt_lt]
  exact not_lt

/-! ## Jumps and branches outside a delay slot -/

section Transfers

variable {i : Instr} {target : DWord} {link : Option RegNum} {taken : Bool} {c : Prop} {offset : BitVec 16} {s : State}

theorem jumpOp_completes (h : s.delaySlot = none) (he : exec i s = jumpOp target link s) :
    completesBranch i target (linkReg link) s :=
  completesBranch_of (he.trans (jumpOp_eq h))

/-- A likely branch follows its condition, and nullifies its delay slot where that fails (R633). -/
theorem condOp_likely_completes (h : s.delaySlot = none) (he : exec i s = condOp true taken link offset s)
    (hc : taken = true ↔ c) :
    (c → completesBranch i (s.branchTarget offset) (linkReg link) s) ∧ (¬ c → completesNullified i (linkReg link) s) := by
  refine ⟨fun htaken => completesBranch_of ?_, fun huntaken => completesNullified_of ?_⟩
  · rw [he, hc.2 htaken, condOp_taken h]
  · rw [he, Bool.eq_false_iff.2 (mt hc.1 huntaken), condOp_nullified h]

end Transfers

/-- Settles O13: each jump is `jumpOp` of its target and its link register. -/
theorem jumps : Obligations.Jumps := by
  unfold Obligations.Jumps
  intro s target rs rd hslot
  exact ⟨⟨rfl, jumpOp_completes (link := none) hslot rfl⟩, ⟨rfl, jumpOp_completes (link := some 31#5) hslot rfl⟩,
    ⟨rfl, jumpOp_completes (link := none) hslot rfl⟩, ⟨rfl, jumpOp_completes (link := some rd) hslot rfl⟩⟩

/-- Settles O14: each branch is `condOp` of its condition, on the target of `State.branchTarget_eq`. -/
theorem branches : Obligations.Branches := by
  unfold Obligations.Branches
  intro s rs rt offset hslot T hT
  obtain rfl : T = s.branchTarget offset := hT.trans (s.branchTarget_eq offset).symm
  exact ⟨⟨rfl, condOp_completes (link := none) hslot rfl beq_iff_eq⟩,
    ⟨rfl, condOp_completes (link := none) hslot rfl bne_iff_ne⟩,
    ⟨rfl, condOp_completes (link := none) hslot rfl isLez_iff⟩,
    ⟨rfl, condOp_completes (link := none) hslot rfl isGtz_iff⟩,
    ⟨rfl, condOp_completes (link := none) hslot rfl isLtz_iff⟩,
    ⟨rfl, condOp_completes (link := none) hslot rfl isGez_iff⟩,
    ⟨rfl, condOp_completes (link := some 31#5) hslot rfl isLtz_iff⟩,
    ⟨rfl, condOp_completes (link := some 31#5) hslot rfl isGez_iff⟩⟩

/-- Settles O15: as O14, by `condOp_likely_completes`. -/
theorem likelyBranches : Obligations.LikelyBranches := by
  unfold Obligations.LikelyBranches
  intro s rs rt offset hslot T hT
  obtain rfl : T = s.branchTarget offset := hT.trans (s.branchTarget_eq offset).symm
  obtain ⟨hbnelTaken, hbnelNullified⟩ := condOp_likely_completes (i := .bnel rs rt offset) (link := none) hslot rfl bne_iff_ne
  exact ⟨⟨rfl, condOp_likely_completes (link := none) hslot rfl beq_iff_eq⟩,
    ⟨rfl, hbnelTaken, fun heq => hbnelNullified (not_not.2 heq)⟩,
    ⟨rfl, condOp_likely_completes (link := none) hslot rfl isLez_iff⟩,
    ⟨rfl, condOp_likely_completes (link := none) hslot rfl isGtz_iff⟩,
    ⟨rfl, condOp_likely_completes (link := none) hslot rfl isLtz_iff⟩,
    ⟨rfl, condOp_likely_completes (link := none) hslot rfl isGez_iff⟩,
    ⟨rfl, condOp_likely_completes (link := some 31#5) hslot rfl isLtz_iff⟩,
    ⟨rfl, condOp_likely_completes (link := some 31#5) hslot rfl isGez_iff⟩⟩

/-! ## Control transfers in a delay slot (R632) -/

theorem jumpOp_refused {s : State} (hslot : s.delaySlot ≠ none) {i : Instr} {target : DWord} (link : Option RegNum)
    (he : exec i s = jumpOp target link s) : exec i s = .refused .branchInDelaySlot :=
  he.trans ((branchInSlot hslot).1 target link)

theorem condOp_refused {s : State} (hslot : s.delaySlot ≠ none) {i : Instr} {likely taken : Bool} {offset : BitVec 16}
    (link : Option RegNum) (he : exec i s = condOp likely taken link offset s) : exec i s = .refused .branchInDelaySlot :=
  he.trans ((branchInSlot hslot).2 likely taken link offset)

/-- A floating-point branch that may run is refused in a delay slot. -/
theorem fpBranchOp_inSlot {cc : BitVec 3} {s : State} (hslot : s.delaySlot ≠ none) (hcp1 : s.cp1Usable = true)
    (hcc : cc = 0#3 ∨ s.mips4 = true) (likely want : Bool) (offset : BitVec 16) :
    fpBranchOp likely want cc offset s = .refused .branchInDelaySlot := by
  have hgate : ¬ (cc ≠ 0#3 ∧ s.mips4 = false) := by
    rintro ⟨hne, hoff⟩
    exact hcc.elim hne (by simp [hoff])
  unfold fpBranchOp
  rw [needCp1_on hcp1, Res.bind_ok, if_neg hgate, notInSlot_refused hslot]
  rfl

/-- ERET that may run is refused in a delay slot. -/
theorem execEret_inSlot {s : State} (hslot : s.delaySlot ≠ none) (hcp0 : s.cp0Usable = true) :
    execEret s = .refused .branchInDelaySlot := by
  unfold execEret
  rw [needCp0_on hcp0, Res.bind_ok, if_pos (Option.isSome_iff_ne_none.2 hslot), Res.finishAt_refuse]

/-- Settles O17: `branchInSlot` for the jumps and the branches on general registers, the other forms behind their gates. -/
theorem branchInDelaySlot : Obligations.BranchInDelaySlot := by
  unfold Obligations.BranchInDelaySlot
  intro s rs rt rd target offset cc hslot
  simp only [List.forall_mem_cons, List.not_mem_nil, false_imp_iff, implies_true, and_true]
  refine ⟨?general, fun hcp1 hcc => ?fp, execEret_inSlot hslot⟩
  case general =>
    have jump := @jumpOp_refused s hslot
    have cond := @condOp_refused s hslot
    exact ⟨jump none rfl, jump (some 31#5) rfl, jump none rfl, jump (some rd) rfl,
      cond none rfl, cond none rfl, cond none rfl, cond none rfl, cond none rfl, cond none rfl, cond (some 31#5) rfl,
      cond (some 31#5) rfl, cond none rfl, cond none rfl, cond none rfl, cond none rfl, cond none rfl, cond none rfl,
      cond (some 31#5) rfl, cond (some 31#5) rfl⟩
  case fp =>
    have hfp := fpBranchOp_inSlot hslot hcp1 hcc
    exact ⟨hfp _ _ _, hfp _ _ _, hfp _ _ _, hfp _ _ _⟩

/-! ## Count and the timer latch (R97, R98) -/

/-- A counter reaches `b` from `a` within `d` ticks exactly when the gap between them, a whole turn if they are equal, is at
most `d`. -/
theorem reaches_iff {n : Nat} (a b : BitVec n) (d : Nat) :
    (if (b - a).toNat = 0 then 2 ^ n else (b - a).toNat) ≤ d ↔ ∃ k, 0 < k ∧ k ≤ d ∧ a + BitVec.ofNat n k = b := by
  have hreach (k : Nat) : a + BitVec.ofNat n k = b ↔ k % 2 ^ n = (b - a).toNat := by
    rw [BitVec.add_comm, ← BitVec.eq_sub_iff_add_eq, ← BitVec.toNat_inj, BitVec.toNat_ofNat]
  simp only [hreach]
  generalize hg : (b - a).toNat = g
  have hlt : g < 2 ^ n := hg ▸ (b - a).isLt
  constructor
  · intro h
    refine ⟨_, ?pos, h, ?lands⟩ <;> split
    case pos.isTrue => positivity
    case pos.isFalse hne => exact Nat.pos_of_ne_zero hne
    case lands.isTrue heq => rw [Nat.mod_self, heq]
    case lands.isFalse => exact Nat.mod_eq_of_lt hlt
  · rintro ⟨k, hpos, hkd, rfl⟩
    refine le_trans ?_ hkd
    split
    · next h => exact Nat.le_of_dvd hpos (Nat.dvd_of_mod_eq_zero h)
    · exact Nat.mod_le _ _

theorem tickCount_timerLatch (d : Nat) (c : Cp0) :
    (tickCount d c).timerLatch = true ↔
      c.timerLatch = true ∨ ∃ k, 0 < k ∧ k ≤ d ∧ c.count + BitVec.ofNat 32 k = c.compare := by
  rw [← reaches_iff, ← decide_eq_true_iff (p := _ ≤ d), ← Bool.or_eq_true]
  rfl

/-! ## The performance counters (R173, R176) -/

theorem addCounter_same (p : Perf) (n : Fin 4) (d : Nat) :
    (addCounter p n d).cnt.get n = p.cnt.get n + BitVec.ofNat 32 d := by
  unfold addCounter
  split
  · next h => simp [h]
  · exact Vector.getElem_set_self _

theorem addCounter_other (p : Perf) {n m : Fin 4} (h : n ≠ m) (d : Nat) : (addCounter p n d).cnt.get m = p.cnt.get m := by
  unfold addCounter
  split
  · rfl
  · exact Vector.getElem_set_ne n.isLt m.isLt (Fin.val_ne_of_ne h)

/-- On the R10000 counter 0 takes its own increment. -/
theorem tickPerf_counter0 {s : State} (h : s.hw.variant = .r10000) (r : StepRecord) (p : Perf) :
    (tickPerf s r p).cnt.get 0 = p.cnt.get 0 + BitVec.ofNat 32 (perfInc s r 0) := by
  have h10k : s.isR12k = false := by simp [State.isR12k, h]
  unfold tickPerf
  rw [if_neg (by simp [h10k]), addCounter_other _ (by decide), addCounter_other _ (by decide),
    addCounter_other _ (by decide), addCounter_same]

/-- Event 15 of counter 0 of the R10000: the instructions that graduate in an enabled mode. -/
theorem perfInc_graduated {s : State} (h : s.hw.variant = .r10000) (r : StepRecord)
    (he : (s.cp0.perf.ctl.get 0).extractLsb' 5 4 = 15#4) :
    perfInc s r 0 = if countEnabled s.cp0.status (s.cp0.perf.ctl.get 0) = true then r.count else 0 := by
  have h10k : s.isR12k = false := by simp [State.isR12k, h]
  unfold perfInc
  dsimp only
  rw [h10k, he]
  cases countEnabled s.cp0.status (s.cp0.perf.ctl.get 0) <;> rfl

/-- A mode is enabled by its bit of the control, and ERL disables all (R173). -/
theorem countEnabled_iff (s : State) (ctl : Word) :
    countEnabled s.cp0.status ctl = true ↔ s.statusBit 2 = false ∧
      (ctl.getLsbD 3 = true ∧ s.cp0.status.extractLsb' 3 2 = 2#2 ∧ s.statusBit 1 = false ∨
        ctl.getLsbD 2 = true ∧ s.cp0.status.extractLsb' 3 2 = 1#2 ∧ s.statusBit 1 = false ∨
        ctl.getLsbD 1 = true ∧ s.cp0.status.extractLsb' 3 2 = 0#2 ∧ s.statusBit 1 = false ∨
        ctl.getLsbD 0 = true ∧ s.statusBit 1 = true) := by
  unfold countEnabled State.statusBit
  simp only [Bool.and_eq_true, Bool.or_eq_true, Bool.not_eq_true', beq_iff_eq, and_assoc, or_assoc]

/-- A multiply or divide that graduates counts as two instructions. -/
theorem stepRecord_count {pre post : State} (i : Instr) (h : post.note = .done) :
    (stepRecord pre post (some i)).count = if perfClass i = .mulDiv then 2 else 1 := by
  have hg : (stepRecord pre post (some i)).graduated = some (perfClass i) := by
    unfold stepRecord; rw [h]; rfl
  unfold StepRecord.count
  rw [hg]
  cases perfClass i <;> rfl

/-! ## The end of the step -/

/-- A quiet state ends its step with the outcome of the instruction that it fetches. -/
theorem step_decoded {s t : State} {w : Word} {i : Instr} (q : s.quiet)
    (hf : fetchWord { s.fresh with ext := { s.fresh.ext with intWait := 0 } } = .ok w t) (hd : decode w = .ok i) :
    step s = endRun s.fresh (some i) (exec i t) := by
  rw [step_quiet q, runInstr_ok hf]
  unfold runWord
  rw [hd]

/-- With nothing pending the end of a processor step changes no memory, no cache and no link, and of the boundary only what
an instruction that waits no longer leaves. -/
theorem concluded_settled {u : State} (h : u.settledBus) :
    (concluded u).mem = u.mem ∧ (concluded u).caches = u.caches ∧ (concluded u).llbit = u.llbit ∧
      (u.note = .waiting → (concluded u).ext = u.ext) ∧ (u.note ≠ .waiting → (concluded u).ext = u.released.ext) := by
  rw [concluded_idle h]
  split
  · next hw => exact ⟨rfl, rfl, rfl, fun _ => rfl, fun hn => absurd hw hn⟩
  · next hn => exact ⟨rfl, rfl, rfl, fun hw => absurd hw hn, fun _ => rfl⟩

section Tick

variable {u x : State} (h : Served u x) (pre : State) (i : Option Instr)
include h

/-- Of CP0 the end of a step changes only Count, the timer latch, the performance registers and the record of a delay slot. -/
theorem Served.tick_cp0 :
    (tick pre i x).cp0 = { u.cp0 with
      count := (tick pre i x).cp0.count, timerLatch := (tick pre i x).cp0.timerLatch, perf := (tick pre i x).cp0.perf,
      diag := { u.cp0.diag with inSlot := (tick pre i x).cp0.diag.inSlot } } :=
  congrArg (fun c : Cp0 => { c with
    count := (tick pre i x).cp0.count, timerLatch := (tick pre i x).cp0.timerLatch, perf := (tick pre i x).cp0.perf,
    diag := { c.diag with inSlot := (tick pre i x).cp0.diag.inSlot } }) h.cp0_eq

theorem Served.tick_count : (tick pre i x).cp0.count = u.cp0.count + BitVec.ofNat 32 (Config.countStep pre.steps) :=
  (congrArg (fun c : Cp0 => c.count + BitVec.ofNat 32 (Config.countStep pre.steps)) h.cp0_eq :)

theorem Served.tick_timerLatch :
    (tick pre i x).cp0.timerLatch = true ↔ u.cp0.timerLatch = true ∨
      ∃ k, 0 < k ∧ k ≤ Config.countStep pre.steps ∧ u.cp0.count + BitVec.ofNat 32 k = u.cp0.compare := by
  have hlatch : (tick pre i x).cp0.timerLatch = (tickCount (Config.countStep pre.steps) u.cp0).timerLatch :=
    (congrArg (fun c => (tickCount (Config.countStep pre.steps) c).timerLatch) h.cp0_eq :)
  rw [hlatch, tickCount_timerLatch]

/-- Counter 0 of the R10000 with event 15, after an instruction that graduated. -/
theorem Served.tick_counter0 {j : Instr} (hv : pre.hw.variant = .r10000)
    (he : (pre.cp0.perf.ctl.get 0).extractLsb' 5 4 = 15#4) (hn : u.note = .done) :
    (tick pre (some j) x).cp0.perf.cnt.get 0 = u.cp0.perf.cnt.get 0 +
      if countEnabled pre.cp0.status (pre.cp0.perf.ctl.get 0) = true
        then (if perfClass j = .mulDiv then 2#32 else 1#32) else 0#32 := by
  have htick : (tick pre (some j) x).cp0.perf = tickPerf pre (stepRecord pre x (some j)) x.cp0.perf := rfl
  rw [htick, tickPerf_counter0 hv, perfInc_graduated hv _ he, stepRecord_count j (h.kept.note.trans hn), h.counters.1,
    apply_ite (BitVec.ofNat 32), apply_ite (BitVec.ofNat 32)]

end Tick

/-- Settles O24: the step is `endRun` of the instruction (`step_decoded`); what the end of the step leaves by
`Served.concluded`, `concluded_settled` and the lemmas about `tick`; what the fetch leaves by `Res.Kept.fetchWord`. -/
theorem stepRunsDecoded : Obligations.StepRunsDecoded := by
  unfold Obligations.StepRunsDecoded
  intro s p t w i hq hp hf hd
  subst hp
  have hstep := step_decoded hq hf hd
  have hfetch : Kept s.fresh t := by
    have h := Res.Kept.fetchWord { s.fresh with ext := { s.fresh.ext with intWait := 0 } }
    rw [hf] at h
    exact (Kept.ext s.fresh _).trans h
  refine ⟨fun u x hu hx => ⟨?next, fun v d hv hd' => ?state⟩, fun f hx => ?fault, fun r hx => ?refused, ?fetched⟩
  case next => subst hx; rw [hstep, hu]; rfl
  case fault => rw [hstep, hx]; rfl
  case refused => rw [hstep, hx]; rfl
  case fetched =>
    exact ⟨hfetch.gpr, hfetch.hi, hfetch.lo, hfetch.pc, hfetch.delaySlot, hfetch.llbit, hfetch.llblock, hfetch.fpu,
      hfetch.tlb, hfetch.hw, hfetch.status⟩
  case state =>
    subst hv hd'
    have hserved : Served u x := hx ▸ Served.concluded u
    have hkept := hserved.kept
    refine ⟨hkept.gpr, hkept.hi, hkept.lo, hkept.pc, hkept.delaySlot, rfl, hkept.llblock, hkept.fpu, hkept.tlb, rfl, rfl, rfl,
      fun issued queued gathered probes agents => hx ▸ concluded_settled ⟨issued, queued, gathered, probes, agents⟩, hkept.hw,
      rfl, hserved.tick_cp0 s.fresh (some i), hserved.tick_count s.fresh (some i), hserved.tick_timerLatch s.fresh (some i),
      fun hv c hc he hn => ?_⟩
    subst hc
    exact (hserved.tick_counter0 s.fresh hv he hn).trans (congrArg _ (if_congr (countEnabled_iff s _) rfl rfl))

end Sys2Proof.Machine
end

section
/-! PROOFS. The family `44_trap_syscall.md`: the twelve conditional traps (O11) and the instructions that always raise (O12).  A
conditional trap is `trapOp` of its condition; the others raise, at most behind a usability bit of Status. -/

namespace Sys2Proof.Machine

/-! ## Conditional traps (R680) -/

section Conditions

variable {n : Nat} {a b : BitVec n}

/-- Signed "greater or equal" is decided as "not less" (R681, R687). -/
theorem not_slt_iff : (!a.slt b) = true ↔ a.toInt ≥ b.toInt := by
  rw [← BitVec.sle_eq_not_slt]
  exact BitVec.sle_iff_toInt_le

/-- Unsigned "greater or equal" is decided as "not less" (R682, R688). -/
theorem not_ult_iff : (!a.ult b) = true ↔ a.toNat ≥ b.toNat := by
  rw [← BitVec.ule_eq_not_ult]
  exact BitVec.ule_iff_toNat_le

end Conditions

/-- A conditional trap raises Trap when its condition holds, and changes nothing but the pc otherwise. -/
theorem trapOp_outcomes {i : Instr} {holds : Bool} {c : Prop} {s : State} (he : exec i s = trapOp holds s)
    (hc : holds = true ↔ c) : (c → traps i .trap s) ∧ (¬ c → completesIdle i s) := by
  refine ⟨fun h => traps_of_exc he (if_pos (hc.2 h)), fun h => completesIdle_of (he.trans (congrArg Res.finish ?_))⟩
  exact if_neg (mt hc.1 h)

/-- Settles O11: each trap is `trapOp` of its condition, which compares the operands as integers, as numbers or for equality. -/
theorem conditionalTraps : Obligations.ConditionalTraps := by
  unfold Obligations.ConditionalTraps
  intro s rs rt code imm
  have himm : (sext64 imm).toInt = imm.toInt := BitVec.toInt_signExtend_of_le (by decide)
  rw [← himm]
  obtain ⟨htne, htneIdle⟩ := trapOp_outcomes (i := .tne rs rt code) (s := s) rfl bne_iff_ne
  obtain ⟨htnei, htneiIdle⟩ := trapOp_outcomes (i := .tnei rs imm) (s := s) rfl bne_iff_ne
  exact ⟨⟨rfl, trapOp_outcomes rfl not_slt_iff⟩, ⟨rfl, trapOp_outcomes rfl not_ult_iff⟩,
    ⟨rfl, trapOp_outcomes rfl BitVec.slt_iff_toInt_lt⟩, ⟨rfl, trapOp_outcomes rfl BitVec.ult_iff_toNat_lt⟩,
    ⟨rfl, trapOp_outcomes rfl beq_iff_eq⟩, ⟨rfl, htne, fun heq => htneIdle (not_not.2 heq)⟩,
    ⟨rfl, trapOp_outcomes rfl not_slt_iff⟩, ⟨rfl, trapOp_outcomes rfl not_ult_iff⟩,
    ⟨rfl, trapOp_outcomes rfl BitVec.slt_iff_toInt_lt⟩, ⟨rfl, trapOp_outcomes rfl BitVec.ult_iff_toNat_lt⟩,
    ⟨rfl, trapOp_outcomes rfl beq_iff_eq⟩, ⟨rfl, htnei, fun heq => htneiIdle (not_not.2 heq)⟩⟩

/-! ## Instructions that always raise -/

/-- A coprocessor 2 instruction raises by CU2 alone (R409). -/
theorem cop2Op_outcomes {i : Instr} {s : State} (he : exec i s = cop2Op s) :
    (s.statusBit 30 = false → traps i (.copUnusable 2#2) s) ∧ (s.statusBit 30 = true → traps i .reservedInstr s) := by
  have hraise : traps i (if s.statusBit 30 then .reservedInstr else .copUnusable 2#2) s := traps_of he
  refine ⟨fun hu => ?unusable, fun hu => ?usable⟩ <;> rwa [hu] at hraise

/-- RFE, which the processor does not have, is reserved behind the gate of coprocessor 0 (R724, R710). -/
theorem rfe_outcomes (s : State) :
    (s.cp0Usable = false → traps .rfe (.copUnusable 0#2) s) ∧ (s.cp0Usable = true → traps .rfe .reservedInstr s) :=
  ⟨fun hu => traps_of_exc rfl (Res.bind_of_exc (needCp0_off hu)),
    fun hu => traps_of_exc rfl (Res.bind_of_open (needCp0_on hu) rfl)⟩

/-- Settles O12: SYSCALL and BREAK raise by their meaning, the coprocessor 2 instructions as `cop2Op_outcomes` says, and RFE as
`rfe_outcomes` says. -/
theorem alwaysTrapping : Obligations.AlwaysTrapping := by
  unfold Obligations.AlwaysTrapping
  intro s code cofun
  simp only [List.forall_mem_cons, List.not_mem_nil, false_imp_iff, implies_true, and_true]
  exact ⟨⟨rfl, traps_of rfl⟩, ⟨rfl, traps_of rfl⟩,
    ⟨cop2Op_outcomes rfl, cop2Op_outcomes rfl, cop2Op_outcomes rfl, cop2Op_outcomes rfl, cop2Op_outcomes rfl⟩, rfe_outcomes s⟩

end Sys2Proof.Machine
end

section
/-! PROOFS. The family `45_cp0_instructions.md`: the gate of coprocessor 0 (O46), the moves from and to it (O47, O48), TLBR and
TLBP (O49), ERET (O20), and the words of R725 (O22).  Behind the gate a move to CP0 is `cp0Write`, one field of `Cp0` for each
register; what takes more than unfolding it are the registers put together from parts, the Diagnostic register and the
performance registers. -/

namespace Sys2Proof.Machine

/-! ## The gate (R710) -/

theorem cp0Usable_iff (s : State) : s.cp0Usable = true ↔ s.mode = .kernel ∨ s.statusBit 28 = true := by
  unfold State.cp0Usable
  rw [Bool.or_eq_true, beq_iff_eq]

/-- ERET without access to coprocessor 0 raises before it looks at its delay slot. -/
theorem eret_unusable {s : State} (hc : s.cp0Usable = false) : traps .eret (.copUnusable 0#2) s :=
  congrArg Res.finishAt (Res.bind_of_exc (needCp0_off hc))

/-- Settles O46: every meaning of the family sequences its work behind `needCp0`, the doubleword moves behind `needMips3` too. -/
theorem cp0Gate : Obligations.Cp0Gate := by
  unfold Obligations.Cp0Gate
  intro s rt rd base op sel offset
  simp only [List.forall_mem_cons, List.not_mem_nil, false_imp_iff, implies_true, and_true]
  refine ⟨fun hc => ?unusable, fun hc h3 => ?noMips3, cp0Usable_iff s⟩
  case unusable =>
    have gate {α : Type} {f : Unit → State → Res α} : (needCp0 s).bind f = .exc (.copUnusable 0#2) s :=
      Res.bind_of_exc (needCp0_off hc)
    exact ⟨traps_of_gpr rfl gate, traps_of_gpr rfl gate, traps_of_exc rfl gate, traps_of_exc rfl gate, traps_of_exc rfl gate,
      traps_of_exc rfl gate, traps_of_exc rfl gate, traps_of_exc rfl gate, eret_unusable hc, (rfe_outcomes s).1 hc,
      traps_of_exc rfl gate⟩
  case noMips3 =>
    have gate {α : Type} {f : Unit → State → Res α} :
        ((needCp0 s).bind fun _ s => (needMips3 s).bind f) = .exc .reservedInstr s :=
      Res.bind_of_open (needCp0_on hc) (Res.bind_of_exc (needMips3_off h3))
    exact ⟨traps_of_gpr rfl gate, traps_of_exc rfl gate⟩

/-! ## The performance register that a move names (R171, R178) -/

theorem isR12k_iff (s : State) : s.isR12k = true ↔ s.hw.variant ≠ .r10000 := bne_iff_ne

/-- A choice by the variant, from the side of the R10000. -/
theorem ite_isR12k {α : Type} (s : State) (a b : α) : (if s.isR12k then a else b) = if s.hw.variant = .r10000 then b else a := by
  simp only [isR12k_iff, ne_eq, ite_not]

section PerfRegister

variable {s : State} {sel : BitVec 4} {n : Fin 4}

/-- The performance registers lie in pairs of a control and a counter; the R10000 looks at one bit of the pair's number. -/
theorem perfNumber_eq (hn : n.val = sel.toNat / 2) (hv : s.hw.variant = .r10000 → n.val < 2) : perfNumber s.isR12k sel = n := by
  have hlt := n.isLt
  apply Fin.ext
  unfold perfNumber
  rw [ite_isR12k]
  split
  case isTrue h =>
    have := hv h
    show ((sel.extractLsb' 1 1).setWidth 2).toNat = _
    rw [BitVec.toNat_setWidth, BitVec.extractLsb'_toNat, Nat.shiftRight_eq_div_pow]
    omega
  case isFalse =>
    show (sel.extractLsb' 1 2).toNat = _
    rw [BitVec.extractLsb'_toNat, Nat.shiftRight_eq_div_pow]
    omega

theorem perfCtlMask_eq (s : State) (n : Fin 4) : perfCtlMask s.isR12k n =
    if s.hw.variant = .r10000 then 0x1FF#32 else if n = 0 then 0x1FFFF#32 else if n = 3 then 0xFFFF#32 else 0x7FFF#32 := by
  rw [← ite_isR12k s]
  unfold perfCtlMask
  cases s.isR12k <;> rfl

/-- The syndrome shows in control 0 of the R12000A alone (R185). -/
theorem State.perfCtl_eq (s : State) (n : Fin 4) : s.perfCtl n = s.cp0.perf.ctl.get n |||
    (if s.hw.variant = .r12000A ∧ n = 0 then s.cp0.perf.syndrome.setWidth 32 <<< 23 else 0#32) := by
  unfold State.perfCtl
  split
  · rfl
  · rw [BitVec.or_zero]

theorem State.perfReg_control (hn : perfNumber s.isR12k sel = n) (hsel : sel.getLsbD 0 = false) :
    s.perfReg sel = sext64 (s.perfCtl n) := by
  unfold State.perfReg perfIsCounter
  rw [hsel, hn]
  rfl

theorem State.perfReg_counter (hn : perfNumber s.isR12k sel = n) (hsel : sel.getLsbD 0 = true) :
    s.perfReg sel = if n = 3 ∧ s.cp0.perf.cnt3Miss = true then s.cp0.perf.cnt3High ++ s.cp0.perf.cnt.get 3
      else sext64 (s.cp0.perf.cnt.get n) := by
  unfold State.perfReg perfIsCounter
  rw [hsel, hn]
  by_cases h3 : n = 3
  · rw [h3]; rfl
  · simp [h3]

/-- A number below 8 does not select the arming move (R184). -/
theorem not_arming (hn : n.val = sel.toNat / 2) : ¬ (s.isR12k = true ∧ sel.getLsbD 3 = true) := by
  have hlt := n.isLt
  have hmsb : sel.getLsbD 3 = decide (8 ≤ sel.toNat) := BitVec.msb_eq_decide sel
  rw [hmsb, decide_eq_true_eq]
  omega

theorem writePerf_control {w : Word} (hn : n.val = sel.toNat / 2) (hv : s.hw.variant = .r10000 → n.val < 2)
    (hsel : sel.getLsbD 0 = false) :
    writePerf s sel w = { s.cp0.perf with ctl := s.cp0.perf.ctl.set n (w &&& perfCtlMask s.isR12k n) } := by
  obtain rfl := perfNumber_eq hn hv
  unfold writePerf perfIsCounter
  dsimp only
  rw [if_neg (not_arming hn), hsel]
  rfl

theorem writePerf_counter {w : Word} (hn : n.val = sel.toNat / 2) (hv : s.hw.variant = .r10000 → n.val < 2)
    (hsel : sel.getLsbD 0 = true) :
    writePerf s sel w = { s.cp0.perf with
      cnt := s.cp0.perf.cnt.set n w, reload := if n = 1 then w.setWidth 16 else s.cp0.perf.reload,
      cnt3Miss := if n = 3 then false else s.cp0.perf.cnt3Miss } := by
  obtain rfl := perfNumber_eq hn hv
  unfold writePerf perfIsCounter
  dsimp only
  rw [if_neg (not_arming hn), hsel]
  rfl

/-- The miss-address value as the two halves that counter 3 keeps apart (R184). -/
theorem missValue_halves (pa : PAddr) :
    missValue pa = (0#12 ++ pa.extractLsb' 36 4 ++ 0#16 : Word) ++ (pa.extractLsb' 5 31 ++ 0#1 : Word) :=
  BitVec.append_assoc (x₁ := 0#12 ++ pa.extractLsb' 36 4 ++ 0#16) (x₂ := pa.extractLsb' 5 31) (x₃ := 0#1)

theorem writePerf_arming {w : Word} (hv : s.hw.variant ≠ .r10000) (hsel : 8 ≤ sel.toNat) :
    writePerf s sel w = { s.cp0.perf with
      cnt := s.cp0.perf.cnt.set 3 (s.cp0.perf.missAddr.extractLsb' 5 31 ++ 0#1), cnt3Miss := true,
      cnt3High := 0#12 ++ s.cp0.perf.missAddr.extractLsb' 36 4 ++ 0#16 } := by
  have hmsb : sel.getLsbD 3 = true := (BitVec.msb_eq_decide sel).trans (decide_eq_true hsel)
  unfold writePerf
  dsimp only
  rw [if_pos ⟨(isR12k_iff s).2 hv, hmsb⟩, missValue_halves, BitVec.setWidth_append_eq_right, BitVec.extractLsb'_append_eq_left]

end PerfRegister

/-! ## The Diagnostic register (R160 to R165) -/

section DiagFields

variable {n m : Nat} (v : BitVec n) {pos q : Nat}

theorem getLsbD_diagPut_other (h : q < pos ∨ pos + n ≤ q) : (diagPut v pos).getLsbD q = false := by
  unfold diagPut
  rw [BitVec.getLsbD_shiftLeft, BitVec.getLsbD_setWidth]
  obtain h | h := h
  · simp [h]
  · simp [BitVec.getLsbD_of_ge v (q - pos) (by omega)]

theorem getLsbD_diagPut_bit {b : Bool} (h : pos < 64) : (diagPut (BitVec.ofBool b) pos).getLsbD pos = b := by
  unfold diagPut
  simp [h]

/-- A value put at a place is read back there. -/
theorem extractLsb'_diagPut (h : pos + n ≤ 64) : (diagPut v pos).extractLsb' pos n = v := by
  unfold diagPut
  ext i hi
  have hi' : pos + i < 64 := by omega
  simp [hi', BitVec.getLsbD_eq_getElem hi]

/-- A value put at a place does not show elsewhere. -/
theorem extractLsb'_diagPut_other (h : q + m ≤ pos ∨ pos + n ≤ q) : (diagPut v pos).extractLsb' q m = 0#m := by
  ext i hi
  rw [BitVec.getElem_extractLsb', getLsbD_diagPut_other v (by omega), BitVec.getElem_zero]

end DiagFields

/-- The fields of the Diagnostic register that are as written lie apart, from each other and from the status fields. -/
theorem State.diagReg_fields {s : State} (hl : s.hw.diagLayout = defaultDiagLayout) :
    s.diagReg.extractLsb' 23 4 = s.cp0.diag.ghistory ∧ s.diagReg.getLsbD 27 = s.cp0.diag.btacDisable ∧
    s.diagReg.extractLsb' defaultDiagLayout.bpMode 2 = s.cp0.diag.bpMode ∧
    s.diagReg.getLsbD defaultDiagLayout.dbrc = s.cp0.diag.dbrc ∧
    s.diagReg.extractLsb' defaultDiagLayout.bpIdx 11 = s.cp0.diag.bpIdx ∧
    s.diagReg.extractLsb' defaultDiagLayout.bpOp 2 = s.cp0.diag.bpOp ∧
    (s.cp0.diag.bpOp ≠ 0#2 → s.cp0.diag.inSlot = false →
      s.diagReg.extractLsb' defaultDiagLayout.bpState 2 = s.cp0.diag.bpState) := by
  unfold State.diagReg
  rw [hl]
  dsimp only
  simp (disch := decide) only [BitVec.extractLsb'_or, BitVec.getLsbD_or, extractLsb'_diagPut, extractLsb'_diagPut_other,
    getLsbD_diagPut_bit, getLsbD_diagPut_other, BitVec.zero_or, BitVec.or_zero, Bool.false_or, Bool.or_false, true_and]
  intro hop hslot
  exact if_neg (by simp [hop, hslot])

/-- The fields that a move to the Diagnostic register writes, by the variant (R161, R162). -/
theorem diagOf_eq (s : State) (v : DWord) : diagOf s.hw s.isR12k v = {
    dbrc := v.getLsbD s.hw.diagLayout.dbrc, bpMode := v.extractLsb' s.hw.diagLayout.bpMode 2
    bpState := v.extractLsb' s.hw.diagLayout.bpState 2
    bpIdx := v.extractLsb' s.hw.diagLayout.bpIdx 11 &&& (if s.hw.variant = .r10000 then 0x1FF#11 else 0x7FF#11)
    bpOp := v.extractLsb' s.hw.diagLayout.bpOp 2, btacDisable := decide (s.hw.variant ≠ .r10000) && v.getLsbD 27
    ghistory := if s.hw.variant = .r10000 then 0#4 else v.extractLsb' 23 4, inSlot := false } := by
  have hdecide : decide (s.hw.variant ≠ .r10000) = s.isR12k := by
    simp only [← isR12k_iff, Bool.decide_eq_true]
  rw [hdecide, ← ite_isR12k, ← ite_isR12k]
  rfl

/-! ## Moves from coprocessor 0 (R713, R714) -/

/-- Random is never below Wired (R83). -/
theorem State.random_bounds (s : State) : s.cp0.wired.toNat ≤ s.random.toNat ∧ s.random.toNat ≤ 63 := by
  have hw := s.cp0.wired.isLt
  refine ⟨?_, Nat.le_of_lt_succ s.random.isLt⟩
  unfold State.random
  split
  · exact Nat.le_of_lt_succ hw
  · have := Nat.mod_lt (Config.randomPolicy s.steps) (show 0 < 64 - s.cp0.wired.toNat by omega)
    rw [BitVec.toNat_ofNat, Nat.mod_eq_of_lt (by omega)]
    exact Nat.le_add_right _ _

/-- A field of a word that is sign-extended. -/
theorem extractLsb'_sext64 (w : Word) {i n : Nat} (h : i + n ≤ 32) : (sext64 w).extractLsb' i n = w.extractLsb' i n := by
  ext j hj
  rw [BitVec.getElem_extractLsb', BitVec.getElem_extractLsb', BitVec.getLsbD_signExtend, if_pos (by omega),
    decide_eq_true (by omega), Bool.true_and]

/-- Settles O47: the moves answer `cp0Read`, which is a field of `Cp0` or a register that the lemmas above take apart. -/
theorem moveFromCp0 : Obligations.MoveFromCp0 := by
  unfold Obligations.MoveFromCp0
  intro s rt rd sel hc
  refine ⟨?mfc0, fun h3 => ?dmfc0, rfl, ?random, rfl, rfl, rfl, ?pageMask, BitVec.toNat_setWidth_of_le (by decide),
    rfl, rfl, rfl, rfl, rfl, rfl, rfl, rfl, (extractLsb'_sext64 _ (by decide)).trans s.configReg_sizes,
    (extractLsb'_sext64 _ (by decide)).trans s.configReg_modeBits, (extractLsb'_sext64 _ (by decide)).trans s.configReg_k0,
    rfl, rfl, rfl, rfl, BitVec.toNat_setWidth_of_le (by decide), BitVec.toNat_setWidth_of_le (by decide), rfl, rfl, rfl, rfl,
    fun n hn hv => ⟨fun hsel => ?control, fun hsel => ?counter⟩, ?diag⟩
  case mfc0 =>
    rw [← BitVec.setWidth_eq_extractLsb' (by decide)]
    exact completesGpr_of (congrArg (Res.finishGpr rt) (Res.bind_of_open (needCp0_on hc) rfl))
  case dmfc0 =>
    exact completesGpr_of
      (congrArg (Res.finishGpr rt) (Res.bind_of_open (needCp0_on hc) (Res.bind_of_open (needMips3_on h3) rfl)))
  case random =>
    have hread : (cp0Read s 1#5 sel).toNat = s.random.toNat := BitVec.toNat_setWidth_of_le (by decide)
    rw [hread]
    exact s.random_bounds
  case pageMask =>
    show (zext64 s.cp0.pageMask <<< 13).toNat = _
    have := s.cp0.pageMask.isLt
    rw [BitVec.toNat_shiftLeft, BitVec.toNat_setWidth_of_le (by decide), Nat.shiftLeft_eq, Nat.mod_eq_of_lt (by omega)]
  case control =>
    show s.perfReg sel = _
    rw [State.perfReg_control (perfNumber_eq hn hv) hsel, State.perfCtl_eq]
  case counter =>
    show s.perfReg sel = _
    rw [State.perfReg_counter (perfNumber_eq hn hv) hsel]
  case diag =>
    rintro hl _ rfl
    exact State.diagReg_fields hl

/-! ## Moves to coprocessor 0 (R715 to R717) -/

section MoveTo

variable {s : State} {i : Instr} {rt rd : RegNum} {sel : BitVec 4}
  (hi : i = .mtc0 rt rd sel ∨ i = .dmtc0 rt rd sel ∧ s.mips3 = true) (hc : s.cp0Usable = true)

include hi hc

/-- MTC0 and DMTC0 write the same behind their gates: both move the whole general register. -/
theorem exec_moveToCp0 : exec i s = (Res.ok () (cp0Write s rd sel (s.rget rt))).finish := by
  obtain rfl | ⟨rfl, h3⟩ := hi
  · exact congrArg Res.finish (Res.bind_of_open (needCp0_on hc) rfl)
  · exact congrArg Res.finish (Res.bind_of_open (needCp0_on hc) (Res.bind_of_open (needMips3_on h3) rfl))

/-- A move to CP0 completes with the CP0 registers that `cp0Write` leaves. -/
theorem completesCp0_of_cp0Write {c : Cp0} (h : cp0Write s rd sel (s.rget rt) = s.setCp0 c) : completesCp0 i c s :=
  completesCp0_of (by rw [exec_moveToCp0 hi hc, h])

end MoveTo

/-- Settles O48: `cp0Write` is the table of R717; Status, the Diagnostic register and the performance registers differ by the
variant, and the read-only registers are its last row. -/
theorem moveToCp0 : Obligations.MoveToCp0 := by
  unfold Obligations.MoveToCp0
  rintro s rt rd sel v w hc rfl rfl i hi
  have move {c : Cp0} : cp0Write s rd sel (s.rget rt) = s.setCp0 c → completesCp0 i c s := completesCp0_of_cp0Write hi hc
  generalize s.rget rt = v at move ⊢
  refine ⟨?index, ?readOnly, ?entryLo0, ?entryLo1, ?context, ?pageMask, ?wired, ?count, ?entryHi, ?compare, ?status, ?cause,
    ?epc, ?config, ?llAddr, ?watchLo, ?watchHi, ?xcontext, ?frameMask, ?diag, ?perf, ?ecc, ?tagLo, ?tagHi, ?errorEpc⟩
  case readOnly =>
    intro h
    fin_cases h <;> exact move rfl
  case status =>
    rintro rfl
    rw [← ite_isR12k]
    exact move rfl
  case diag =>
    rintro rfl l rfl
    rw [← diagOf_eq]
    exact move rfl
  case perf =>
    rintro rfl
    have perf {p : Perf} (h : writePerf s sel (v.extractLsb' 0 32) = p) : completesCp0 i { s.cp0 with perf := p } s :=
      move (h ▸ rfl)
    refine ⟨⟨_, perf rfl⟩, fun n p hp hn hv => ⟨fun hsel => ?control, fun hsel => ?counter⟩, fun hv hsel p hp => ?arming⟩
    case control => rw [hp, ← perfCtlMask_eq]; exact perf (writePerf_control hn hv hsel)
    case counter =>
      have hreload : (v.extractLsb' 0 32).setWidth 16 = v.extractLsb' 0 16 :=
        (BitVec.setWidth_eq_extractLsb' (by decide)).trans (extractLsb'_extractLsb' v (by decide))
      rw [hp, ← hreload]
      exact perf (writePerf_counter hn hv hsel)
    case arming => rw [hp]; exact perf (writePerf_arming hv hsel)
  all_goals
    rintro rfl
    exact move rfl

/-! ## TLBR and TLBP (R718, R721, R722) -/

theorem exec_tlbr {s : State} (hc : s.cp0Usable = true) : exec .tlbr s = (Res.ok () (tlbRead s)).finish :=
  congrArg Res.finish (Res.bind_of_open (needCp0_on hc) rfl)

theorem exec_tlbp {s : State} {x : Res Unit} (hc : s.cp0Usable = true) (hx : tlbProbe s = x) : exec .tlbp s = x.finish :=
  congrArg Res.finish (Res.bind_of_open (needCp0_on hc) hx)

section Probe

variable {s : State} {i j : Nat} {l : List Nat}

/-- The indices of the entries that match EntryHi (R721). -/
abbrev State.probeHits (s : State) : List Nat :=
  tlbHits (s.cp0.entryHi.extractLsb' 62 2) (s.cp0.entryHi.extractLsb' 13 31) s.asid s.tlb.toList 0

theorem tlbProbe_none (h : s.probeHits = []) :
    tlbProbe s = .ok () (s.setCp0 { s.cp0 with probeFail := true, index := (s.free .probeIndex).setWidth 6 }) := by
  unfold State.probeHits at h; unfold tlbProbe; rw [h]

theorem tlbProbe_one (h : s.probeHits = [i]) :
    tlbProbe s = .ok () (s.setCp0 { s.cp0 with probeFail := false, index := BitVec.ofNat 6 i }) := by
  unfold State.probeHits at h; unfold tlbProbe; rw [h]

theorem tlbProbe_several (h : s.probeHits = i :: j :: l) : tlbProbe s = .refuse .tlbMultipleMatch := by
  unfold State.probeHits at h; unfold tlbProbe; rw [h]

end Probe

/-- Settles O49: TLBR by the entry that Index names, TLBP by the three outcomes of the search. -/
theorem tlbReadProbe : Obligations.TlbReadProbe := by
  unfold Obligations.TlbReadProbe
  rintro s e hc rfl
  refine ⟨?read, fun m hm => ?probe⟩
  case read =>
    rw [State.tlbAt_eq s s.cp0.index.isLt]
    exact completesCp0_of (exec_tlbr hc)
  case probe =>
    obtain ⟨none, one, several⟩ := tlbHits_cases (s := s) (r := s.cp0.entryHi.extractLsb' 62 2)
      (v := s.cp0.entryHi.extractLsb' 13 31) (a := s.asid) (m := m) fun i => by rw [hm, hits_iff, asid_eq]
    refine ⟨fun h => ⟨_, completesCp0_of (exec_tlbp hc (tlbProbe_none (none h)))⟩,
      fun i hi hu => completesCp0_of (exec_tlbp hc (tlbProbe_one (one i hi hu))), fun i j hi hj hij mi mj => ?several⟩
    obtain ⟨x, y, l, h⟩ := several i j hi hj hij mi mj
    exact exec_tlbp hc (tlbProbe_several h)

/-! ## ERET (R723) -/

theorem exec_eret {s : State} (hc : s.cp0Usable = true) (hslot : s.delaySlot = none) :
    exec .eret s = .next (returnFromException s) := by
  show execEret s = _
  unfold execEret
  rw [needCp0_on hc, Res.bind_ok, hslot]
  rfl

theorem returnFromException_erl {s : State} (h : s.statusBit 2 = true) : (returnFromException s).pc = s.cp0.errorEpc ∧
    (returnFromException s).cp0 = { s.cp0 with status := s.cp0.status &&& 0xFFFFFFFB#32 } := by
  unfold returnFromException
  rw [if_pos h]
  exact ⟨rfl, rfl⟩

theorem returnFromException_exl {s : State} (h : s.statusBit 2 = false) : (returnFromException s).pc = s.cp0.epc ∧
    (returnFromException s).cp0 = { s.cp0 with status := s.cp0.status &&& 0xFFFFFFFD#32 } := by
  unfold returnFromException
  rw [if_neg (by rw [h]; exact Bool.false_ne_true)]
  exact ⟨rfl, rfl⟩

theorem returnFromException_rget (s : State) (r : RegNum) : (returnFromException s).rget r = s.rget r := by
  unfold State.rget
  rw [returnFromException_gpr]

/-- Settles O20: outside a delay slot ERET is `returnFromException`, which ERL decides. -/
theorem Settled.returnFromException : Obligations.ReturnFromException := by
  unfold Obligations.ReturnFromException
  intro s
  refine ⟨rfl, eret_unusable, fun hc hslot => ⟨_, exec_eret hc hslot, returnFromException_erl, returnFromException_exl,
    returnFromException_llbit s, (returnFromException_delaySlot s).trans hslot, returnFromException_rget s,
    ⟨returnFromException_hi s, returnFromException_lo s⟩, ?frame⟩⟩
  unfold sameSystem
  simp

/-! ## The words of R725 -/

/-- A word decodes to the instruction that it encodes. -/
theorem decode_of_eq_encode {w : Word} {i : Instr} (hw : w = encode i) (hwf : i.wellFormed = true) : decode w = .ok i := by
  rw [hw, decode_encode i hwf]

/-- Settles O22: the words are those that the encoder writes, and `decode_encode` reads them back. -/
theorem decodeWords : Obligations.DecodeWords := by
  unfold Obligations.DecodeWords
  exact ⟨decode_of_eq_encode rfl rfl, decode_of_eq_encode rfl rfl, decode_of_eq_encode rfl rfl, decode_of_eq_encode rfl rfl,
    decode_of_eq_encode rfl rfl, decode_of_eq_encode rfl rfl, decode_of_eq_encode rfl rfl, decode_of_eq_encode rfl rfl,
    decode_of_eq_encode rfl rfl, decode_of_eq_encode rfl rfl⟩

end Sys2Proof.Machine
end

section
/-! PROOFS. The family `60_exceptions.md`: the general entry (O18), the error-level entries (O31), the interrupt condition
(O30) and the order in which a step takes what is pending (O29). -/

namespace Sys2Proof.Machine

/-! ## The general entry (R1046, R1048) -/

theorem State.restart_eq (s : State) : s.restart = if s.delaySlot = none then s.pc else s.pc - 4#64 := by
  unfold State.restart
  cases s.delaySlot <;> rfl

theorem takeException_rget (e : Exc) (s : State) (r : RegNum) : (takeException e s).rget r = s.rget r := by
  unfold State.rget
  rw [takeException_gpr]

section Entry

variable (e : Exc) (s : State)

theorem recordExc_statusBit (k : Nat) : (recordExc e s).statusBit k = s.statusBit k :=
  congrArg (BitVec.getLsbD · k) (recordExc_status e s)

/-- EPC and BD are written with EXL clear, and kept with EXL set. -/
theorem takeException_epc :
    (takeException e s).cp0.epc = if s.statusBit 1 then s.cp0.epc else s.restart := by cases e <;> rfl

theorem takeException_causeBD :
    (takeException e s).cp0.causeBD = if s.statusBit 1 then s.cp0.causeBD else s.delaySlot.isSome := by cases e <;> rfl

theorem takeException_pc : (takeException e s).pc = s.vectorBase + vectorOffset e s := by
  cases e <;> rfl

/-- Only a refill with EXL clear has a vector of its own. -/
theorem vectorOffset_general {e : Exc} {s : State} (h : (∀ va k, e ≠ .tlbRefill va k) ∨ s.statusBit 1 = true) :
    vectorOffset e s = 0x180#64 := by
  cases e with
  | tlbRefill va k => exact if_pos (h.resolve_left fun hne => hne va k rfl)
  | _ => rfl

/-- The refill vector, by the addressing bit of the region of the address (R314). -/
theorem vectorOffset_refill {va : DWord} {s : State} (k : AccessKind) (h : s.statusBit 1 = false) :
    vectorOffset (.tlbRefill va k) s = if s.xrefill va then 0x080#64 else 0x000#64 :=
  if_neg (by rw [h]; exact Bool.false_ne_true)

theorem State.xrefill_region (va : DWord) :
    (va.extractLsb' 62 2 = 3#2 → s.xrefill va = s.statusBit 7) ∧ (va.extractLsb' 62 2 = 1#2 → s.xrefill va = s.statusBit 6) ∧
      (va.extractLsb' 62 2 = 0#2 → s.xrefill va = s.statusBit 5) := by
  unfold State.xrefill
  refine ⟨fun h => ?_, fun h => ?_, fun h => ?_⟩ <;> rw [h] <;> rfl

/-- Of CP0 the entry writes only the registers that the entry names and those that the exception records. -/
theorem takeException_cp0 :
    (takeException e s).cp0 = { s.cp0 with
      epc := (takeException e s).cp0.epc, causeBD := (takeException e s).cp0.causeBD,
      excCode := (takeException e s).cp0.excCode, status := (takeException e s).cp0.status,
      causeCE := (takeException e s).cp0.causeCE, badVAddr := (takeException e s).cp0.badVAddr,
      context := (takeException e s).cp0.context, xcontext := (takeException e s).cp0.xcontext,
      entryHi := (takeException e s).cp0.entryHi, entryLo0 := (takeException e s).cp0.entryLo0,
      entryLo1 := (takeException e s).cp0.entryLo1, watchPending := (takeException e s).cp0.watchPending } := by
  cases e <;> rfl

end Entry

/-- Settles O18: each part of `takeException`, which the exception decides only through its vector, its code and what it
records. -/
theorem exceptionEntry : Obligations.ExceptionEntry := by
  unfold Obligations.ExceptionEntry
  rintro s t e base rfl hbase
  obtain rfl : base = s.vectorBase := hbase
  refine ⟨fun hexl => ⟨?epc, ?bd⟩, fun hexl => ⟨?epcKept, ?bdKept⟩, ?refill, fun h => ?general, ?code, takeException_status e s,
    takeException_llbit s e, takeException_delaySlot s e, ?ce, takeException_rget e s,
    ⟨takeException_hi s e, takeException_lo s e⟩, takeException_fpu s e, takeException_tlb s e, takeException_caches s e,
    takeException_mem s e, fun a => by rw [takeException_mem], takeException_ext s e, takeException_hw s e,
    takeException_llblock s e, takeException_cp0 e s⟩
  case epc => rw [takeException_epc, hexl, if_neg Bool.false_ne_true, s.restart_eq]
  case bd =>
    rw [takeException_causeBD, hexl, if_neg Bool.false_ne_true]
    cases s.delaySlot <;> rfl
  case epcKept => rw [takeException_epc, hexl, if_pos rfl]
  case bdKept => rw [takeException_causeBD, hexl, if_pos rfl]
  case refill =>
    rintro va k rfl hexl
    rw [takeException_pc, vectorOffset_refill k hexl]
    obtain ⟨h3, h1, h0⟩ := s.xrefill_region va
    exact ⟨fun h => by rw [h3 h], fun h => by rw [h1 h], fun h => by rw [h0 h]⟩
  case general => rw [takeException_pc, vectorOffset_general h]
  case code =>
    cases e with
    | tlbRefill _ k | tlbInvalid _ k | addressError _ k | busError k => cases k <;> rfl
    | _ => rfl
  case ce => rintro c rfl; rfl

/-! ## The error-level entries (R1049, R1060, R1134) -/

theorem takeCacheError_ext (u : CacheUnit) (v : Word) (s : State) :
    (takeCacheError u v s).ext = { s.ext with posted := s.ext.posted.put u none } := rfl

/-- Settles O31: both entries as they are written, the restart address by `State.restart_eq`. -/
theorem errorLevelEntry : Obligations.ErrorLevelEntry := by
  unfold Obligations.ErrorLevelEntry
  intro s u v
  rw [← s.restart_eq]
  refine ⟨?cacheError, ?nmi⟩
  case cacheError =>
    rintro _ rfl
    refine ⟨rfl, rfl, ?_, rfl, rfl, fun _ => rfl, ⟨rfl, rfl⟩, sameSystem.refl _⟩
    rw [takeCacheError_ext]
    cases u <;> rfl
  case nmi =>
    rintro _ rfl
    exact ⟨rfl, rfl, rfl, rfl, rfl, fun _ => rfl, ⟨rfl, rfl⟩, sameSystem.refl _⟩

/-! ## The interrupt condition (R1080) -/

/-- Two bit vectors have a common bit exactly when their conjunction is not zero. -/
theorem and_ne_zero_iff {n : Nat} (x y : BitVec n) :
    x &&& y ≠ 0#n ↔ ∃ k, k < n ∧ x.getLsbD k = true ∧ y.getLsbD k = true := by
  constructor
  · intro h
    obtain ⟨k, hk⟩ := not_forall.1 (mt BitVec.eq_of_getLsbD_eq h)
    obtain ⟨hlt, hbit⟩ := Classical.not_imp.1 hk
    rw [BitVec.getLsbD_and, BitVec.getLsbD_zero, Bool.not_eq_false, Bool.and_eq_true] at hbit
    exact ⟨k, hlt, hbit⟩
  · rintro ⟨k, -, hx, hy⟩ h
    have hbit := congrArg (·.getLsbD k) h
    simp [hx, hy] at hbit

/-- Cause.IP is bits 15:8 of Cause (R117). -/
theorem State.causeReg_ip (s : State) : s.causeReg.extractLsb' 8 8 = s.ip :=
  (BitVec.extractLsb'_append_eq_of_le (by decide)).trans <| (BitVec.extractLsb'_append_eq_of_le (by decide)).trans <|
    (BitVec.extractLsb'_append_eq_of_le (by decide)).trans BitVec.extractLsb'_append_eq_right

/-- Settles O30: a common bit of Cause.IP and Status.IM, by `and_ne_zero_iff`. -/
theorem Settled.interruptCondition : Obligations.InterruptCondition := by
  unfold Obligations.InterruptCondition
  intro s
  unfold Machine.interruptCondition
  simp only [Bool.and_eq_true, Bool.not_eq_true', bne_iff_ne, ← s.causeReg_ip, and_ne_zero_iff, and_assoc]
  refine and_congr_right' <| and_congr_right' <| and_congr_right' <| exists_congr fun k => and_congr_right fun hk => ?_
  simp [hk]

/-! ## The order of what is pending (R1043) -/

section Pending

variable {p : State}

/-- A processor that is hung or in cache test mode waits (R989, R1020). -/
theorem runProcessor_waits (h : p.ext.hung = true ∨ p.ext.test.active = true) :
    runProcessor p = .next (tick p none { p with note := .waiting }) := by
  unfold runProcessor
  rw [if_pos (by rwa [Bool.or_eq_true])]
  rfl

theorem runPending_nmi (h : p.ext.nmiLatch = true) : runPending p = .next (tick p none (concluded (takeNmi p))) := by
  unfold runPending
  rw [if_pos h]
  rfl

/-- A posted Cache Error is due with ERL clear (R1061). -/
theorem dueCacheError_posted {e : CacheUnit × BitVec 32} (herl : p.statusBit 2 = false) (h : p.ext.posted.first = some e) :
    dueCacheError p = some e := by
  unfold dueCacheError
  rw [herl, if_neg Bool.false_ne_true, h]

theorem dueCacheError_none (h : p.statusBit 2 = true ∨ p.ext.posted.first = none) : dueCacheError p = none := by
  unfold dueCacheError
  split
  · rfl
  · next herl => exact h.resolve_left herl

theorem runPending_cacheError {u : CacheUnit} {v : Word} (hnmi : p.ext.nmiLatch = false)
    (h : dueCacheError p = some (u, v)) :
    runPending p = .next (tick p none (concluded (takeCacheError u v p))) := by
  unfold runPending
  rw [hnmi, if_neg Bool.false_ne_true, h]
  rfl

/-- Past the NMI and the Cache Errors comes a postponed Watch, then an interrupt, then the instruction. -/
theorem runPending_late (hnmi : p.ext.nmiLatch = false) (hdue : dueCacheError p = none) :
    runPending p = if p.cp0.watchPending && watchLive p then endRun p none (.next (takeException .watch p))
      else if (interruptNow p).1 then endRun p none (.next (takeException .interrupt (interruptNow p).2))
      else runNext p (interruptNow p).2 := by
  unfold runPending
  rw [hnmi, if_neg Bool.false_ne_true, hdue]

/-- A postponed Watch is due with EXL and ERL clear (R1078). -/
theorem watchDue_eq_false (h : p.cp0.watchPending = false ∨ p.statusBit 1 = true ∨ p.statusBit 2 = true) :
    (p.cp0.watchPending && watchLive p) = false := by
  unfold watchLive
  obtain h | h | h := h <;> rw [h] <;> simp

/-- With no latency left the interrupt is taken now (R1086). -/
theorem interruptNow_due (h : interruptCondition p = true) (hwait : p.ext.intWait = 0) (hdelays : p.ext.intDelays = []) :
    interruptNow p = (true, p) := by
  unfold interruptNow
  rw [h, hwait, hdelays]
  rfl

theorem interruptNow_off (h : interruptCondition p = false) :
    interruptNow p = (false, { p with ext := { p.ext with intWait := 0 } }) := by
  unfold interruptNow
  rw [h]
  rfl

/-- The Bus Error that an ERR has left comes in the place of the instruction (R956). -/
theorem runNext_busErr {s : State} {k : AccessKind} (h : s.ext.busErr = some k) :
    runNext p s = .next (tick p none (concluded (takeException (.busError k) s))) := by
  unfold runNext
  rw [h]
  rfl

end Pending

/-- A step that lets the processor run is `runProcessor` of the state without last step's record and without the event. -/
theorem step_runs {s p : State}
    (h : s.ext.inbox = [] ∧ s.ext.hung = false ∧ p = s.fresh ∨
      ∃ es, s.ext.inbox = .quiet :: es ∧ p = { s.fresh with ext := { s.ext with inbox := es } }) :
    step s = runProcessor p := by
  obtain ⟨hinbox, hhung, rfl⟩ | ⟨es, hinbox, rfl⟩ := h
  · exact step_clear hinbox hhung
  · exact step_quietEvent hinbox

/-- What such a step works on differs from the state in nothing that decides what is pending. -/
theorem step_runs_same {s p : State}
    (h : s.ext.inbox = [] ∧ s.ext.hung = false ∧ p = s.fresh ∨
      ∃ es, s.ext.inbox = .quiet :: es ∧ p = { s.fresh with ext := { s.ext with inbox := es } }) :
    p.cp0 = s.cp0 ∧ p.pc = s.pc ∧ p.ext = { s.ext with inbox := p.ext.inbox } ∧
      interruptCondition p = interruptCondition s := by
  obtain ⟨-, -, rfl⟩ | ⟨es, -, rfl⟩ := h <;> exact ⟨rfl, rfl, rfl, rfl⟩

theorem step_hung {s : State} (hinbox : s.ext.inbox = []) (hhung : s.ext.hung = true) : step s = .fault .hung := by
  unfold step runStep
  dsimp only
  rw [show s.fresh.ext.inbox = [] from hinbox]
  exact if_pos hhung

/-- Settles O29: each clause is the case of `runPending` that its conditions choose. -/
theorem pendingOrder : Obligations.PendingOrder := by
  unfold Obligations.PendingOrder
  refine fun s => ⟨fun e es => step_event, step_hung, fun p hp => ?_⟩
  rw [step_runs hp]
  obtain ⟨hcp0, hpc, hext, hcond⟩ := step_runs_same hp
  have hstatus (k : Nat) : s.statusBit k = p.statusBit k := by unfold State.statusBit; rw [hcp0]
  have hhung : s.ext.hung = p.ext.hung := by rw [hext]
  have htest : s.ext.test = p.ext.test := by rw [hext]
  have hlatch : s.ext.nmiLatch = p.ext.nmiLatch := by rw [hext]
  have hposted : s.ext.posted = p.ext.posted := by rw [hext]
  have hwait : s.ext.intWait = p.ext.intWait := by rw [hext]
  have hdelays : s.ext.intDelays = p.ext.intDelays := by rw [hext]
  have hbus : s.ext.busErr = p.ext.busErr := by rw [hext]
  simp only [hstatus, hhung, htest, hlatch, hposted, hwait, hdelays, hbus, ← hcp0, ← hpc, ← hcond]
  refine ⟨fun h => ⟨_, runProcessor_waits h, rfl, rfl⟩, fun hrun hnormal => ?_⟩
  rw [runProcessor_run hrun hnormal]
  refine ⟨runPending_nmi, fun hnmi => ⟨fun u v herl hfirst => runPending_cacheError hnmi (dueCacheError_posted herl hfirst),
    fun herr => ?_⟩⟩
  rw [runPending_late hnmi (dueCacheError_none herr)]
  refine ⟨fun hwatch hexl herl => ?watch, fun hwatch => ?_⟩
  case watch =>
    rw [if_pos (by unfold watchLive; rw [hwatch, hexl, herl]; rfl)]
    rfl
  rw [watchDue_eq_false hwatch, if_neg Bool.false_ne_true]
  refine ⟨fun hirq hw hd => ?interrupt, fun k hirq hk u hu => ?busError⟩
  case interrupt =>
    rw [interruptNow_due hirq hw hd, if_pos rfl]
    rfl
  case busError =>
    rw [interruptNow_off hirq, if_neg Bool.false_ne_true, hu]
    exact runNext_busErr hk

end Sys2Proof.Machine
end

section
/-! PROOFS. The instructions of `47_fpu_instructions.md` that do no arithmetic: the branches on a condition bit (O16), the moves
(O53), the loads and stores (O54) and the conditional moves (O58).  First the register file, and the completion of R772, which
the arithmetic instructions share. -/

namespace Sys2Proof.Machine

/-! ## The floating-point registers (R761, R762) -/

theorem setWidth_eq_low (v : DWord) : v.setWidth 32 = v.extractLsb' 0 32 :=
  BitVec.setWidth_eq_extractLsb' (by decide)

theorem even_regNum : ∀ {i : RegNum}, i.getLsbD 0 = false → i &&& 0x1E#5 = i := by decide

section Registers

variable (s : State) (i q : RegNum)

theorem State.fraw_setFraw (v : DWord) : (s.setFraw i v).fraw q = if q = i then v else s.fraw q := by
  show (s.fpu.fpr.set i.toNat v i.isLt)[q.toNat] = _
  rw [Vector.getElem_set]
  simp only [BitVec.toNat_inj, eq_comm (a := i)]
  rfl

theorem fprDoubleMoved_setFraw (v : DWord) : fprDoubleMoved i v s (s.setFraw i v) := fun q => s.fraw_setFraw i q v

/-- A result of format `d` as it is stored. -/
theorem fprBecomes_fstore (d : Bool) (bits : Nat) : fprBecomes d i bits s (s.fstore d i bits) := by
  intro q
  cases d with
  | false =>
    refine (s.fraw_setFraw (s.farith i) q _).trans ?_
    split
    · next hq => rw [hq]; rfl
    · rfl
  | true => exact s.fraw_setFraw (s.farith i) q _

/-- A word as it is moved or loaded. -/
theorem fprWordMoved_writeMove (w : Word) : fprWordMoved i w s (s.writeMove i w) := by
  intro q
  unfold State.writeMove
  split
  · exact s.fraw_setFraw i q _
  · next hfr =>
    split
    · next hodd =>
      rw [s.fraw_setFraw]
      split
      · next hq => rw [hq]
      · rfl
    · next heven =>
      rw [s.fraw_setFraw, even_regNum (Bool.eq_false_iff.2 heven)]
      split
      · next hq => rw [hq]
      · rfl

theorem State.readMove_eq : s.readMove i = fprWord s i := by
  unfold State.readMove fprWord
  cases s.fr <;> cases i.getLsbD 0 <;> simp [setWidth_eq_low]

theorem State.word_eq (r : RegNum) : s.word r = (s.rget r).extractLsb' 0 32 := setWidth_eq_low _

theorem needEvenDouble_off {s : State} {i : RegNum} (hfr : s.fr = false) (hodd : i.getLsbD 0 = true) :
    needEvenDouble i s = .refuse .oddDoubleFpr := by
  unfold needEvenDouble
  rw [hfr, hodd]
  rfl

end Registers

/-! ## What an instruction that changes the FPU leaves alone -/

/-- An update of the FPU and an advance change nothing besides the FPU. -/
theorem sameBesidesFpu_advance {s u : State} (h : u = { s with fpu := u.fpu }) : sameBesidesFpu s (advance u) := by
  rw [h]
  exact ⟨fun _ => rfl, ⟨rfl, rfl⟩, advance_fallsThrough s, sameSystem.refl s⟩

theorem State.writeMove_frame (s : State) (i : RegNum) (w : Word) :
    s.writeMove i w = { s with fpu := { (s.writeMove i w).fpu with fcr31 := s.fpu.fcr31 } } := by
  unfold State.writeMove
  split
  · rfl
  · split <;> rfl

theorem State.fstore_frame (s : State) (d : Bool) (i : RegNum) (bits : Nat) :
    s.fstore d i bits = { s with fpu := { (s.fstore d i bits).fpu with fcr31 := s.fpu.fcr31 } } := by
  cases d <;> rfl

/-! ## Completion (R772) -/

section Completion

variable {i : Instr} {c : BitVec 6} {write : State → State} {s : State}

/-- The causes that raise the Floating-Point exception. -/
theorem fpComplete_raises (h : c.getLsbD 5 = true ∨ c.setWidth 5 &&& s.fpEnables ≠ 0#5) :
    fpComplete c write s = .exc .floatingPoint (s.setFcr31 (fcr31WithCause s.fpu.fcr31 c)) := by
  unfold fpComplete
  rw [if_pos]
  rwa [Bool.or_eq_true, bne_iff_ne]

theorem fpComplete_writes (hE : c.getLsbD 5 = false) (h : c.setWidth 5 &&& s.fpEnables = 0#5) :
    fpComplete c write s =
      .ok () (write (s.setFcr31 (fcr31OrFlags (fcr31WithCause s.fpu.fcr31 c) (c.setWidth 5)))) := by
  unfold fpComplete
  rw [if_neg]
  rw [hE, h]
  decide

/-- An instruction that ends with its causes and a write of the FPU follows R772. -/
theorem fpOutcome_of {done : State → Prop} (he : exec i s = (fpComplete c write s).finish)
    (hframe : ∀ v, write (s.setFcr31 v) = { s with fpu := (write (s.setFcr31 v)).fpu })
    (hdone : done (advance (write (s.setFcr31 (fcr31OrFlags (fcr31WithCause s.fpu.fcr31 c) (c.setWidth 5)))))) :
    fpOutcome i c done s := by
  refine ⟨fun h => ?_, fun hE h => ⟨_, ?_, sameBesidesFpu_advance (hframe _), hdone⟩⟩
  · rw [he, fpComplete_raises h, Res.finish_exc]
  · rw [he, fpComplete_writes hE h, Res.finish_ok]

/-- An instruction with one result of a format follows R772. -/
theorem fpCompletes_of {d : Bool} {fd : RegNum} {r : FRes} (he : exec i s = (fpResult d fd r s).finish) :
    fpCompletes i d fd r s := by
  refine fpOutcome_of he (fun v => ?_) ⟨fprBecomes_fstore (s.setFcr31 _) fd d r.bits, ?_⟩ <;> cases d <;> rfl

theorem needFpOp_on {enabled : Bool} (hc : s.cp1Usable = true) (he : enabled = true) : needFpOp enabled s = .ok () s := by
  unfold needFpOp
  rw [needCp1_on hc, he]
  rfl

/-- An arithmetic instruction behind its gates. -/
theorem fpArith_completes {enabled d : Bool} {fd : RegNum} {r : State → FRes} (hc : s.cp1Usable = true)
    (hon : enabled = true) (he : exec i s = fpArith enabled d fd r s) : fpCompletes i d fd (r s) s := by
  refine fpCompletes_of (he.trans ?_)
  unfold fpArith
  rw [needFpOp_on hc hon, Res.bind_ok]

end Completion

/-! ## The branches (R826 to R829) -/

section Branches

variable {s : State} {cc : BitVec 3} {likely want : Bool} {offset : BitVec 16}

theorem fpBranchOp_unusable (hc : s.cp1Usable = false) :
    fpBranchOp likely want cc offset s = .next (takeException (.copUnusable 1#2) s) := by
  unfold fpBranchOp
  rw [needCp1_off hc]
  rfl

theorem fpBranchOp_reserved (hc : s.cp1Usable = true) (hcc : cc ≠ 0#3) (h4 : s.mips4 = false) :
    fpBranchOp likely want cc offset s = .next (takeException .reservedInstr s) := by
  unfold fpBranchOp
  rw [needCp1_on hc, Res.bind_ok, if_pos ⟨hcc, h4⟩]
  rfl

/-- Behind its gates a floating-point branch is a branch without a link on its condition bit. -/
theorem fpBranchOp_eq (hc : s.cp1Usable = true) (hcc : cc = 0#3 ∨ s.mips4 = true) :
    fpBranchOp likely want cc offset s = condOp likely (s.fcc cc == want) none offset s := by
  have hgate : ¬ (cc ≠ 0#3 ∧ s.mips4 = false) := by
    rintro ⟨hne, hoff⟩
    exact hcc.elim hne (by simp [hoff])
  unfold fpBranchOp
  rw [needCp1_on hc, Res.bind_ok, if_neg hgate]
  unfold condOp notInSlot
  split <;> rfl

end Branches

/-- Settles O16: behind the gates each branch is `condOp` of its condition bit, as the branches on general registers are. -/
theorem fpBranches : Obligations.FpBranches := by
  unfold Obligations.FpBranches
  intro s cc offset
  simp only [List.forall_mem_cons, List.not_mem_nil, false_imp_iff, implies_true, and_true]
  refine ⟨⟨rfl, rfl, rfl, rfl⟩, fun hc => ?unusable, fun hc hcc h4 => ?reserved, fun hc hcc hslot T hT => ?completes⟩
  case unusable => exact ⟨fpBranchOp_unusable hc, fpBranchOp_unusable hc, fpBranchOp_unusable hc, fpBranchOp_unusable hc⟩
  case reserved =>
    exact ⟨fpBranchOp_reserved hc hcc h4, fpBranchOp_reserved hc hcc h4, fpBranchOp_reserved hc hcc h4,
      fpBranchOp_reserved hc hcc h4⟩
  case completes =>
    obtain rfl : T = s.branchTarget offset := hT.trans (s.branchTarget_eq offset).symm
    obtain ⟨falseTaken, falseNullified⟩ := condOp_likely_completes (i := .bc1fl cc offset) (link := none) hslot
      (fpBranchOp_eq hc hcc) beq_iff_eq
    obtain ⟨trueTaken, trueNullified⟩ := condOp_likely_completes (i := .bc1tl cc offset) (link := none) hslot
      (fpBranchOp_eq hc hcc) beq_iff_eq
    exact ⟨condOp_completes (link := none) hslot (fpBranchOp_eq hc hcc) beq_iff_eq,
      condOp_completes (link := none) hslot (fpBranchOp_eq hc hcc) beq_iff_eq,
      fun h => ⟨falseTaken h, trueNullified (by simp [h])⟩, fun h => ⟨trueTaken h, falseNullified (by simp [h])⟩⟩

/-! ## The moves (R812 to R817) -/

/-- FCR0 is a 32-bit register whose upper half is zero, so that it sign-extends as it zero-extends. -/
theorem State.fcr_zero (s : State) : sext64 (s.fcr 0#5) = zext64 (s.hw.fcr0Imp ++ s.hw.fcr0Rev) := by
  have hfcr : s.fcr 0#5 = (s.hw.fcr0Imp ++ s.hw.fcr0Rev).setWidth 32 := by
    apply BitVec.eq_of_toNat_eq
    show (0#16 ++ s.hw.fcr0Imp ++ s.hw.fcr0Rev).toNat = _
    have h1 := s.hw.fcr0Imp.isLt
    have h2 := s.hw.fcr0Rev.isLt
    simp only [append_toNat, BitVec.toNat_setWidth, BitVec.toNat_ofNat]
    omega
  have hmsb : ((s.hw.fcr0Imp ++ s.hw.fcr0Rev).setWidth 32).msb = false := by
    rw [BitVec.msb_setWidth, BitVec.getLsbD_of_ge _ _ (by decide)]
    rfl
  rw [hfcr]
  show BitVec.signExtend 64 _ = _
  rw [BitVec.signExtend_eq_setWidth_of_msb_false hmsb]
  exact BitVec.setWidth_setWidth (by simp)

section Doubles

variable {s : State} {rt fs : RegNum}

/-- DMFC1 and DMTC1 behind the gates of coprocessor 1 and MIPS III. -/
theorem exec_dmfc1 (hc : s.cp1Usable = true) (h3 : s.mips3 = true) : exec (.dmfc1 rt fs) s =
    Res.finishGpr rt ((needEvenDouble fs s).bind fun _ s => .ok (s.fraw fs) s) := by
  show execDmfc1 rt fs s = _
  unfold execDmfc1
  rw [needCp1_on hc, Res.bind_ok, needMips3_on h3, Res.bind_ok]

theorem exec_dmtc1 (hc : s.cp1Usable = true) (h3 : s.mips3 = true) : exec (.dmtc1 rt fs) s =
    ((needEvenDouble fs s).bind fun _ s => .ok () (s.setFraw fs (s.rget rt))).finish := by
  show execDmtc1 rt fs s = _
  unfold execDmtc1
  rw [needCp1_on hc, Res.bind_ok, needMips3_on h3, Res.bind_ok]

end Doubles

section Control

variable {s : State} {rt : RegNum} {v : Word}

/-- CTC1 to FCR31, by whether a cause is written with its enable bit (R775). -/
theorem execCtc1_fcr31 (hc : s.cp1Usable = true) (hv : v = (s.rget rt).extractLsb' 0 32 &&& 0xFF83FFFF#32) :
    exec (.ctc1 rt 31#5) s =
      if fcr31Traps v then .next (takeException .floatingPoint (s.setFcr31 v)) else .next (advance (s.setFcr31 v)) := by
  subst hv
  rw [← s.word_eq]
  show execCtc1 rt 31#5 s = _
  unfold execCtc1
  rw [needCp1_on hc, Res.bind_ok, if_pos rfl]
  show (if fcr31Traps _ then _ else _ : Res Unit).finish = _
  rw [apply_ite Res.finish]
  rfl

theorem execCtc1_other {fs : RegNum} (hc : s.cp1Usable = true) (h : fs ≠ 31#5) :
    exec (.ctc1 rt fs) s = (Res.ok () s).finish := by
  show execCtc1 rt fs s = _
  unfold execCtc1
  rw [needCp1_on hc, Res.bind_ok, if_neg h]

theorem fcr31Traps_iff : fcr31Traps v = true ↔
    v.getLsbD 17 = true ∨ v.extractLsb' 12 5 &&& v.extractLsb' 7 5 ≠ 0#5 := by
  unfold fcr31Traps
  rw [Bool.or_eq_true, bne_iff_ne]

end Control

/-- Settles O53: behind the gates each move is one read or one write of the register file. -/
theorem fpMoves : Obligations.FpMoves := by
  unfold Obligations.FpMoves
  intro s rt fs fd v hc hv
  refine ⟨?mfc1, ?mtc1, fun h3 hreg => ⟨?dmfc1, ?dmtc1⟩, fun h3 hfr hodd => ⟨?oddFrom, ?oddTo⟩, ?cfc31, ?cfc0,
    ⟨sext64 (s.fcr fs), ?cfc⟩,
    fun h => completesIdle_of (execCtc1_other hc h), fun h => ?ctcTraps, fun hE h => ?ctcWrites, ?movS, ?movD⟩
  case mfc1 =>
    rw [← s.readMove_eq]
    exact completesGpr_of (congrArg (Res.finishGpr rt) (Res.bind_of_open (needCp1_on hc) rfl))
  case mtc1 =>
    rw [← s.word_eq]
    refine ⟨_, congrArg Res.finish (Res.bind_of_open (needCp1_on hc) rfl), sameBesidesFpu_advance ?_, ?_,
      fprWordMoved_writeMove s fs _⟩
    · rw [State.writeMove_frame]
    · rw [State.writeMove_frame]; rfl
  case dmfc1 =>
    exact completesGpr_of (by rw [exec_dmfc1 hc h3, needEvenDouble_on hreg, Res.bind_ok])
  case dmtc1 =>
    exact ⟨advance (s.setFraw fs (s.rget rt)), by rw [exec_dmtc1 hc h3, needEvenDouble_on hreg, Res.bind_ok, Res.finish_ok],
      sameBesidesFpu_advance rfl, rfl, fprDoubleMoved_setFraw s fs _⟩
  case oddFrom => rw [exec_dmfc1 hc h3, needEvenDouble_off hfr hodd, Res.bind_refuse, Res.finishGpr_refuse]
  case oddTo => rw [exec_dmtc1 hc h3, needEvenDouble_off hfr hodd, Res.bind_refuse, Res.finish_refuse]
  case cfc31 => exact completesGpr_of (congrArg (Res.finishGpr rt) (Res.bind_of_open (needCp1_on hc) rfl))
  case cfc0 =>
    rw [← s.fcr_zero]
    exact completesGpr_of (congrArg (Res.finishGpr rt) (Res.bind_of_open (needCp1_on hc) rfl))
  case cfc => exact completesGpr_of (congrArg (Res.finishGpr rt) (Res.bind_of_open (needCp1_on hc) rfl))
  case ctcTraps => rw [execCtc1_fcr31 hc hv, if_pos (fcr31Traps_iff.2 h)]
  case ctcWrites =>
    refine ⟨advance (s.setFcr31 v), ?_, sameBesidesFpu_advance rfl, rfl, fun _ => rfl⟩
    rw [execCtc1_fcr31 hc hv, if_neg (mt fcr31Traps_iff.1 (by rw [hE, h]; decide))]
  case movS => exact fpArith_completes (r := fun s => exactRes (s.fval false fs)) hc rfl rfl
  case movD => exact fpArith_completes (r := fun s => exactRes (s.fval true fs)) hc rfl rfl

/-! ## The loads and stores (R818 to R825) -/

section Memory

variable {s : State} {i : Instr} {ft : RegNum} {va : State → DWord} {x : Xlate} {b : Nat → Byte}
  {after : State → State → Prop}

/-- A load of a floating-point register ends with a write of the FPU that keeps FCR31, after a read of the bytes. -/
theorem fpLoad_completes {n : Nat} {reg : State → State → Prop} {write : DWord → State → State} {v : DWord} (hn : n ∈ [1, 2, 4, 8])
    (ha : (va s).toNat % n = 0) (hs : loadSource s (va s) x.pa n x 1#2 false b after)
    (hv : v = BitVec.ofNat 64 (orderedValue s.bigEndianCpu n b))
    (he : exec i s = ((memRead (va s) n s).bind fun v s => .ok () (write v s)).finish)
    (hframe : ∀ u, write v u = { u with fpu := { (write v u).fpu with fcr31 := u.fpu.fcr31 } })
    (hreg : ∀ u : State, u.fpu = s.fpu → u.fr = s.fr → reg s (advance (write v u))) : fpLoadCompletes i reg after s := by
  obtain ⟨u, hread, hu, hmem, hafter⟩ := memRead_source hn ha hs
  obtain ⟨-, -, -, hsame, -, -, -, -⟩ := load_done (rt := 0#5) (v := 0#64) (link := false) (lb := u.llblock) hu hmem _ rfl
  rw [State.rset_zero] at hsame
  have hfpu : u.fpu = s.fpu := by
    rw [hu]; unfold State.watched latchWatch; split <;> rfl
  have hfr : u.fr = s.fr := by
    rw [hu]; unfold State.watched latchWatch; split <;> rfl
  have hllb : u.llblock = s.llblock := by
    rw [hu]; exact (watched_same s x.pa .load).2.1
  have hgpr (r : RegNum) : u.rget r = s.rget r := hu.rget r
  obtain ⟨hhl, hfall, hcp0, htlb, hhw, hsteps, hnote, hfcr⟩ := hsame
  refine ⟨advance (write v (breakLl u)), ?_, hreg (breakLl u) hfpu hfr, ?_, ?_, ?_⟩
  · rw [he, hread, Res.bind_ok, ← hv, Res.finish_ok]
  all_goals rw [hframe (breakLl u)]
  · exact hgpr
  · exact hllb
  · exact hafter _ ⟨hhl, hfall, hcp0, htlb, hhw, hsteps, hnote, hfcr⟩ rfl rfl hmem rfl

theorem fprWordMoved_of_load {s u : State} (hfpu : u.fpu = s.fpu) (hfr : u.fr = s.fr) (ft : RegNum) (w : Word) :
    fprWordMoved ft w s (advance (u.writeMove ft w)) := by
  intro q
  have hraw (r : RegNum) : u.fraw r = s.fraw r := by unfold State.fraw; rw [hfpu]
  rw [advance_fraw, fprWordMoved_writeMove u ft w q, hfr, hraw]

theorem fprDoubleMoved_of_load {s u : State} (hfpu : u.fpu = s.fpu) (ft : RegNum) (v : DWord) :
    fprDoubleMoved ft v s (advance (u.setFraw ft v)) := by
  intro q
  have hraw : u.fraw q = s.fraw q := by unfold State.fraw; rw [hfpu]
  rw [advance_fraw, u.fraw_setFraw, hraw]

/-- LWC1 and LWXC1 of a word wherever it is. -/
theorem fpLoadWord_completes (he : exec i s = (fpLoadWord ft va s).finish) (ha : (va s).toNat % 4 = 0)
    (hs : loadSource s (va s) x.pa 4 x 1#2 false b after) :
    fpLoadCompletes i (fprWordMoved ft (BitVec.ofNat 32 (orderedValue s.bigEndianCpu 4 b))) after s := by
  have hlow : (BitVec.ofNat 64 (orderedValue s.bigEndianCpu 4 b)).setWidth 32 =
      BitVec.ofNat 32 (orderedValue s.bigEndianCpu 4 b) := BitVec.setWidth_ofNat_of_le (by decide) _
  refine fpLoad_completes (write := fun v u => u.writeMove ft (v.setWidth 32)) (by simp) ha hs rfl he
    (fun u => u.writeMove_frame ft _) fun u hfpu hfr => ?_
  rw [← hlow]
  exact fprWordMoved_of_load hfpu hfr ft _

/-- LDC1 and LDXC1 of a doubleword wherever it is. -/
theorem fpLoadDouble_completes (he : exec i s = (fpLoadDouble ft va s).finish) (hreg : s.fr = true ∨ ft.getLsbD 0 = false)
    (ha : (va s).toNat % 8 = 0) (hs : loadSource s (va s) x.pa 8 x 1#2 false b after) :
    fpLoadCompletes i (fprDoubleMoved ft (BitVec.ofNat 64 (orderedValue s.bigEndianCpu 8 b))) after s :=
  fpLoad_completes (write := fun v u => u.setFraw ft v) (by simp) ha hs rfl
    (he.trans (congrArg Res.finish (Res.bind_of_open (needEvenDouble_on hreg) rfl))) (fun _ => rfl)
    fun _ hfpu _ => fprDoubleMoved_of_load hfpu ft _

/-- A store of a floating-point register is a write of memory. -/
theorem fpStore_completes {n : Nat} {v : DWord} (hn : n ∈ [1, 2, 4, 8]) (ha : (va s).toNat % n = 0)
    (he : exec i s = (memWrite (va s) n v s).finish)
    (hs : storeTarget s (va s) x.pa n x 1#2 (orderedByte s.bigEndianCpu n v) after) : storeCompletes i after s := by
  obtain ⟨u, hwrite, hu, hafter⟩ := memWrite_target hn ha hs
  obtain ⟨hg, hp, hsame, hl, hb, hc, hm, hx⟩ := store_done hu _ rfl
  exact ⟨_, he.trans (by rw [hwrite]; rfl), hg, hp, hafter _ hsame hl hb hc hm hx⟩

/-- SDC1 and SDXC1 of a register that a doubleword form may name. -/
theorem fpStoreDouble_eq (hreg : s.fr = true ∨ ft.getLsbD 0 = false) :
    fpStoreDouble ft va s = memWrite (va s) 8 (s.fraw ft) s := Res.bind_of_open (needEvenDouble_on hreg) rfl

theorem fpStoreWord_eq : fpStoreWord ft va s = memWrite (va s) 4 (zext64 (fprWord s ft)) s := by
  unfold fpStoreWord
  rw [s.readMove_eq]

theorem fpDouble_refused (hfr : s.fr = false) (hodd : ft.getLsbD 0 = true) :
    fpLoadDouble ft va s = .refuse .oddDoubleFpr ∧ fpStoreDouble ft va s = .refuse .oddDoubleFpr := by
  unfold fpLoadDouble fpStoreDouble
  rw [needEvenDouble_off hfr hodd]
  exact ⟨rfl, rfl⟩

end Memory

/-- Settles O54: behind its gate each form is one of four shapes, at the address of the form. -/
theorem fpMemory : Obligations.FpMemory := by
  unfold Obligations.FpMemory
  intro s base index ft offset x va b after hc
  refine ⟨fun lw ld hform => ?loads, fun sw sd hform => ?stores⟩
  case loads =>
    obtain ⟨a, rfl, hlw, hld⟩ : ∃ a : State → DWord, a s = va ∧ exec lw s = (fpLoadWord ft a s).finish ∧
        exec ld s = (fpLoadDouble ft a s).finish := by
      obtain ⟨rfl, rfl, rfl⟩ | ⟨h4, rfl, rfl, rfl⟩ := hform
      · exact ⟨fun s => s.ea base offset, rfl, congrArg Res.finish (Res.bind_of_open (needCp1_on hc) rfl),
          congrArg Res.finish (Res.bind_of_open (needCp1_on hc) rfl)⟩
      · exact ⟨fun s => s.eaIndexed base index, rfl, congrArg Res.finish (Res.bind_of_open (needCop1x_on h4 hc) rfl),
          congrArg Res.finish (Res.bind_of_open (needCop1x_on h4 hc) rfl)⟩
    refine ⟨fun hs ha => fpLoadWord_completes hlw ha hs, fun hreg hs ha => fpLoadDouble_completes hld hreg ha hs,
      fun hfr hodd => ?_⟩
    rw [hld, (fpDouble_refused hfr hodd).1, Res.finish_refuse]
  case stores =>
    obtain ⟨a, rfl, hsw, hsd⟩ : ∃ a : State → DWord, a s = va ∧ exec sw s = (fpStoreWord ft a s).finish ∧
        exec sd s = (fpStoreDouble ft a s).finish := by
      obtain ⟨rfl, rfl, rfl⟩ | ⟨h4, rfl, rfl, rfl⟩ := hform
      · exact ⟨fun s => s.ea base offset, rfl, congrArg Res.finish (Res.bind_of_open (needCp1_on hc) rfl),
          congrArg Res.finish (Res.bind_of_open (needCp1_on hc) rfl)⟩
      · exact ⟨fun s => s.eaIndexed base index, rfl, congrArg Res.finish (Res.bind_of_open (needCop1x_on h4 hc) rfl),
          congrArg Res.finish (Res.bind_of_open (needCop1x_on h4 hc) rfl)⟩
    refine ⟨fun hs ha => fpStore_completes (by simp) ha (hsw.trans (by rw [fpStoreWord_eq])) hs,
      fun hreg hs ha => fpStore_completes (by simp) ha (hsd.trans (by rw [fpStoreDouble_eq hreg])) hs, fun hfr hodd => ?_⟩
    rw [hsd, (fpDouble_refused hfr hodd).2, Res.finish_refuse]

/-! ## The conditional moves (R850 to R853) -/

/-- Cause is below bit 18 of FCR31. -/
theorem fcr31WithCause_getLsbD (v : Word) (c : BitVec 6) {k : Nat} (hk : 18 ≤ k) :
    (fcr31WithCause v c).getLsbD k = v.getLsbD k := by
  have hmask : (0x0003F000#32).getLsbD k = false := by
    rw [BitVec.getLsbD_ofNat, Nat.testBit_lt_two_pow (lt_of_lt_of_le (by decide) (Nat.pow_le_pow_right two_pos hk)), Bool.and_false]
  have hcause : c.getLsbD (k - 12) = false := BitVec.getLsbD_of_ge _ _ (by omega)
  unfold fcr31WithCause
  rw [BitVec.getLsbD_or, BitVec.getLsbD_and, BitVec.getLsbD_not, hmask, BitVec.getLsbD_shiftLeft, BitVec.getLsbD_setWidth, hcause]
  by_cases h32 : k < 32
  · simp [h32]
  · simp [h32, BitVec.getLsbD_of_ge v k (by omega)]

theorem fccBit_ge (cc : BitVec 3) : 18 ≤ fccBit cc := by
  unfold fccBit
  split <;> omega

theorem fccBit_lt (cc : BitVec 3) : fccBit cc < 32 := by
  have := cc.isLt
  unfold fccBit
  split <;> omega

/-- No cause clears the Cause field and leaves the flags. -/
theorem fcr31_noCause (v : Word) : fcr31OrFlags (fcr31WithCause v 0#6) ((0#6).setWidth 5) = fcr31WithCause v 0#6 := by
  unfold fcr31OrFlags
  simp

section CondMoves

variable {i : Instr} {s : State} {d : Bool} {c : State → Bool} {fs fd : RegNum}

/-- A conditional move of a usable coprocessor under MIPS IV clears Cause and writes, at most, its register. -/
theorem fpMoveIf_moves (hc : s.cp1Usable = true) (h4 : s.mips4 = true) (he : exec i s = fpMoveIf d c fs fd s) {t : State}
    (ht : t = s.setFcr31 (fcr31WithCause s.fpu.fcr31 0#6)) :
    ∃ u, exec i s = .next u ∧ sameBesidesFpu s u ∧ u.fpu.fcr31 = fcr31WithCause s.fpu.fcr31 0#6 ∧
      ∀ q, u.fraw q = (movcHigh d fd (if c t then t.fstore d fd (t.fval d fs) else t)).fraw q := by
  have hexec : exec i s = .next (advance (movcHigh d fd (if c t then t.fstore d fd (t.fval d fs) else t))) := by
    rw [he, ht]
    unfold fpMoveIf
    rw [needFpOp_on hc h4, Res.bind_ok, fpComplete_writes rfl BitVec.zero_and, fcr31_noCause, Res.finish_ok]
  have hframe (w : State) (hw : w = { s with fpu := { w.fpu with fcr31 := fcr31WithCause s.fpu.fcr31 0#6 } }) :
      movcHigh d fd w = { s with fpu := { (movcHigh d fd w).fpu with fcr31 := fcr31WithCause s.fpu.fcr31 0#6 } } := by
    unfold movcHigh
    split
    · exact hw
    · rw [hw]; rfl
  have hu := hframe (if c t then t.fstore d fd (t.fval d fs) else t) (by
    split
    · rw [State.fstore_frame, ht]; rfl
    · rw [ht]; rfl)
  refine ⟨_, hexec, sameBesidesFpu_advance ?_, ?_, fun q => rfl⟩
  · rw [hu]
  · rw [hu]; rfl

/-- The whole of a register moves in double precision, and with FR = 0. -/
theorem fpMoveIf_whole (hc : s.cp1Usable = true) (h4 : s.mips4 = true) (he : exec i s = fpMoveIf d c fs fd s)
    (hd : d = true ∨ s.fr = false) {p : Prop} (hp : c (s.setFcr31 (fcr31WithCause s.fpu.fcr31 0#6)) = true ↔ p) :
    (p → ∃ u, exec i s = .next u ∧ sameBesidesFpu s u ∧ u.fpu.fcr31 = fcr31WithCause s.fpu.fcr31 0#6 ∧
      fprBecomes d fd (s.fval d fs) s u) ∧
    (¬ p → ∃ u, exec i s = .next u ∧ sameBesidesFpu s u ∧ u.fpu.fcr31 = fcr31WithCause s.fpu.fcr31 0#6 ∧ fprSame s u) := by
  obtain ⟨u, hu, hsame, hfcr, hraw⟩ := fpMoveIf_moves hc h4 he rfl
  have hwhole (w : State) (hw : w.fr = s.fr) : movcHigh d fd w = w := by
    unfold movcHigh
    obtain rfl | hfr := hd
    · rfl
    · rw [hw, hfr, Bool.not_false, Bool.or_true, if_pos rfl]
  refine ⟨fun h => ⟨u, hu, hsame, hfcr, fun q => ?_⟩, fun h => ⟨u, hu, hsame, hfcr, fun q => ?_⟩⟩
  · rw [hraw, if_pos (hp.2 h), hwhole _ (by cases d <;> rfl)]
    exact fprBecomes_fstore (s.setFcr31 _) fd d _ q
  · rw [hraw, if_neg (mt hp.1 h), hwhole _ (by rfl)]
    rfl

/-- The low half moves in single precision with FR = 1. -/
theorem fpMoveIf_low (hc : s.cp1Usable = true) (h4 : s.mips4 = true) (he : exec i s = fpMoveIf false c fs fd s)
    (hfr : s.fr = true) {p : Prop} (hp : c (s.setFcr31 (fcr31WithCause s.fpu.fcr31 0#6)) = true ↔ p) :
    (p → ∃ u, exec i s = .next u ∧ sameBesidesFpu s u ∧ u.fpu.fcr31 = fcr31WithCause s.fpu.fcr31 0#6 ∧
      (u.fraw fd).extractLsb' 0 32 = s.readS fs ∧ ∀ q, q ≠ fd → u.fraw q = s.fraw q) ∧
    (¬ p → ∃ u, exec i s = .next u ∧ sameBesidesFpu s u ∧ u.fpu.fcr31 = fcr31WithCause s.fpu.fcr31 0#6 ∧
      (u.fraw fd).extractLsb' 0 32 = (s.fraw fd).extractLsb' 0 32 ∧ ∀ q, q ≠ fd → u.fraw q = s.fraw q) := by
  obtain ⟨u, hu, hsame, hfcr, hraw⟩ := fpMoveIf_moves hc h4 he rfl
  generalize ht : s.setFcr31 (fcr31WithCause s.fpu.fcr31 0#6) = t at hp hraw
  have htfr : t.fr = true := by rw [← ht]; exact hfr
  have htraw (q : RegNum) : t.fraw q = s.fraw q := by rw [← ht]; rfl
  have hreadS : t.fval false fs = (s.readS fs).toNat := by rw [← ht]; rfl
  have hlow (w : State) (hw : w.fr = true) :
      ((movcHigh false fd w).fraw fd).extractLsb' 0 32 = (w.fraw fd).extractLsb' 0 32 ∧
        ∀ q, q ≠ fd → (movcHigh false fd w).fraw q = w.fraw q := by
    unfold movcHigh
    rw [hw, Bool.not_true, Bool.or_false, if_neg Bool.false_ne_true]
    refine ⟨?_, fun q hq => by rw [w.fraw_setFraw, if_neg hq]⟩
    rw [w.fraw_setFraw, if_pos rfl, BitVec.extractLsb'_append_eq_right, setWidth_eq_low]
  have hfarith : t.farith fd = fd := if_pos htfr
  have hstore := fprBecomes_fstore t fd false (t.fval false fs)
  refine ⟨fun h => ⟨u, hu, hsame, hfcr, ?_⟩, fun h => ⟨u, hu, hsame, hfcr, ?_⟩⟩
  · rw [if_pos (hp.2 h)] at hraw
    obtain ⟨hfd, hother⟩ := hlow (t.fstore false fd (t.fval false fs)) htfr
    refine ⟨?_, fun q hq => ?_⟩
    · rw [hraw, hfd, hstore fd, if_pos hfarith.symm, if_neg Bool.false_ne_true, if_pos htfr, hreadS, BitVec.ofNat_toNat,
        BitVec.setWidth_eq, ← setWidth_eq_low]
      exact BitVec.setWidth_setWidth (by decide)
    · rw [hraw, hother q hq, hstore q, hfarith, if_neg hq, htraw]
  · rw [if_neg (mt hp.1 h)] at hraw
    obtain ⟨hfd, hother⟩ := hlow t htfr
    exact ⟨by rw [hraw, hfd, htraw], fun q hq => by rw [hraw, hother q hq, htraw]⟩

end CondMoves

/-- Settles O58: every form is `fpMoveIf` of its condition, which the write of Cause leaves as it was. -/
theorem fpCondMoves : Obligations.FpCondMoves := by
  unfold Obligations.FpCondMoves
  intro s rt fs fd cc hc h4 moves hmoves
  have hfcc : (s.setFcr31 (fcr31WithCause s.fpu.fcr31 0#6)).fcc cc = s.fcc cc :=
    fcr31WithCause_getLsbD _ _ (fccBit_ge cc)
  have hmovf : (!(s.setFcr31 (fcr31WithCause s.fpu.fcr31 0#6)).fcc cc) = true ↔ s.fcc cc = false := by
    rw [hfcc, Bool.not_eq_true']
  have hmovt : (s.setFcr31 (fcr31WithCause s.fpu.fcr31 0#6)).fcc cc = true ↔ s.fcc cc = true := by rw [hfcc]
  simp only [hmoves]
  refine ⟨fun i p hi => ?double, fun i p hi => ?single⟩
  case double =>
    obtain ⟨k, he, hk⟩ : ∃ k : State → Bool, exec i s = fpMoveIf true k fs fd s ∧
        (k (s.setFcr31 (fcr31WithCause s.fpu.fcr31 0#6)) = true ↔ p) := by
      simp only [List.mem_cons, Prod.mk.injEq, List.not_mem_nil, or_false] at hi
      obtain ⟨rfl, rfl⟩ | ⟨rfl, rfl⟩ | ⟨rfl, rfl⟩ | ⟨rfl, rfl⟩ := hi
      · exact ⟨_, rfl, hmovf⟩
      · exact ⟨_, rfl, hmovt⟩
      · exact ⟨_, rfl, beq_iff_eq⟩
      · exact ⟨_, rfl, bne_iff_ne⟩
    exact fpMoveIf_whole hc h4 he (.inl rfl) hk
  case single =>
    obtain ⟨k, he, hk⟩ : ∃ k : State → Bool, exec i s = fpMoveIf false k fs fd s ∧
        (k (s.setFcr31 (fcr31WithCause s.fpu.fcr31 0#6)) = true ↔ p) := by
      simp only [List.mem_cons, Prod.mk.injEq, List.not_mem_nil, or_false] at hi
      obtain ⟨rfl, rfl⟩ | ⟨rfl, rfl⟩ | ⟨rfl, rfl⟩ | ⟨rfl, rfl⟩ := hi
      · exact ⟨_, rfl, hmovf⟩
      · exact ⟨_, rfl, hmovt⟩
      · exact ⟨_, rfl, beq_iff_eq⟩
      · exact ⟨_, rfl, bne_iff_ne⟩
    exact ⟨fun hfr => fpMoveIf_whole hc h4 he (.inr hfr) hk, fun hfr => fpMoveIf_low hc h4 he hfr hk⟩

end Sys2Proof.Machine
end

section
/-! PROOFS. Floating-point operands (`46_fpu.md` R765, R776 to R779): what a pattern stands for, how operands that are no ordinary
numbers are screened, and the results on zeros and infinities (O59). -/

namespace Sys2Proof.Machine

/-! ## Patterns (R765) -/

/-- A format has an exponent and a fraction. -/
structure FloatFmt.Proper (f : FloatFmt) : Prop where
  eb : 2 ≤ f.eb
  fb : 2 ≤ f.fb

theorem fmtOf_proper (d : Bool) : (fmtOf d).Proper := by
  cases d <;> exact ⟨by decide, by decide⟩

section Patterns

variable {f : FloatFmt} {n : Bool} {x : Nat}

theorem signOf_eq_div (f : FloatFmt) (x : Nat) : signOf f x = decide (x / 2 ^ (f.eb + f.fb) % 2 = 1) :=
  Nat.testBit_eq_decide_div_mod_eq

/-- The sign of a pattern with a sign bit. -/
theorem signOf_withSign (n : Bool) (hx : x < 2 ^ (f.eb + f.fb)) : signOf f (withSign f n x) = n := by
  rw [signOf_eq_div]
  unfold withSign
  cases n with
  | false => simp [Nat.div_eq_of_lt hx]
  | true => rw [if_pos rfl, Nat.add_div_left _ (by positivity), Nat.div_eq_of_lt hx]; rfl

/-- The bits of a pattern below the sign. -/
theorem withSign_mod (n : Bool) (hx : x < 2 ^ (f.eb + f.fb)) : withSign f n x % 2 ^ (f.eb + f.fb) = x := by
  unfold withSign
  cases n with
  | false => rw [if_neg Bool.false_ne_true, Nat.zero_add, Nat.mod_eq_of_lt hx]
  | true => rw [if_pos rfl, Nat.add_mod_left, Nat.mod_eq_of_lt hx]

theorem withSign_lt (n : Bool) (hx : x < 2 ^ (f.eb + f.fb)) : withSign f n x < 2 ^ (f.eb + f.fb + 1) := by
  unfold withSign
  rw [Nat.pow_succ]
  split <;> omega

/-- A pattern of the width of the format is its sign and the bits below. -/
theorem withSign_signOf (hx : x < 2 ^ (f.eb + f.fb + 1)) : withSign f (signOf f x) (x % 2 ^ (f.eb + f.fb)) = x := by
  rw [signOf_eq_div]
  unfold withSign
  have hdiv : x / 2 ^ (f.eb + f.fb) < 2 := Nat.div_lt_of_lt_mul (by rwa [Nat.pow_succ] at hx)
  have hsplit := Nat.div_add_mod x (2 ^ (f.eb + f.fb))
  generalize x / 2 ^ (f.eb + f.fb) = s at hdiv hsplit ⊢
  obtain rfl | rfl : s = 0 ∨ s = 1 := by omega
  all_goals simpa using hsplit

/-- The exponent field of a pattern. -/
def expField (f : FloatFmt) (x : Nat) : Nat := x / 2 ^ f.fb % 2 ^ f.eb

theorem expField_lt (f : FloatFmt) (x : Nat) : expField f x < 2 ^ f.eb := Nat.mod_lt _ (by positivity)

/-- The bits below the sign are the exponent field and the fraction. -/
theorem mod_eq_fields (f : FloatFmt) (x : Nat) : x % 2 ^ (f.eb + f.fb) = expField f x * 2 ^ f.fb + x % 2 ^ f.fb := by
  rw [Nat.add_comm, Nat.pow_add, Nat.mod_mul, Nat.add_comm, Nat.mul_comm]
  rfl

/-- The fields of a pattern made of a sign, an exponent and a fraction. -/
theorem fields_withSign {E M : Nat} (n : Bool) (hE : E < 2 ^ f.eb) (hM : M < 2 ^ f.fb) :
    expField f (withSign f n (E * 2 ^ f.fb + M)) = E ∧ withSign f n (E * 2 ^ f.fb + M) % 2 ^ f.fb = M ∧
      E * 2 ^ f.fb + M < 2 ^ (f.eb + f.fb) := by
  have hlt : E * 2 ^ f.fb + M < 2 ^ (f.eb + f.fb) := by
    rw [Nat.pow_add]
    calc E * 2 ^ f.fb + M < E * 2 ^ f.fb + 2 ^ f.fb := by omega
      _ = (E + 1) * 2 ^ f.fb := by ring
      _ ≤ 2 ^ f.eb * 2 ^ f.fb := Nat.mul_le_mul_right _ hE
  have hfields := mod_eq_fields f (withSign f n (E * 2 ^ f.fb + M))
  rw [withSign_mod n hlt] at hfields
  have hM' : withSign f n (E * 2 ^ f.fb + M) % 2 ^ f.fb < 2 ^ f.fb := Nat.mod_lt _ (by positivity)
  generalize withSign f n (E * 2 ^ f.fb + M) % 2 ^ f.fb = M' at hfields hM' ⊢
  obtain rfl : M = M' := by
    have hmod := congrArg (· % 2 ^ f.fb) hfields
    simpa only [Nat.mul_add_mod_self_right, Nat.mod_eq_of_lt hM, Nat.mod_eq_of_lt hM'] using hmod
  exact ⟨(Nat.eq_of_mul_eq_mul_right (Nat.two_pow_pos f.fb) (Nat.add_right_cancel hfields)).symm, rfl, hlt⟩

/-- The value of a pattern, by its exponent field. -/
theorem unpack_eq (f : FloatFmt) (x : Nat) :
    unpack f x = if expField f x = 2 ^ f.eb - 1
      then (if x % 2 ^ f.fb = 0 then .inf (signOf f x) else .nan ((x % 2 ^ f.fb).testBit (f.fb - 1)))
      else if expField f x = 0 then .num (signOf f x) (x % 2 ^ f.fb) f.emin
      else .num (signOf f x) (2 ^ f.fb + x % 2 ^ f.fb) (f.emin + (expField f x - 1 : Nat)) := rfl

theorem isDenorm_iff_fields : isDenorm f x = true ↔ expField f x = 0 ∧ x % 2 ^ f.fb ≠ 0 := by
  unfold isDenorm expField
  rw [Bool.and_eq_true, beq_iff_eq, bne_iff_ne]

/-- A zero of either sign. -/
theorem unpack_zero (hf : f.Proper) (n : Bool) : unpack f (withSign f n 0) = .num n 0 f.emin := by
  have heb : 2 ^ f.eb ≠ 1 := (Nat.one_lt_two_pow (by have := hf.eb; omega)).ne'
  obtain ⟨hE, hM, hlt⟩ := fields_withSign (f := f) (E := 0) (M := 0) n (by positivity) (by positivity)
  rw [Nat.zero_mul, Nat.zero_add] at hE hM hlt
  have : 0 < 2 ^ f.eb := by positivity
  rw [unpack_eq, hE, hM, if_neg (by omega), if_pos rfl, signOf_withSign n hlt]

/-- A denormalized pattern is a small number. -/
theorem unpack_denorm (hf : f.Proper) (h : isDenorm f x = true) : unpack f x = .num (signOf f x) (x % 2 ^ f.fb) f.emin := by
  have heb : 1 < 2 ^ f.eb := Nat.one_lt_two_pow (by have := hf.eb; omega)
  obtain ⟨hE, -⟩ := isDenorm_iff_fields.1 h
  rw [unpack_eq, hE, if_neg (by omega), if_pos rfl]

theorem flushedVal_eq (hf : f.Proper) (x : Nat) :
    flushedVal f x = if isDenorm f x = true then .num (signOf f x) 0 f.emin else unpack f x := by
  unfold flushedVal
  rw [unpack_zero hf]

/-- A number of mantissa 0 is the pattern of a zero. -/
theorem unpack_num_zero_iff (hf : f.Proper) (hx : x < 2 ^ (f.eb + f.fb + 1)) {m : Nat} {e : Int}
    (h : unpack f x = .num n m e) : m = 0 ↔ x = withSign f n 0 := by
  constructor
  · rintro rfl
    have hbits := withSign_signOf hx
    rw [mod_eq_fields] at hbits
    rw [unpack_eq] at h
    have hpos : 0 < 2 ^ f.fb := by positivity
    split at h
    · split at h <;> cases h
    · split at h
      · next hE =>
        injection h with hn hm
        rw [hE, hm, Nat.zero_mul, Nat.zero_add, hn] at hbits
        exact hbits.symm
      · injection h with _ hm
        omega
  · rintro rfl
    rw [unpack_zero hf] at h
    injection h with _ hm
    exact hm.symm

/-- A denormalized pattern is no zero. -/
theorem isDenorm_of_zero (hf : f.Proper) {e : Int} (h : unpack f x = .num n 0 e) : isDenorm f x = false := by
  refine Bool.eq_false_iff.2 fun hd => ?_
  rw [unpack_denorm hf hd] at h
  injection h with _ hm
  exact (isDenorm_iff_fields.1 hd).2 hm

theorem not_nan_of_denorm (hf : f.Proper) (h : isDenorm f x = true) (q : Bool) : unpack f x ≠ .nan q := by
  rw [unpack_denorm hf h]
  exact nofun

theorem not_inf_of_denorm (hf : f.Proper) (h : isDenorm f x = true) (q : Bool) : unpack f x ≠ .inf q := by
  rw [unpack_denorm hf h]
  exact nofun

theorem isQuiet_iff : isQuiet f x = true ↔ unpack f x = .nan false := by unfold isQuiet; rw [beq_iff_eq]

theorem isSignaling_iff : isSignaling f x = true ↔ unpack f x = .nan true := by unfold isSignaling; rw [beq_iff_eq]

end Patterns

/-! ## Kinds of values -/

section Kinds

variable {v : FVal}

theorem FVal.isNan_iff : v.isNan = true ↔ ∃ q, v = .nan q := by cases v <;> simp [FVal.isNan]

theorem FVal.isNan_eq_false_iff : v.isNan = false ↔ ∀ q, v ≠ .nan q := by cases v <;> simp [FVal.isNan]

theorem FVal.isInf_iff : v.isInf = true ↔ ∃ q, v = .inf q := by cases v <;> simp [FVal.isInf]

theorem FVal.isInf_eq_false_iff : v.isInf = false ↔ ∀ q, v ≠ .inf q := by cases v <;> simp [FVal.isInf]

theorem FVal.isZero_iff : v.isZero = true ↔ ∃ q e, v = .num q 0 e := by cases v <;> simp [FVal.isZero]

/-- No operand is an infinity, or none a zero: what the statements say of an operand that decides the result (R779). -/
theorem FVal.noInf_iff {w : FVal} : (v.isInf || w.isInf) = false ↔ ∀ q, v ≠ .inf q ∧ w ≠ .inf q := by
  rw [Bool.or_eq_false_iff, FVal.isInf_eq_false_iff, FVal.isInf_eq_false_iff, forall_and]

theorem FVal.isZero_eq_false_iff : v.isZero = false ↔ ∀ q e, v ≠ .num q 0 e := by cases v <;> simp [FVal.isZero]

theorem FVal.noZero_iff {w : FVal} : (v.isZero || w.isZero) = false ↔ ∀ q e, v ≠ .num q 0 e ∧ w ≠ .num q 0 e := by
  simp only [Bool.or_eq_false_iff, FVal.isZero_eq_false_iff, forall_and]

end Kinds

/-! ## Screening (R776, R778, R779) -/

section Screening

variable {s : State} {f : FloatFmt} {xs : List Nat} {decided : Bool} {k : (Nat → FVal) → FRes}

/-- Outside flush mode a denormalized operand or a quiet NaN is unimplemented (R778). -/
theorem screened_unimplemented (hs : s.flushMode = false) (h : ∃ x ∈ xs, isDenorm f x = true ∨ unpack f x = .nan false) :
    screened s f xs decided k = unimplemented := by
  unfold screened
  rw [hs, if_neg Bool.false_ne_true, if_pos]
  simpa only [List.any_eq_true, Bool.or_eq_true, isQuiet_iff] using h

/-- Without one a signaling NaN is invalid (R776). -/
theorem screened_invalid (hs : s.flushMode = false) (hx : ∀ x ∈ xs, isDenorm f x = false ∧ unpack f x ≠ .nan false)
    (h : ∃ x ∈ xs, unpack f x = .nan true) : screened s f xs decided k = invalid f := by
  unfold screened
  rw [hs, if_neg Bool.false_ne_true, if_neg, if_pos]
  · simpa only [List.any_eq_true, isSignaling_iff] using h
  · simpa only [List.any_eq_true, Bool.or_eq_true, isQuiet_iff, not_exists, not_and, not_or, Bool.not_eq_true] using hx

/-- Other operands are taken as they are. -/
theorem screened_exact (hs : s.flushMode = false) (hx : ∀ x ∈ xs, isDenorm f x = false ∧ ∀ q, unpack f x ≠ .nan q) :
    screened s f xs decided k = k (unpack f) := by
  unfold screened
  rw [hs, if_neg Bool.false_ne_true, if_neg, if_neg]
  · simpa only [List.any_eq_true, isSignaling_iff, not_exists, not_and] using fun x h => (hx x h).2 true
  · simpa only [List.any_eq_true, Bool.or_eq_true, isQuiet_iff, not_exists, not_and, not_or, Bool.not_eq_true] using
      fun x h => ⟨(hx x h).1, (hx x h).2 false⟩

/-- In flush mode a signaling NaN is invalid (R779). -/
theorem screened_flush_invalid (hs : s.flushMode = true) (h : ∃ x ∈ xs, unpack f x = .nan true) :
    screened s f xs decided k = invalid f := by
  unfold screened
  rw [hs, if_pos rfl, if_pos]
  simpa only [List.any_eq_true, isSignaling_iff] using h

/-- Without one a quiet NaN gives the standard NaN. -/
theorem screened_flush_nan (hs : s.flushMode = true) (hx : ∀ x ∈ xs, unpack f x ≠ .nan true)
    (h : ∃ x ∈ xs, unpack f x = .nan false) : screened s f xs decided k = exactRes (stdNan f) := by
  unfold screened
  rw [hs, if_pos rfl, if_neg, if_pos]
  · simpa only [List.any_eq_true, isQuiet_iff] using h
  · simpa only [List.any_eq_true, isSignaling_iff, not_exists, not_and] using hx

/-- A result with I raised as well. -/
def FRes.orInexact (r : FRes) : FRes := { r with cause := r.cause ||| causeI }

/-- Other operands are flushed, with I where a denormalized one counts. -/
theorem screened_flush (hs : s.flushMode = true) (hx : ∀ x ∈ xs, ∀ q, unpack f x ≠ .nan q) :
    screened s f xs decided k =
      if (∃ x ∈ xs, isDenorm f x = true) ∧ decided = false then (k (flushedVal f)).orInexact else k (flushedVal f) := by
  unfold screened FRes.orInexact
  rw [hs, if_pos rfl, if_neg, if_neg]
  · simp only [Bool.and_eq_true, List.any_eq_true, Bool.not_eq_true']
  · simpa only [List.any_eq_true, isQuiet_iff, not_exists, not_and] using fun x h => hx x h false
  · simpa only [List.any_eq_true, isSignaling_iff, not_exists, not_and] using fun x h => hx x h true

end Screening

/-! ## Zeros and infinities (R776, R833, R854) -/

section Tables

variable (f : FloatFmt) (rm : BitVec 2) (fl : Bool) (p q : Bool) (m : Nat) (e e' : Int)

theorem scaled_zero (e e' : Int) : scaled p 0 e e' = 0 := by
  unfold scaled
  rw [Nat.zero_mul]
  cases p <;> rfl

theorem scaled_not : scaled (!p) m e e' = -scaled p m e e' := by
  unfold scaled
  cases p <;> simp

/-- Zeros of one sign add to it, others to the zero of the mode. -/
theorem addVal_zeros : addVal f rm fl (.num p 0 e) (.num q 0 e') =
    exactRes (withSign f (if p = q then p else rm == 3#2) 0) := by
  unfold addVal
  simp only [scaled_zero, add_zero, if_true, true_and]
  split <;> rfl

/-- Numbers that cancel add to the zero of the mode; two zeros of different signs are such numbers. -/
theorem addVal_cancel : addVal f rm fl (.num p m e) (.num (!p) m e) = exactRes (withSign f (rm == 3#2) 0) := by
  unfold addVal
  simp only [min_self, scaled_not, add_neg_cancel, if_true, Bool.eq_not_self, and_false, if_false]
  rfl

variable {m}

theorem mulVal_num_inf (hm : 0 < m) : mulVal f rm fl (.num q m e) (.inf p) = exactRes (infBits f (q ^^ p)) :=
  if_neg hm.ne'

theorem mulVal_inf_num (hm : 0 < m) : mulVal f rm fl (.inf p) (.num q m e) = exactRes (infBits f (p ^^ q)) :=
  if_neg hm.ne'

theorem mulVal_num_zero (m : Nat) : mulVal f rm fl (.num p m e) (.num q 0 e') = exactRes (withSign f (p ^^ q) 0) := rfl

theorem mulVal_zero_num (m : Nat) : mulVal f rm fl (.num p 0 e) (.num q m e') = exactRes (withSign f (p ^^ q) 0) := by
  show roundExact f rm fl (p ^^ q) (0 * m) (e + e') = _
  rw [Nat.zero_mul]
  rfl

theorem divVal_num_zero (hm : 0 < m) :
    divVal f rm fl (.num p m e) (.num q 0 e') = { bits := infBits f (p ^^ q), cause := causeZ } :=
  if_neg hm.ne'

theorem divVal_zero_num (hm : 0 < m) : divVal f rm fl (.num p 0 e) (.num q m e') = exactRes (withSign f (p ^^ q) 0) :=
  if_neg hm.ne'

theorem sqrtVal_negative (hm : 0 < m) : sqrtVal f rm fl (.num true m e) = invalid f :=
  if_neg hm.ne'

theorem rsqrtVal_negative (hm : 0 < m) : rsqrtVal f rm fl (.num true m e) = invalid f :=
  if_neg hm.ne'

end Tables

/-- The standard NaN and the infinities of the two formats (R765). -/
theorem special_bits (d : Bool) :
    invalid (fmtOf d) = { bits := if d then 0x7FF7FFFFFFFFFFFF else 0x7FBFFFFF, cause := 0b010000#6 } ∧
      stdNan (fmtOf d) = (invalid (fmtOf d)).bits ∧
      infBits (fmtOf d) false = if d then 0x7FF0000000000000 else 0x7F800000 := by
  cases d <;> exact ⟨rfl, rfl, rfl⟩

theorem signed_bits (d p : Bool) : withSign (fmtOf d) p 0 = (if p then (if d then 2 ^ 63 else 2 ^ 31) else 0) ∧
    infBits (fmtOf d) p = withSign (fmtOf d) p 0 + if d then 0x7FF0000000000000 else 0x7F800000 := by
  cases d <;> cases p <;> exact ⟨rfl, rfl⟩

theorem State.fval_lt (s : State) (d : Bool) (i : RegNum) : s.fval d i < 2 ^ ((fmtOf d).eb + (fmtOf d).fb + 1) := by
  cases d
  · exact (s.readS i).isLt
  · exact (s.readD i).isLt

/-! ## One and two operands -/

section Operations

variable (s : State) (d : Bool) (fs ft : RegNum)

theorem fpAdd_screened (neg : Bool) : fpAdd d neg fs ft s =
    screened s (fmtOf d) [s.fval d fs, s.fval d ft]
      ((unpack (fmtOf d) (s.fval d fs)).isInf || (unpack (fmtOf d) (s.fval d ft)).isInf)
      fun u => addVal (fmtOf d) s.roundMode s.flushDenorm (u (s.fval d fs))
        (if neg then negVal (u (s.fval d ft)) else u (s.fval d ft)) := rfl

theorem fpMul_screened : fpMul d fs ft s =
    screened s (fmtOf d) [s.fval d fs, s.fval d ft]
      ((unpack (fmtOf d) (s.fval d fs)).isZero || (unpack (fmtOf d) (s.fval d ft)).isZero)
      fun u => mulVal (fmtOf d) s.roundMode s.flushDenorm (u (s.fval d fs)) (u (s.fval d ft)) := rfl

theorem fpDiv_screened : fpDiv d fs ft s =
    screened s (fmtOf d) [s.fval d fs, s.fval d ft]
      ((unpack (fmtOf d) (s.fval d fs)).isInf || (unpack (fmtOf d) (s.fval d ft)).isInf)
      fun u => divVal (fmtOf d) s.roundMode s.flushDenorm (u (s.fval d fs)) (u (s.fval d ft)) := rfl

theorem fpSqrt_screened : fpSqrt d fs s =
    screened s (fmtOf d) [s.fval d fs] false fun u => sqrtVal (fmtOf d) s.roundMode s.flushDenorm (u (s.fval d fs)) := rfl

theorem fpRecip_screened : fpRecip d fs s =
    screened s (fmtOf d) [s.fval d fs] false
      fun u => divVal (fmtOf d) s.roundMode s.flushDenorm (.num false 1 0) (u (s.fval d fs)) := rfl

theorem fpRsqrt_screened : fpRsqrt d fs s =
    screened s (fmtOf d) [s.fval d fs] false fun u => rsqrtVal (fmtOf d) s.roundMode s.flushDenorm (u (s.fval d fs)) := rfl

end Operations

section Operands

theorem exists_mem_pair {α : Type} {x y : α} {p : α → Prop} : (∃ z ∈ [x, y], p z) ↔ p x ∨ p y := by simp

theorem forall_mem_pair {α : Type} {x y : α} {p : α → Prop} : (∀ z ∈ [x, y], p z) ↔ p x ∧ p y := by simp

theorem exists_mem_one {α : Type} {x : α} {p : α → Prop} : (∃ z ∈ [x], p z) ↔ p x := by simp

variable {s : State} {f : FloatFmt} {a b : Nat} {decided : Bool} {k : (Nat → FVal) → FRes}

/-- What a screened operation of two operands gives in flush mode, in the form of the statements. -/
theorem screened_flush_pair (hs : s.flushMode = true) (ha : ∀ q, unpack f a ≠ .nan q ∧ unpack f b ≠ .nan q) {p : Prop}
    (hp : p ↔ (isDenorm f a = true ∨ isDenorm f b = true) ∧ decided = false) :
    (p → screened s f [a, b] decided k = (k (flushedVal f)).orInexact) ∧
      (¬ p → screened s f [a, b] decided k = k (flushedVal f)) := by
  have h := screened_flush (k := k) (decided := decided) (xs := [a, b]) hs
    (forall_mem_pair.2 ⟨fun q => (ha q).1, fun q => (ha q).2⟩)
  simp only [exists_mem_pair] at h
  exact ⟨fun hyes => h.trans (if_pos (hp.1 hyes)), fun hno => h.trans (if_neg (mt hp.2 hno))⟩

/-- The same for one operand, which nothing else decides. -/
theorem screened_flush_one (hs : s.flushMode = true) (ha : ∀ q, unpack f a ≠ .nan q) :
    (isDenorm f a = true → screened s f [a] false k = (k (flushedVal f)).orInexact) ∧
      (¬ isDenorm f a = true → screened s f [a] false k = k (flushedVal f)) := by
  have h := screened_flush (k := k) (decided := false) (xs := [a]) hs (List.forall_mem_singleton.2 ha)
  simp only [exists_mem_one, and_true] at h
  exact ⟨fun hyes => h.trans (if_pos hyes), fun hno => h.trans (if_neg hno)⟩

end Operands

/-- Settles O59: the operands by the lemmas about `screened`, the results by the tables of the exact operations. -/
theorem fpScreening : Obligations.FpScreening := by
  unfold Obligations.FpScreening
  rintro s d neg fs ft _ _ _ _ _ rfl rfl rfl rfl rfl _ rfl
  have hf := fmtOf_proper d
  simp only [List.forall_mem_cons, List.not_mem_nil, false_imp_iff, implies_true, and_true, fpAdd_screened, fpMul_screened,
    fpDiv_screened, fpSqrt_screened, fpRecip_screened, fpRsqrt_screened]
  refine ⟨fun hs => ⟨fun h => ⟨?unimpl, fun h => ?unimplOne⟩, fun hda hdb hqa hqb => ⟨fun h => ?invalid, fun hna hnb => ?exact⟩⟩,
    fun hs => ⟨fun h => ?flushInvalid, fun hsa hsb h => ?flushNan, fun u hu den flushed hden hflushed =>
      ⟨fun hn => ?flushPair, fun hn => ?flushOne, fun h => ?flushOneInvalid, fun h => ?flushOneNan⟩⟩,
    special_bits d, fun p q => ⟨rfl, rfl, rfl⟩, fun p q m e => ⟨rfl, rfl, rfl, rfl, mulVal_num_inf _ _ _ _ _ _, ?rsqrtInf, rfl,
      rsqrtVal_negative _ _ _ _, rfl⟩,
    fun p q m e => ⟨rfl, mulVal_inf_num _ _ _ _ _ _, rfl, sqrtVal_negative _ _ _ _, rfl, rfl⟩,
    fun p q m e e' => ⟨rfl, fun hm => ⟨divVal_num_zero _ _ _ _ _ _ _ hm, divVal_zero_num _ _ _ _ _ _ _ hm⟩,
      mulVal_zero_num _ _ _ _ _ _ _ _, rfl, addVal_zeros _ _ _ _ _ _ _⟩,
    fun p m e => addVal_cancel _ _ _ _ _ _, signed_bits d, fun x p m e hx h => unpack_num_zero_iff hf hx h⟩
  case unimpl =>
    have hpair : ∃ x ∈ [s.fval d fs, s.fval d ft], isDenorm (fmtOf d) x = true ∨ unpack (fmtOf d) x = .nan false := by
      rw [exists_mem_pair]
      tauto
    exact ⟨congrArg FRes.cause (screened_unimplemented hs hpair), congrArg FRes.cause (screened_unimplemented hs hpair),
      congrArg FRes.cause (screened_unimplemented hs hpair)⟩
  case unimplOne =>
    have hone : ∃ x ∈ [s.fval d fs], isDenorm (fmtOf d) x = true ∨ unpack (fmtOf d) x = .nan false := exists_mem_one.2 h
    exact ⟨congrArg FRes.cause (screened_unimplemented hs hone), congrArg FRes.cause (screened_unimplemented hs hone),
      congrArg FRes.cause (screened_unimplemented hs hone)⟩
  case invalid =>
    have hnone : ∀ x ∈ [s.fval d fs, s.fval d ft], isDenorm (fmtOf d) x = false ∧ unpack (fmtOf d) x ≠ .nan false :=
      forall_mem_pair.2 ⟨⟨hda, hqa⟩, hdb, hqb⟩
    have hpair : ∃ x ∈ [s.fval d fs, s.fval d ft], unpack (fmtOf d) x = .nan true := exists_mem_pair.2 h
    exact ⟨screened_invalid hs hnone hpair, screened_invalid hs hnone hpair, screened_invalid hs hnone hpair⟩
  case exact =>
    have hfirst : isDenorm (fmtOf d) (s.fval d fs) = false ∧ ∀ q, unpack (fmtOf d) (s.fval d fs) ≠ .nan q :=
      ⟨hda, Bool.forall_bool.2 ⟨hqa, hna⟩⟩
    have hsecond : isDenorm (fmtOf d) (s.fval d ft) = false ∧ ∀ q, unpack (fmtOf d) (s.fval d ft) ≠ .nan q :=
      ⟨hdb, Bool.forall_bool.2 ⟨hqb, hnb⟩⟩
    have hpair := forall_mem_pair (p := fun x => isDenorm (fmtOf d) x = false ∧ ∀ q, unpack (fmtOf d) x ≠ .nan q).2 ⟨hfirst, hsecond⟩
    have hone := List.forall_mem_singleton (p := fun x => isDenorm (fmtOf d) x = false ∧ ∀ q, unpack (fmtOf d) x ≠ .nan q).2 hfirst
    exact ⟨screened_exact hs hpair, screened_exact hs hpair, screened_exact hs hpair, screened_exact hs hone,
      screened_exact hs hone, screened_exact hs hone⟩
  case flushInvalid =>
    have hpair : ∃ x ∈ [s.fval d fs, s.fval d ft], unpack (fmtOf d) x = .nan true := exists_mem_pair.2 h
    exact ⟨screened_flush_invalid hs hpair, screened_flush_invalid hs hpair, screened_flush_invalid hs hpair⟩
  case flushNan =>
    have hnone : ∀ x ∈ [s.fval d fs, s.fval d ft], unpack (fmtOf d) x ≠ .nan true := forall_mem_pair.2 ⟨hsa, hsb⟩
    have hpair : ∃ x ∈ [s.fval d fs, s.fval d ft], unpack (fmtOf d) x = .nan false := exists_mem_pair.2 h
    exact ⟨screened_flush_nan hs hnone hpair, screened_flush_nan hs hnone hpair, screened_flush_nan hs hnone hpair⟩
  case flushPair =>
    obtain rfl : u = flushedVal (fmtOf d) := funext fun y => (hu y).trans (flushedVal_eq hf y).symm
    simp only [hflushed, hden, ← FVal.noInf_iff, ← FVal.noZero_iff]
    exact ⟨screened_flush_pair hs hn .rfl, screened_flush_pair hs hn .rfl, screened_flush_pair hs hn .rfl⟩
  case flushOne =>
    obtain rfl : u = flushedVal (fmtOf d) := funext fun y => (hu y).trans (flushedVal_eq hf y).symm
    simp only [hflushed]
    exact ⟨screened_flush_one hs hn, screened_flush_one hs hn, screened_flush_one hs hn⟩
  case flushOneInvalid =>
    have hone : ∃ x ∈ [s.fval d fs], unpack (fmtOf d) x = .nan true := exists_mem_one.2 h
    exact ⟨screened_flush_invalid hs hone, screened_flush_invalid hs hone, screened_flush_invalid hs hone⟩
  case flushOneNan =>
    have hnone : ∀ x ∈ [s.fval d fs], unpack (fmtOf d) x ≠ .nan true := List.forall_mem_singleton.2 (by rw [h]; decide)
    have hone : ∃ x ∈ [s.fval d fs], unpack (fmtOf d) x = .nan false := exists_mem_one.2 h
    exact ⟨screened_flush_nan hs hnone hone, screened_flush_nan hs hnone hone, screened_flush_nan hs hnone hone⟩
  case rsqrtInf => cases p <;> rfl

end Sys2Proof.Machine
end

section
/-! PROOFS. The order of values (`46_fpu.md` R781), the operands as either mode reads them, and comparison (O57).  Each
comparison completes by `fpOutcome_of`; its bit and its causes are read off `predicate`. -/

namespace Sys2Proof.Machine

/-- A list of instructions with what each computes, one entry at a time. -/
theorem forall_mem_triples {α β γ : Type} {l : List (α × β × γ)} {P : α → β → γ → Prop} (h : ∀ x ∈ l, P x.1 x.2.1 x.2.2) :
    ∀ i d c, (i, d, c) ∈ l → P i d c :=
  fun i d c hi => h (i, d, c) hi

/-! ## The order of values (R781) -/

/-- A number as an integer at an exponent that is at most its own. -/
theorem scaled_mul {n : Bool} {a : Nat} {x e : Int} (h : e ≤ x) :
    (scaled n a x e : ℚ) * 2 ^ e = (FVal.num n a x).toRat := by
  have hpow : ((2 : ℚ) ^ (x - e).toNat) * 2 ^ e = 2 ^ x := by
    rw [← zpow_natCast, ← zpow_add₀ two_ne_zero, Int.toNat_of_nonneg (by omega), Int.sub_add_cancel]
  unfold scaled FVal.toRat
  cases n <;> simp [mul_assoc, hpow]

/-- The exact comparison of two values, neither a NaN. -/
theorem cmpVal_iff {v w : FVal} (hv : v.isNan = false) (hw : w.isNan = false) :
    (cmpVal v w = .lt ↔ v.less w) ∧ (cmpVal v w = .eq ↔ v.same w) := by
  cases v with
  | nan q => cases hv
  | inf p =>
    cases w with
    | nan q => cases hw
    | inf q => cases p <;> cases q <;> simp [cmpVal, FVal.less, FVal.same]
    | num n b y => cases p <;> simp [cmpVal, FVal.less, FVal.same]
  | num n a x =>
    cases w with
    | nan q => cases hw
    | inf q => cases q <;> simp [cmpVal, FVal.less, FVal.same]
    | num m b y =>
      have hpos : (0 : ℚ) < 2 ^ min x y := by positivity
      have hlt : (FVal.num n a x).less (.num m b y) ↔ scaled n a x (min x y) < scaled m b y (min x y) := by
        show (FVal.num n a x).toRat < (FVal.num m b y).toRat ↔ _
        rw [← scaled_mul (min_le_left x y), ← scaled_mul (min_le_right x y), mul_lt_mul_iff_left₀ hpos, Int.cast_lt]
      have heq : (FVal.num n a x).same (.num m b y) ↔ scaled n a x (min x y) = scaled m b y (min x y) := by
        show (FVal.num n a x).toRat = (FVal.num m b y).toRat ↔ _
        rw [← scaled_mul (min_le_left x y), ← scaled_mul (min_le_right x y), mul_left_inj' hpos.ne', Int.cast_inj]
      exact ⟨compare_lt_iff_lt.trans hlt.symm, compare_eq_iff_eq.trans heq.symm⟩

theorem predicate_nan {cond : BitVec 4} {v w : FVal} (h : v.isNan = true ∨ w.isNan = true) : predicate cond v w = cond.getLsbD 0 := by
  unfold predicate
  rw [if_pos (by rwa [Bool.or_eq_true])]

theorem predicate_iff {cond : BitVec 4} {v w : FVal} (hv : v.isNan = false) (hw : w.isNan = false) :
    predicate cond v w = true ↔ cond.getLsbD 2 = true ∧ v.less w ∨ cond.getLsbD 1 = true ∧ v.same w := by
  obtain ⟨hlt, heq⟩ := cmpVal_iff hv hw
  unfold predicate
  rw [hv, hw, if_neg (by decide), ← hlt, ← heq]
  cases cmpVal v w <;> simp

/-! ## Operands in either mode -/

/-- An operand as an operation reads it: in flush mode a denormalized number is a zero (R779). -/
def State.operand (s : State) (f : FloatFmt) (x : Nat) : FVal := if s.flushMode then flushedVal f x else unpack f x

theorem State.operand_eq {f : FloatFmt} (hf : f.Proper) (s : State) (x : Nat) :
    s.operand f x = if s.flushMode ∧ isDenorm f x = true then .num (signOf f x) 0 f.emin else unpack f x := by
  unfold State.operand
  rw [flushedVal_eq hf]
  cases s.flushMode <;> simp

theorem flushedVal_isNan {f : FloatFmt} (hf : f.Proper) (x : Nat) : (flushedVal f x).isNan = (unpack f x).isNan := by
  rw [flushedVal_eq hf]
  split
  · next h => rw [unpack_denorm hf h]; rfl
  · rfl

theorem State.operand_isNan {f : FloatFmt} (hf : f.Proper) (s : State) (x : Nat) :
    (s.operand f x).isNan = (unpack f x).isNan := by
  unfold State.operand
  split
  · exact flushedVal_isNan hf x
  · rfl

/-! ## Comparison (R860) -/

/-- A write of a condition bit writes no other bit of FCR31. -/
theorem setFcc_getLsbD (s : State) (cc : BitVec 3) (b : Bool) (k : Nat) :
    (s.setFcc cc b).fpu.fcr31.getLsbD k = if k = fccBit cc then b else s.fpu.fcr31.getLsbD k := by
  have hlt := fccBit_lt cc
  show (_ &&& ~~~((1#32) <<< fccBit cc) ||| (BitVec.ofBool b).setWidth 32 <<< fccBit cc).getLsbD k = _
  rw [BitVec.getLsbD_or, BitVec.getLsbD_and, BitVec.getLsbD_not, BitVec.getLsbD_shiftLeft, BitVec.getLsbD_shiftLeft,
    BitVec.getLsbD_setWidth]
  split
  · next hk => subst hk; simp [hlt]
  · next hk =>
    by_cases h32 : k < 32
    · by_cases hb : k < fccBit cc
      · simp [h32, hb]
      · have : k - fccBit cc ≠ 0 := by omega
        simp [h32, hb, this]
    · simp [h32, BitVec.getLsbD_of_ge _ k (by omega : 32 ≤ k)]

section Compare

variable {s : State} {i : Instr} {d : Bool} {cond : BitVec 4} {cc : BitVec 3} {fs ft : RegNum} {f : FloatFmt} {a b : Nat}

/-- A comparison completes as R772 says, with one condition bit written. -/
theorem compareOp_outcome (hc : s.cp1Usable = true) (hcc : cc = 0#3 ∨ s.mips4 = true)
    (he : exec i s = compareOp d cond cc fs ft s) :
    fpOutcome i (fpCompare d cond fs ft s).2 (fun t => fprSame s t ∧ t.fcc cc = (fpCompare d cond fs ft s).1 ∧
      ∀ k, k ≠ fccBit cc → t.fpu.fcr31.getLsbD k = (fcr31OrFlags (fcr31WithCause s.fpu.fcr31
        (fpCompare d cond fs ft s).2) ((fpCompare d cond fs ft s).2.setWidth 5)).getLsbD k) s := by
  have hon : (s.mips4 || cc == 0#3) = true := by
    rw [Bool.or_eq_true, beq_iff_eq]
    exact hcc.symm
  refine fpOutcome_of (write := fun s' => s'.setFcc cc (fpCompare d cond fs ft s).1) ?_ (fun _ => rfl)
    ⟨fun _ => rfl, (setFcc_getLsbD _ cc _ _).trans (if_pos rfl), fun k hk => (setFcc_getLsbD _ cc _ k).trans (if_neg hk)⟩
  rw [he]
  unfold compareOp
  rw [needFpOp_on hc hon, Res.bind_ok]

/-- The bit of a comparison is the predicate of its operands as they are read. -/
theorem fpCompare_bit (hf : f = fmtOf d) (ha : a = s.fval d fs) (hb : b = s.fval d ft) :
    (fpCompare d cond fs ft s).1 = predicate cond (s.operand f a) (s.operand f b) := by
  subst hf ha hb
  unfold fpCompare State.operand
  cases s.flushMode <;> rfl

/-- The causes of a comparison: V of NaNs, and I where flushing has changed the bit (R779, R781). -/
theorem fpCompare_cause (hf : f = fmtOf d) (ha : a = s.fval d fs) (hb : b = s.fval d ft) :
    (fpCompare d cond fs ft s).2 =
      (if unpack f a = .nan true ∨ unpack f b = .nan true ∨
          ((unpack f a).isNan = true ∨ (unpack f b).isNan = true) ∧ cond.getLsbD 3 = true then causeV else 0#6) |||
        (if predicate cond (s.operand f a) (s.operand f b) = predicate cond (unpack f a) (unpack f b) then 0#6 else causeI) := by
  rw [← fpCompare_bit hf ha hb]
  subst hf ha hb
  unfold fpCompare
  dsimp only
  simp only [Bool.or_eq_true, Bool.and_eq_true, isSignaling_iff, beq_iff_eq, or_assoc]

end Compare

/-- Settles O57: the completion by `compareOp_outcome`, the bit and the causes by `fpCompare_bit` and `fpCompare_cause`. -/
theorem Settled.fpCompare : Obligations.FpCompare := by
  unfold Obligations.FpCompare
  intro s ft fs cc hc hcc
  refine ⟨fun i d cond hi => compareOp_outcome hc hcc ?meaning, fun d cond f a b hf ha hb => ?results⟩
  case meaning =>
    revert i d cond
    refine forall_mem_triples ?_
    simp only [List.forall_mem_cons, List.not_mem_nil, false_imp_iff, implies_true, and_true]
    and_intros <;> rfl
  case results =>
    have hproper : f.Proper := hf ▸ fmtOf_proper d
    have hbit := fpCompare_bit (cond := cond) hf ha hb
    have hcause := fpCompare_cause (cond := cond) hf ha hb
    refine ⟨fun ⟨q, hq⟩ => ?nan, fun hnan u holds hu hholds => ?ordered⟩
    case nan =>
      have hn : (unpack f a).isNan = true ∨ (unpack f b).isNan = true :=
        hq.imp (fun h => FVal.isNan_iff.2 ⟨q, h⟩) (fun h => FVal.isNan_iff.2 ⟨q, h⟩)
      have hop : (s.operand f a).isNan = true ∨ (s.operand f b).isNan = true := by
        rwa [s.operand_isNan hproper, s.operand_isNan hproper]
      rw [hbit, hcause, predicate_nan hn, predicate_nan hop, if_pos rfl, BitVec.or_zero]
      simp only [hn, true_and]
    case ordered =>
      have hna : (unpack f a).isNan = false := FVal.isNan_eq_false_iff.2 fun q => (hnan q).1
      have hnb : (unpack f b).isNan = false := FVal.isNan_eq_false_iff.2 fun q => (hnan q).2
      have huop (y : Nat) : u y = s.operand f y := (hu y).trans (s.operand_eq hproper y).symm
      have hread : predicate cond (s.operand f a) (s.operand f b) = true ↔ holds (u a) (u b) := by
        rw [predicate_iff ((s.operand_isNan hproper a).trans hna) ((s.operand_isNan hproper b).trans hnb), hholds, huop, huop]
      have hexact : predicate cond (unpack f a) (unpack f b) = true ↔ holds (unpack f a) (unpack f b) := by
        rw [predicate_iff hna hnb, hholds]
      have hchanged : predicate cond (s.operand f a) (s.operand f b) = predicate cond (unpack f a) (unpack f b) ↔
          (holds (u a) (u b) ↔ holds (unpack f a) (unpack f b)) := by
        rw [← hread, ← hexact, Bool.coe_iff_coe]
      rw [if_neg (by simp [(hnan true).1, (hnan true).2, hna, hnb]), BitVec.zero_or] at hcause
      exact ⟨by rw [hbit, hread], fun h => by rw [hcause, if_pos (hchanged.2 h)],
        fun h => by rw [hcause, if_neg (mt hchanged.1 h)]⟩

end Sys2Proof.Machine
end

section
/-! PROOFS. Arithmetic (O55) and conversion (O56) of `47_fpu_instructions.md`: each instruction completes by `fpArith_completes`
with the result of its operation; what the result is for operands that are no ordinary numbers. -/

namespace Sys2Proof.Machine

/-! ## The multiply-adds behind their gate (R856 to R859) -/

theorem maddOp_completes {i : Instr} {d sub neg : Bool} {fr fs ft fd : RegNum} {s : State} (hc : s.cp1Usable = true)
    (h4 : s.mips4 = true) (he : exec i s = maddOp d sub neg fr fs ft fd s) :
    fpCompletes i d fd (fpMadd d sub neg fr fs ft s) s := by
  refine fpCompletes_of (he.trans ?_)
  unfold maddOp
  rw [needCop1x_on h4 hc, Res.bind_ok]

/-! ## A change of the sign (R835, R837) -/

section Sign

variable {s : State} {d : Bool} {newSign : Bool → Bool} {fs : RegNum} {f : FloatFmt} {a : Nat}

theorem fpSign_eq (hf : f = fmtOf d) (ha : a = s.fval d fs) :
    fpSign d newSign fs s =
      if unpack f a = .nan true then invalid f
      else if unpack f a = .nan false then (if s.flushMode then exactRes (stdNan f) else unimplemented)
      else if isDenorm f a = true ∧ s.flushMode = true then
        { bits := withSign f (newSign (signOf f a)) 0, cause := causeI }
      else exactRes (withSign f (newSign (signOf f a)) (a % 2 ^ (f.eb + f.fb))) := by
  subst hf ha
  have hpos : 0 < 2 ^ ((fmtOf d).eb + (fmtOf d).fb) := by positivity
  unfold fpSign
  simp only [isSignaling_iff, isQuiet_iff, Bool.and_eq_true, signOf_withSign _ hpos, withSign_mod _ hpos]

end Sign

/-! ## Multiply and add (R783, R856 to R859) -/

/-- An operand that is no NaN and, outside flush mode, not denormalized. -/
def State.Ordinary (s : State) (f : FloatFmt) (x : Nat) : Prop :=
  (∀ q, unpack f x ≠ .nan q) ∧ (isDenorm f x = true → s.flushMode = true)

/-- An operation on ordinary operands reads them as the mode says, and raises I only where they do not decide the result. -/
theorem screened_ordinary {s : State} {f : FloatFmt} {xs : List Nat} {k : (Nat → FVal) → FRes} (h : ∀ x ∈ xs, s.Ordinary f x) :
    screened s f xs true k = k (s.operand f) := by
  have hop : s.operand f = if s.flushMode then flushedVal f else unpack f := by
    funext x
    unfold State.operand
    split <;> rfl
  rw [hop]
  cases hs : s.flushMode with
  | true =>
    rw [screened_flush hs fun x hx => (h x hx).1, if_neg (by simp), if_pos rfl]
  | false =>
    rw [screened_exact hs fun x hx => ⟨Bool.eq_false_iff.2 fun hd => ?_, (h x hx).1⟩, if_neg Bool.false_ne_true]
    exact Bool.false_ne_true (hs.symm.trans ((h x hx).2 hd))

theorem unpack_stdNan (d : Bool) : unpack (fmtOf d) (stdNan (fmtOf d)) = .nan false := by cases d <;> rfl

theorem sumOf_nan {d : Bool} {rm : BitVec 2} {fl : Bool} {p : Nat} {v : FVal} (h : (unpack (fmtOf d) p).isNan = true) :
    sumOf (fmtOf d) rm fl p v = exactRes (stdNan (fmtOf d)) := if_pos h

theorem sumOf_number {f : FloatFmt} {rm : BitVec 2} {fl : Bool} {p : Nat} {v : FVal} (h : (unpack f p).isNan = false) :
    sumOf f rm fl p v = addVal f rm fl (unpack f p) v := if_neg (by rw [h]; exact Bool.false_ne_true)

section NegResult

variable {f : FloatFmt} {r : FRes}

@[simp] theorem negResult_cause : (negResult f r).cause = r.cause := by
  unfold negResult
  split <;> rfl

theorem negResult_nan (h : (unpack f r.bits).isNan = true) : negResult f r = r := if_pos h

theorem negResult_bits : (negResult f r).bits =
    if (unpack f r.bits).isNan = true then r.bits else withSign f (!signOf f r.bits) (r.bits % 2 ^ (f.eb + f.fb)) := by
  unfold negResult
  split <;> rfl

end NegResult

section Madd

variable {s : State} {d sub neg : Bool} {fr fs ft : RegNum} {f : FloatFmt} {a b c : Nat}

/-- I of a multiply-add: a denormalized operand counts that the others do not make irrelevant (R779; log 41). -/
def State.MaddInexact (s : State) (f : FloatFmt) (a b c : Nat) : Prop :=
  s.flushMode = true ∧ (isDenorm f a = true ∨ isDenorm f b = true ∨ isDenorm f c = true) ∧
    maddDecided (unpack f c) (unpack f a) (unpack f b) (isDenorm f c) (isDenorm f a) (isDenorm f b) = false

/-- The operands leave the result open (R779): one that is denormalized is multiplied by an infinity, or no operand is an
infinity and not both the addend is exact and the product a zero. -/
theorem maddDecided_eq_false_iff {r v w : FVal} {rDen vDen wDen : Bool} :
    maddDecided r v w rDen vDen wDen = false ↔
      (r.isNan = false ∧ v.isNan = false ∧ w.isNan = false) ∧
        ((vDen = true ∧ w.isInf = true ∨ wDen = true ∧ v.isInf = true) ∨
          (r.isInf = false ∧ v.isInf = false ∧ w.isInf = false) ∧
            ¬ (rDen = false ∧ (wDen = true ∧ v.isZero = true ∨ vDen = true ∧ w.isZero = true))) := by
  unfold maddDecided
  grind

/-- The condition for I as the statement spells it out. -/
theorem maddInexact_iff : s.MaddInexact f a b c ↔
    (isDenorm f a = true ∨ isDenorm f b = true ∨ isDenorm f c = true) ∧
      s.flushMode = true ∧ s.Ordinary f a ∧ s.Ordinary f b ∧ s.Ordinary f c ∧
      ((∃ q, (isDenorm f a = true ∧ unpack f b = .inf q) ∨ (isDenorm f b = true ∧ unpack f a = .inf q)) ∨
        (∀ q, unpack f a ≠ .inf q ∧ unpack f b ≠ .inf q ∧ unpack f c ≠ .inf q) ∧
        ¬ (isDenorm f c = false ∧ ∃ q e, isDenorm f b = true ∧ unpack f a = .num q 0 e ∨
          isDenorm f a = true ∧ unpack f b = .num q 0 e)) := by
  have hopen : ((isDenorm f a = true ∧ (unpack f b).isInf = true ∨ isDenorm f b = true ∧ (unpack f a).isInf = true) ∨
      ((unpack f c).isInf = false ∧ (unpack f a).isInf = false ∧ (unpack f b).isInf = false) ∧
        ¬ (isDenorm f c = false ∧
          (isDenorm f b = true ∧ (unpack f a).isZero = true ∨ isDenorm f a = true ∧ (unpack f b).isZero = true))) ↔
      ((∃ q, (isDenorm f a = true ∧ unpack f b = .inf q) ∨ (isDenorm f b = true ∧ unpack f a = .inf q)) ∨
        (∀ q, unpack f a ≠ .inf q ∧ unpack f b ≠ .inf q ∧ unpack f c ≠ .inf q) ∧
        ¬ (isDenorm f c = false ∧ ∃ q e, isDenorm f b = true ∧ unpack f a = .num q 0 e ∨
          isDenorm f a = true ∧ unpack f b = .num q 0 e)) := by
    simp only [FVal.isInf_iff, FVal.isInf_eq_false_iff, FVal.isZero_iff, exists_or, exists_and_left, forall_and, and_rotate]
  unfold State.MaddInexact State.Ordinary
  rw [maddDecided_eq_false_iff, hopen]
  simp only [FVal.isNan_eq_false_iff]
  constructor
  · rintro ⟨hs, hden, ⟨hc, ha, hb⟩, h⟩
    exact ⟨hden, hs, ⟨ha, fun _ => hs⟩, ⟨hb, fun _ => hs⟩, ⟨hc, fun _ => hs⟩, h⟩
  · rintro ⟨hden, hs, ⟨ha, -⟩, ⟨hb, -⟩, ⟨hc, -⟩, h⟩
    exact ⟨hs, hden, ⟨hc, ha, hb⟩, h⟩

/-- The product step reads ordinary operands as the mode says. -/
theorem maddProduct_ordinary (ha : s.Ordinary f a) (hb : s.Ordinary f b) :
    maddProduct s f a b = mulVal f s.roundMode s.flushDenorm (s.operand f a) (s.operand f b) :=
  screened_ordinary (forall_mem_pair.2 ⟨ha, hb⟩)

/-- The product step on operands that are not ordinary (R776, R778, R779). -/
theorem maddProduct_unimplemented (hs : s.flushMode = false)
    (h : isDenorm f a = true ∨ isDenorm f b = true ∨ unpack f a = .nan false ∨ unpack f b = .nan false) :
    maddProduct s f a b = unimplemented := by
  have hab : ∃ x ∈ [a, b], isDenorm f x = true ∨ unpack f x = .nan false := exists_mem_pair.2 (by tauto)
  exact screened_unimplemented hs hab

theorem maddProduct_invalid (h : unpack f a = .nan true ∨ unpack f b = .nan true)
    (hs : s.flushMode = true ∨ isDenorm f a = false ∧ isDenorm f b = false ∧ unpack f a ≠ .nan false ∧ unpack f b ≠ .nan false) :
    maddProduct s f a b = invalid f := by
  have hab : ∃ x ∈ [a, b], unpack f x = .nan true := exists_mem_pair.2 h
  cases hfl : s.flushMode with
  | true => exact screened_flush_invalid hfl hab
  | false =>
    obtain ⟨hda, hdb, hqa, hqb⟩ := hs.resolve_left (by rw [hfl]; decide)
    exact screened_invalid hfl (forall_mem_pair.2 ⟨⟨hda, hqa⟩, hdb, hqb⟩) hab

theorem maddProduct_quiet (hs : s.flushMode = true) (ha : unpack f a ≠ .nan true) (hb : unpack f b ≠ .nan true)
    (h : unpack f a = .nan false ∨ unpack f b = .nan false) : maddProduct s f a b = exactRes (stdNan f) :=
  screened_flush_nan hs (forall_mem_pair.2 ⟨ha, hb⟩) (exists_mem_pair.2 h)

theorem maddSum_unimplemented {p : FRes} (h : p.cause.getLsbD 5 = true) : maddSum s f sub p c = p := if_pos h

/-- The sum step of a product that is implemented. -/
theorem maddSum_eq {p r : FRes} (h : p.cause.getLsbD 5 = false)
    (hr : screened s f [c] true (fun u =>
      sumOf f s.roundMode s.flushDenorm p.bits (if sub then negVal (u c) else u c)) = r) :
    maddSum s f sub p c = { r with cause := r.cause ||| p.cause } := by
  unfold maddSum
  rw [if_neg (by rw [h]; exact Bool.false_ne_true), hr]

/-- The sum step with an ordinary addend. -/
theorem maddSum_ordinary {p : FRes} (h : p.cause.getLsbD 5 = false) (hc : s.Ordinary f c) {y : FRes}
    (hy : y = sumOf f s.roundMode s.flushDenorm p.bits (if sub then negVal (s.operand f c) else s.operand f c)) :
    maddSum s f sub p c = { y with cause := y.cause ||| p.cause } :=
  maddSum_eq h ((screened_ordinary (List.forall_mem_singleton.2 hc)).trans hy.symm)

/-- The sum step of a product that is a NaN gives the standard NaN (R856). -/
theorem maddSum_nanProduct {p : FRes} (hf : f = fmtOf d) (h : p.cause.getLsbD 5 = false) (hc : s.Ordinary f c)
    (hp : (unpack f p.bits).isNan = true) : maddSum s f sub p c = { bits := stdNan f, cause := p.cause } := by
  subst hf
  rw [maddSum_ordinary h hc (sumOf_nan hp).symm]
  exact congrArg (FRes.mk _) BitVec.zero_or

/-- The sum step with a signaling addend is invalid (R776). -/
theorem maddSum_signaling {p : FRes} (h : p.cause.getLsbD 5 = false) (hproper : f.Proper) (hc : unpack f c = .nan true) :
    maddSum s f sub p c = { bits := stdNan f, cause := causeV ||| p.cause } := by
  refine maddSum_eq (r := invalid f) h ?_
  cases hs : s.flushMode with
  | true => exact screened_flush_invalid hs (exists_mem_one.2 hc)
  | false =>
    have hden : isDenorm f c = false := Bool.eq_false_iff.2 fun hd => not_nan_of_denorm hproper hd true hc
    exact screened_invalid hs (List.forall_mem_singleton.2 ⟨hden, by rw [hc]; decide⟩) (exists_mem_one.2 hc)

/-- In flush mode a quiet addend gives the standard NaN (R779). -/
theorem maddSum_quiet {p : FRes} (h : p.cause.getLsbD 5 = false) (hs : s.flushMode = true) (hc : unpack f c = .nan false) :
    maddSum s f sub p c = { bits := stdNan f, cause := p.cause } := by
  rw [maddSum_eq (r := exactRes (stdNan f)) h
    (screened_flush_nan hs (List.forall_mem_singleton.2 (by rw [hc]; decide)) (exists_mem_one.2 hc))]
  exact congrArg (FRes.mk _) BitVec.zero_or

/-- Outside it a quiet or denormalized addend is unimplemented (R778). -/
theorem maddSum_unimplementedAddend {p : FRes} (h : p.cause.getLsbD 5 = false) (hs : s.flushMode = false)
    (hc : isDenorm f c = true ∨ unpack f c = .nan false) : (maddSum s f sub p c).cause = causeE ||| p.cause := by
  have hone : ∃ x ∈ [c], isDenorm f x = true ∨ unpack f x = .nan false := exists_mem_one.2 hc
  rw [maddSum_eq (r := unimplemented) h (screened_unimplemented hs hone)]
  rfl

/-- What I of a multiply-add is. -/
def State.MaddCause (s : State) (f : FloatFmt) (a b c : Nat) (i : BitVec 6) : Prop :=
  (s.MaddInexact f a b c → i = causeI) ∧ (¬ s.MaddInexact f a b c → i = 0#6)

/-- An operand that is not ordinary raises no I. -/
theorem State.MaddCause.eq_zero {i : BitVec 6} (hi : s.MaddCause f a b c i)
    (h : s.Ordinary f a → s.Ordinary f b → s.Ordinary f c → False) : i = 0#6 :=
  hi.2 fun hinexact => by
    obtain ⟨-, -, ha, hb, hc, -⟩ := maddInexact_iff.1 hinexact
    exact h ha hb hc

section Results

variable {i : BitVec 6} {p : FRes} (hf : f = fmtOf d) (ha : a = s.fval d fs) (hb : b = s.fval d ft) (hc : c = s.fval d fr)
  (hi : s.MaddCause f a b c i)

include hf ha hb hc hi

/-- A multiply-add is its sum step, negated in the N forms, with I. -/
theorem fpMadd_eq {r : FRes} (hr : maddSum s f sub (maddProduct s f a b) c = r) :
    fpMadd d sub neg fr fs ft s = { bits := (if neg then negResult f r else r).bits, cause := r.cause ||| i } := by
  have hcond : (s.flushMode && [a, b, c].any (isDenorm f) &&
      !maddDecided (unpack f c) (unpack f a) (unpack f b) (isDenorm f c) (isDenorm f a) (isDenorm f b)) = true ↔
        s.MaddInexact f a b c := by
    unfold State.MaddInexact
    simp [and_assoc]
  have hcause : (if neg then negResult f r else r).cause = r.cause := by split <;> simp
  subst hf ha hb hc
  unfold fpMadd
  dsimp only
  rw [hr]
  split
  · next h => rw [hi.1 (hcond.1 h), hcause]
  · next h => rw [hi.2 (mt hcond.2 h), BitVec.or_zero, ← hcause]

theorem fpMadd_cause {k : BitVec 6} (hr : (maddSum s f sub (maddProduct s f a b) c).cause = k) :
    (fpMadd d sub neg fr fs ft s).cause = k ||| i := by
  rw [fpMadd_eq hf ha hb hc hi rfl, hr]

/-- A sum step that gives the standard NaN gives it in the N forms too. -/
theorem fpMadd_nan {k : BitVec 6} (hr : maddSum s f sub (maddProduct s f a b) c = { bits := stdNan f, cause := k }) :
    fpMadd d sub neg fr fs ft s = { bits := stdNan f, cause := k ||| i } := by
  have hnan : (unpack f (stdNan f)).isNan = true := by rw [hf, unpack_stdNan]; rfl
  rw [fpMadd_eq hf ha hb hc hi hr, negResult_nan (r := ⟨stdNan f, k⟩) hnan, ite_self]

/-- A product that is a NaN, with an ordinary addend. -/
theorem fpMadd_nanProduct (hp : maddProduct s f a b = p) (hE : p.cause.getLsbD 5 = false) (hoc : s.Ordinary f c)
    (hnan : (unpack f p.bits).isNan = true) :
    fpMadd d sub neg fr fs ft s = { bits := stdNan f, cause := p.cause ||| i } :=
  fpMadd_nan hf ha hb hc hi (by rw [hp]; exact maddSum_nanProduct hf hE hoc hnan)

/-- A product and an addend that are numbers or infinities: the sum, its sign inverted in the N forms unless it is a NaN. -/
theorem fpMadd_sum (hp : maddProduct s f a b = p) (hE : p.cause.getLsbD 5 = false) (hoc : s.Ordinary f c)
    (hnum : (unpack f p.bits).isNan = false) {y : FRes}
    (hy : y = addVal f s.roundMode s.flushDenorm (unpack f p.bits) (if sub then negVal (s.operand f c) else s.operand f c)) :
    (fpMadd d sub neg fr fs ft s).cause = y.cause ||| p.cause ||| i ∧
      (fpMadd d sub neg fr fs ft s).bits = if neg = true ∧ (unpack f y.bits).isNan = false
        then withSign f (!signOf f y.bits) (y.bits % 2 ^ (f.eb + f.fb)) else y.bits := by
  have hsum : maddSum s f sub (maddProduct s f a b) c = { y with cause := y.cause ||| p.cause } := by
    rw [hp]
    exact maddSum_ordinary hE hoc (hy.trans (sumOf_number hnum).symm)
  rw [fpMadd_eq hf ha hb hc hi hsum]
  refine ⟨rfl, ?_⟩
  cases neg with
  | false => rfl
  | true => simp only [if_true, negResult_bits, true_and, ← Bool.not_eq_true, ite_not]

end Results

end Madd

/-- Settles O55: the completions by `fpArith_completes` and `maddOp_completes`, the sign by `fpSign_eq`, the multiply-adds by the
kinds of their product and their addend. -/
theorem Settled.fpArith : Obligations.FpArith := by
  unfold Obligations.FpArith
  intro s fr ft fs fd hc
  refine ⟨?plain, fun h4 => ?mips4, fun d newSign f a r sign hf ha hr hsign => ?sign,
    fun d sub neg f a b c rm fl r u hf ha hb hc' hrm hfl hr hu ordinary z hord hz undecided i hund hi hi' => ?madd⟩
  case plain =>
    exact ⟨fpArith_completes hc rfl rfl, fpArith_completes hc rfl rfl, fpArith_completes hc rfl rfl,
      fpArith_completes hc rfl rfl, fpArith_completes hc rfl rfl, fpArith_completes hc rfl rfl, fpArith_completes hc rfl rfl,
      fpArith_completes hc rfl rfl, fpArith_completes hc rfl rfl, fpArith_completes hc rfl rfl, fpArith_completes hc rfl rfl,
      fpArith_completes hc rfl rfl, fpArith_completes hc rfl rfl, fpArith_completes hc rfl rfl⟩
  case mips4 =>
    exact ⟨fpArith_completes hc h4 rfl, fpArith_completes hc h4 rfl, fpArith_completes hc h4 rfl, fpArith_completes hc h4 rfl,
      maddOp_completes hc h4 rfl, maddOp_completes hc h4 rfl, maddOp_completes hc h4 rfl, maddOp_completes hc h4 rfl,
      maddOp_completes hc h4 rfl, maddOp_completes hc h4 rfl, maddOp_completes hc h4 rfl, maddOp_completes hc h4 rfl⟩
  case sign =>
    have hproper : f.Proper := hf ▸ fmtOf_proper d
    rw [fpSign_eq hf ha, ← hsign] at hr
    refine ⟨fun h => by rw [hr, if_pos h], fun h => ?quiet, fun hd hs => ?denorm, fun hn hd => ?number⟩
    case quiet =>
      rw [if_neg (by rw [h]; decide), if_pos h] at hr
      split
      · next hs => rw [hr, if_pos hs]
      · next hs => rw [hr, if_neg hs]; rfl
    case denorm =>
      rw [if_neg (not_nan_of_denorm hproper hd true), if_neg (not_nan_of_denorm hproper hd false), if_pos ⟨hd, hs⟩] at hr
      rw [hr]
      exact ⟨rfl, rfl⟩
    case number =>
      rw [if_neg (hn true), if_neg (hn false), if_neg (by rintro ⟨h1, h2⟩; simp [h1, h2] at hd)] at hr
      rw [hr]
      exact ⟨rfl, rfl⟩
  case madd =>
    subst hrm hfl
    obtain rfl : ordinary = s.Ordinary f := funext fun y => propext (hord y)
    have hproper : f.Proper := hf ▸ fmtOf_proper d
    obtain rfl : u = s.operand f := funext fun y => (hu y).trans (s.operand_eq hproper y).symm
    have hcause : s.MaddCause f a b c i :=
      ⟨fun h => hi (hund.2 (maddInexact_iff.1 h)), fun h => hi' (mt hund.1 (mt maddInexact_iff.2 h))⟩
    have hstd : (unpack f (stdNan f)).isNan = true := by rw [hf, unpack_stdNan]; rfl
    have nan {k : BitVec 6} := fpMadd_nan (sub := sub) (neg := neg) (k := k) hf ha hb hc' hcause
    have withCause {k : BitVec 6} := fpMadd_cause (sub := sub) (neg := neg) (k := k) hf ha hb hc' hcause
    rw [hr]
    clear hi hi' hund hord hu hr
    refine ⟨fun hs h => ?unimplemented, fun h hoc hs => ?invalid, fun hs hsa hsb h hoc => ?quiet, fun hoa hob p hp => ?product⟩
    case unimplemented =>
      have hprod := maddProduct_unimplemented hs h
      have hi0 : i = 0#6 := hcause.eq_zero fun hoa hob _ => by
        have hoff : ¬ s.flushMode = true := by rw [hs]; exact Bool.false_ne_true
        exact h.elim (mt hoa.2 hoff) fun h => h.elim (mt hob.2 hoff) fun h => h.elim (hoa.1 _) (hob.1 _)
      rw [withCause (k := causeE) (by rw [hprod, maddSum_unimplemented rfl]; rfl), hi0]
      rfl
    case invalid =>
      have hE : (invalid f).cause.getLsbD 5 = false := (by decide : causeV.getLsbD 5 = false)
      rw [fpMadd_nanProduct hf ha hb hc' hcause (maddProduct_invalid h hs) hE hoc hstd,
        hcause.eq_zero fun hoa hob _ => h.elim (hoa.1 _) (hob.1 _), BitVec.or_zero]
      rfl
    case quiet =>
      have hE : (exactRes (stdNan f)).cause.getLsbD 5 = false := (by decide : (0#6).getLsbD 5 = false)
      rw [fpMadd_nanProduct hf ha hb hc' hcause (maddProduct_quiet hs hsa hsb h) hE hoc hstd,
        hcause.eq_zero fun hoa hob _ => h.elim (hoa.1 _) (hob.1 _), BitVec.or_zero]
      rfl
    case product =>
      have hprod : maddProduct s f a b = p := (maddProduct_ordinary hoa hob).trans hp.symm
      rw [hprod] at nan withCause
      refine ⟨fun hE => withCause (by rw [maddSum_unimplemented hE]), fun hE => ⟨fun h => ?signaling, fun h => ?quietAddend,
        fun hd hs => ?denorm, fun hoc => ⟨fun q h => ?nanProduct, fun h y hy => ?sum⟩⟩⟩
      case signaling =>
        rw [nan (maddSum_signaling hE hproper h), hcause.eq_zero fun _ _ hoc => hoc.1 _ h, BitVec.or_zero]
      case quietAddend =>
        have hi0 : i = 0#6 := hcause.eq_zero fun _ _ hoc => hoc.1 _ h
        split
        · next hs => rw [nan (maddSum_quiet hE hs h), hi0, BitVec.or_zero]
        · next hs =>
          rw [withCause (maddSum_unimplementedAddend hE (Bool.eq_false_iff.2 hs) (.inr h)), hi0, BitVec.or_zero]
      case denorm =>
        have hi0 : i = 0#6 := hcause.eq_zero fun _ _ hoc => Bool.false_ne_true (hs.symm.trans (hoc.2 hd))
        rw [withCause (maddSum_unimplementedAddend hE hs (.inl hd)), hi0, BitVec.or_zero]
      case nanProduct => exact fpMadd_nanProduct hf ha hb hc' hcause hprod hE hoc (FVal.isNan_iff.2 ⟨q, h⟩)
      case sum =>
        simp only [← FVal.isNan_eq_false_iff] at h ⊢
        exact fpMadd_sum hf ha hb hc' hcause hprod hE hoc h (hz ▸ hy)

end Sys2Proof.Machine
end

section
/-! PROOFS. The conversions (O56) of `47_fpu_instructions.md`: each completes by `fpArith_completes`; what its result is for each
kind of operand. -/

namespace Sys2Proof.Machine

/-! ## Conversion to an integer (R780) -/

section ToFixed

variable {s : State} {d : Bool} {n : Nat} {limit : Option Nat} {rm : BitVec 2} {fs : RegNum} {f : FloatFmt} {a : Nat}

theorem fpToFixed_eq (hf : f = fmtOf d) (ha : a = s.fval d fs) : fpToFixed d n limit rm fs s =
    if isDenorm f a = true then (if s.flushMode then { bits := 0, cause := causeI } else unimplemented)
    else toFixed n limit rm (unpack f a) := by
  subst hf ha
  rfl

/-- A NaN and an infinity are unimplemented. -/
theorem toFixed_special {v : FVal} {q : Bool} (h : v = .nan q ∨ v = .inf q) : toFixed n limit rm v = unimplemented := by
  obtain rfl | rfl := h <;> rfl

/-- The integers of a two's-complement format of at least one bit. -/
theorem inRange_none_iff {x : Int} : inRange n none x = true ↔ fits n x := by
  unfold inRange fits
  rw [Bool.and_true, decide_eq_true_iff]
  push_cast
  rfl

theorem inRange_some {k : Nat} {x : Int} : inRange n (some k) x = (inRange n none x && decide (x.natAbs < 2 ^ k)) := by
  unfold inRange
  rw [Bool.and_true]

/-- A number rounded to an integer. -/
theorem toFixed_num (q : Bool) (m : Nat) (e : Int) : toFixed n limit rm (.num q m e) =
    if inRange n limit (toIntRounded rm q m e).1 then
      { bits := (BitVec.ofInt n (toIntRounded rm q m e).1).toNat, cause := if (toIntRounded rm q m e).2 then causeI else 0#6 }
    else unimplemented := rfl

theorem toInt_ofInt_of_fits {x : Int} (hn : 0 < n) (h : fits n x) : (BitVec.ofInt n x).toInt = x := by
  rw [BitVec.toInt_ofInt, bmod_of_fits hn h]

/-- The limit of the hardware cuts the results of the format that has none (U30; log 79). -/
theorem toFixed_limit {k : Nat} {v : FVal} {r : FRes} (hn : 0 < n) (hr : r = toFixed n none rm v) :
    toFixed n (some k) rm v =
      if r.cause.getLsbD 5 = false ∧ (BitVec.ofNat n r.bits).toInt.natAbs < 2 ^ k then r else unimplemented := by
  subst hr
  cases v with
  | nan q | inf q => exact (ite_self unimplemented).symm
  | num q m e =>
    rw [toFixed_num, toFixed_num, inRange_some]
    generalize toIntRounded rm q m e = x
    cases hrange : inRange n none x.1 with
    | false => exact (ite_self unimplemented).symm
    | true =>
      have hcause : (if x.2 then causeI else 0#6).getLsbD 5 = false := by split <;> decide
      simp only [Bool.true_and, if_true, hcause, true_and, BitVec.ofNat_toNat, BitVec.setWidth_eq,
        toInt_ofInt_of_fits hn (inRange_none_iff.1 hrange), decide_eq_true_eq]

end ToFixed

/-! ## Conversion between the formats (R846, R847) -/

section ToFormat

variable {s : State} {d : Bool} {fs : RegNum} {f g : FloatFmt} {a : Nat}

theorem toFormat_zero (f : FloatFmt) (rm : BitVec 2) (fl q : Bool) (e : Int) :
    toFormat f rm fl (.num q 0 e) = exactRes (withSign f q 0) := rfl

/-- A conversion of a NaN gives the standard NaN of the other format, unless it is unimplemented. -/
theorem fpToFormat_nan (hf : f = fmtOf d) (hg : g = fmtOf !d) (ha : a = s.fval d fs) (h : (unpack f a).isNan = true)
    {r : FRes} (hr : screened s f [a] false (fun u => toFormat g s.roundMode s.flushDenorm (u a)) = r) :
    fpToFormat d fs s = if r.cause.getLsbD 5 = false then { r with bits := stdNan g } else r := by
  subst hf hg ha
  unfold fpToFormat
  dsimp only
  rw [hr, h]
  simp only [Bool.true_and, Bool.not_eq_true']

theorem fpToFormat_number (hf : f = fmtOf d) (hg : g = fmtOf !d) (ha : a = s.fval d fs) (h : (unpack f a).isNan = false) :
    fpToFormat d fs s = screened s f [a] false fun u => toFormat g s.roundMode s.flushDenorm (u a) := by
  subst hf hg ha
  unfold fpToFormat
  dsimp only
  rw [h]
  rfl

/-- A number that is not denormalized is read as it is, in either mode. -/
theorem fpToFormat_exact (hf : f = fmtOf d) (hg : g = fmtOf !d) (ha : a = s.fval d fs) (h : (unpack f a).isNan = false)
    (hd : isDenorm f a = false) : fpToFormat d fs s = toFormat g s.roundMode s.flushDenorm (unpack f a) := by
  have hn := FVal.isNan_eq_false_iff.1 h
  rw [fpToFormat_number hf hg ha h]
  cases hs : s.flushMode with
  | true =>
    have hproper : f.Proper := hf ▸ fmtOf_proper d
    rw [(screened_flush_one hs hn).2 (by rw [hd]; decide), flushedVal_eq hproper, hd, if_neg Bool.false_ne_true]
  | false => exact screened_exact hs (List.forall_mem_singleton.2 ⟨hd, hn⟩)

end ToFormat

/-! ## Conversion of an integer -/

theorem ofIntRounded_zero (f : FloatFmt) (rm : BitVec 2) : ofIntRounded f rm 0 = exactRes 0 := rfl

section OfLong

variable {s : State} {d : Bool} {fs : RegNum} {v : Int}

theorem fpOfLong_unlimited (hv : v = (s.readD fs).toInt) (h : s.hw.longConvLimit = none) :
    fpOfLong d fs s = ofIntRounded (fmtOf d) s.roundMode v := by
  subst hv
  unfold fpOfLong
  rw [h, if_pos (inRange_none_iff.2 (toInt_bounds _))]

/-- The limit of the hardware cuts the operands (R780, U30; log 79). -/
theorem fpOfLong_limited {k : Nat} (hv : v = (s.readD fs).toInt) (h : s.hw.longConvLimit = some k) :
    fpOfLong d fs s = if v.natAbs < 2 ^ k then ofIntRounded (fmtOf d) s.roundMode v else unimplemented := by
  subst hv
  unfold fpOfLong
  rw [h, inRange_some, inRange_none_iff.2 (toInt_bounds _), Bool.true_and]
  simp only [decide_eq_true_eq]

theorem fpOfLong_zero (h : (s.readD fs).toInt = 0) : fpOfLong d fs s = exactRes 0 := by
  cases hl : s.hw.longConvLimit with
  | none => exact fpOfLong_unlimited h.symm hl
  | some k => exact (fpOfLong_limited h.symm hl).trans (if_pos (Nat.two_pow_pos k))

end OfLong

/-- Settles O56: the completions by `fpArith_completes`, the results by the lemmas on the three kinds of conversion. -/
theorem fpConvert : Obligations.FpConvert := by
  unfold Obligations.FpConvert
  intro s fs fd hc
  refine ⟨?toWord, fun h3 => ?toLong, fpArith_completes hc rfl rfl, fpArith_completes hc rfl rfl, fpArith_completes hc rfl rfl,
    fpArith_completes hc rfl rfl, fun h3 => ⟨fpArith_completes hc h3 rfl, fpArith_completes hc h3 rfl⟩,
    fun d n limit rm f a r hf ha hr => ?fixed, fun d f g a r hf hg ha hr => ?format, fun d f hf => ?integer⟩
  case toWord =>
    intro i d rm hi
    obtain ⟨mode, rfl, he⟩ : ∃ mode : State → BitVec 2, mode s = rm ∧ exec i s = toWordOp d mode fs fd s := by
      revert i d rm
      refine forall_mem_triples ?_
      simp only [List.forall_mem_cons, List.not_mem_nil, false_imp_iff, implies_true, and_true]
      exact ⟨⟨fun _ => 0#2, rfl, rfl⟩, ⟨fun _ => 0#2, rfl, rfl⟩, ⟨fun _ => 1#2, rfl, rfl⟩, ⟨fun _ => 1#2, rfl, rfl⟩,
        ⟨fun _ => 2#2, rfl, rfl⟩, ⟨fun _ => 2#2, rfl, rfl⟩, ⟨fun _ => 3#2, rfl, rfl⟩, ⟨fun _ => 3#2, rfl, rfl⟩,
        ⟨State.roundMode, rfl, rfl⟩, ⟨State.roundMode, rfl, rfl⟩⟩
    exact fpArith_completes (r := fun s => fpToFixed d 32 none (mode s) fs s) hc rfl he
  case toLong =>
    intro i d rm hi
    obtain ⟨mode, rfl, he⟩ : ∃ mode : State → BitVec 2, mode s = rm ∧ exec i s = toLongOp d mode fs fd s := by
      revert i d rm
      refine forall_mem_triples ?_
      simp only [List.forall_mem_cons, List.not_mem_nil, false_imp_iff, implies_true, and_true]
      exact ⟨⟨fun _ => 0#2, rfl, rfl⟩, ⟨fun _ => 0#2, rfl, rfl⟩, ⟨fun _ => 1#2, rfl, rfl⟩, ⟨fun _ => 1#2, rfl, rfl⟩,
        ⟨fun _ => 2#2, rfl, rfl⟩, ⟨fun _ => 2#2, rfl, rfl⟩, ⟨fun _ => 3#2, rfl, rfl⟩, ⟨fun _ => 3#2, rfl, rfl⟩,
        ⟨State.roundMode, rfl, rfl⟩, ⟨State.roundMode, rfl, rfl⟩⟩
    exact fpArith_completes (r := fun s => fpToFixed d 64 s.hw.longConvLimit (mode s) fs s) hc h3 he
  case fixed =>
    rw [fpToFixed_eq hf ha] at hr
    refine ⟨fun hd => ?denorm, fun hd => ?number⟩
    case denorm =>
      rw [if_pos hd] at hr
      split
      · next hs => rw [hr, if_pos hs]
      · next hs => rw [hr, if_neg hs]; rfl
    case number =>
      rw [if_neg (by rw [hd]; exact Bool.false_ne_true)] at hr
      refine ⟨fun q h => by rw [hr, toFixed_special h]; rfl, fun h => h ▸ hr, fun k v h hv hn => ?_⟩
      rw [hr, h]
      exact toFixed_limit (by omega) hv
  case format =>
    have hproper : f.Proper := hf ▸ fmtOf_proper d
    have nan {x : FRes} (q : Bool) (h : unpack f a = .nan q)
        (hx : screened s f [a] false (fun u => toFormat g s.roundMode s.flushDenorm (u a)) = x) :
        r = if x.cause.getLsbD 5 = false then { x with bits := stdNan g } else x :=
      hr.trans (fpToFormat_nan hf hg ha (FVal.isNan_iff.2 ⟨q, h⟩) hx)
    have exact' {v : FVal} (h : unpack f a = v) (hv : v.isNan = false) (hd : isDenorm f a = false) :
        r = toFormat g s.roundMode s.flushDenorm v :=
      h ▸ hr.trans (fpToFormat_exact hf hg ha (h ▸ hv) hd)
    refine ⟨fun h => ?signaling, fun h => ?quiet, fun hd => ?denorm, fun q h => exact' h rfl ?inf, fun q e h => ?zero,
      fun q m e h hd => h ▸ exact' h rfl hd⟩
    case signaling =>
      have hd : isDenorm f a = false := Bool.eq_false_iff.2 fun hd => not_nan_of_denorm hproper hd true h
      have hx : screened s f [a] false (fun u => toFormat g s.roundMode s.flushDenorm (u a)) = invalid f := by
        cases hs : s.flushMode with
        | true => exact screened_flush_invalid hs (exists_mem_one.2 h)
        | false => exact screened_invalid hs (List.forall_mem_singleton.2 ⟨hd, by rw [h]; decide⟩) (exists_mem_one.2 h)
      exact (nan true h hx).trans (if_pos (by decide : causeV.getLsbD 5 = false))
    case quiet =>
      split
      · next hs =>
        exact (nan false h (screened_flush_nan hs (List.forall_mem_singleton.2 (by rw [h]; decide)) (exists_mem_one.2 h))).trans
          (if_pos (by decide : (0#6).getLsbD 5 = false))
      · next hs =>
        have hx : ∃ x ∈ [a], isDenorm f x = true ∨ unpack f x = .nan false := exists_mem_one.2 (.inr h)
        rw [nan false h (screened_unimplemented (Bool.eq_false_iff.2 hs) hx)]
        rfl
    case denorm =>
      have hn := not_nan_of_denorm hproper hd
      rw [fpToFormat_number hf hg ha (FVal.isNan_eq_false_iff.2 hn)] at hr
      split
      · next hs =>
        rw [hr, (screened_flush_one hs hn).1 hd, flushedVal_eq hproper, if_pos hd, toFormat_zero]
        exact congrArg (FRes.mk _) BitVec.zero_or
      · next hs =>
        have hx : ∃ x ∈ [a], isDenorm f x = true ∨ unpack f x = .nan false := exists_mem_one.2 (.inl hd)
        rw [hr, screened_unimplemented (Bool.eq_false_iff.2 hs) hx]
        rfl
    case inf => exact Bool.eq_false_iff.2 fun hd => not_inf_of_denorm hproper hd q h
    case zero => exact (exact' h rfl (isDenorm_of_zero hproper h)).trans (toFormat_zero _ _ _ _ _)
  case integer =>
    subst hf
    refine ⟨fun _ => rfl, fun h => ?_, fpOfLong_zero, fun v hv _ => ⟨fpOfLong_unlimited hv, fun k => fpOfLong_limited hv⟩⟩
    unfold fpOfWord
    rw [h, ofIntRounded_zero]

end Sys2Proof.Machine
end

section
/-! PROOFS. Correct rounding (O60; `46_fpu.md` R768, R776, R777, R780).  The exact result is a real number; rounding it picks one
of two neighbours in the format (`roundsTo_magnitude`), and `roundShift` picks the same (`roundShift_spec`).  Each operation
then gives `roundTo` the magnitude of its exact result. -/

namespace Sys2Proof.Machine

/-! ## Rounding to one of two neighbours (R768) -/

/-- Two numbers of a set with none of the set between them. -/
structure Neighbours (rep : ℚ → Prop) (lo hi : ℚ) : Prop where
  low  : rep lo
  high : rep hi
  lt   : lo < hi
  gap  : ∀ w, rep w → w ≤ lo ∨ hi ≤ w

/-- The rational numbers below and above a real number. -/
structure Cut (le ge : ℚ → Prop) (x : ℝ) : Prop where
  le_iff : ∀ q, le q ↔ (q : ℝ) ≤ x
  ge_iff : ∀ q, ge q ↔ x ≤ (q : ℝ)

theorem Cut.rat (a : ℚ) : Cut (· ≤ a) (a ≤ ·) (a : ℝ) :=
  ⟨fun _ => Rat.cast_le.symm, fun _ => Rat.cast_le.symm⟩

/-- The direction of a mode that is not to nearest: toward zero is down for a positive number and up for a negative one. -/
def directed (rm : BitVec 2) (neg : Bool) : BitVec 2 := if rm = 1#2 then (if neg then 2#2 else 3#2) else rm

section Neighbours

variable {rep even le ge : ℚ → Prop} {lo hi : ℚ} {x : ℝ} {rm : BitVec 2} {neg : Bool}

theorem Neighbours.mirror (h : Neighbours rep lo hi) (hsymm : ∀ w, rep w → rep (-w)) : Neighbours rep (-hi) (-lo) where
  low := hsymm hi h.high
  high := hsymm lo h.low
  lt := neg_lt_neg h.lt
  gap w hw := by
    have := h.gap (-w) (hsymm w hw)
    exact this.symm.imp (fun h => by linarith) (fun h => by linarith)

theorem mode_cases : ∀ rm : BitVec 2, rm = 0#2 ∨ rm = 1#2 ∨ rm = 2#2 ∨ rm = 3#2 := by decide

theorem roundsTo_iff : roundsTo rep even rm neg le ge lo ↔ rep lo ∧
    (directed rm neg = 0#2 → ∀ w, rep w →
      (lo < w → ge ((lo + w) / 2) ∧ (le ((lo + w) / 2) → even lo)) ∧
      (w < lo → le ((lo + w) / 2) ∧ (ge ((lo + w) / 2) → even lo))) ∧
    (directed rm neg = 2#2 → ge lo ∧ ∀ w, rep w → ge w → lo ≤ w) ∧
    (directed rm neg = 3#2 → le lo ∧ ∀ w, rep w → le w → w ≤ lo) := by
  have hne : directed rm neg = 0#2 ∨ directed rm neg = 2#2 ∨ directed rm neg = 3#2 := by
    revert rm neg; decide
  unfold roundsTo
  change (rep lo ∧ match directed rm neg with | 0#2 => _ | 2#2 => _ | _ => _) ↔ _
  obtain h | h | h := hne <;> rw [h] <;> simp

/-- The lower neighbour is the rounding of a number nearer to it, and toward it. -/
theorem roundsTo_low (n : Neighbours rep lo hi) (c : Cut le ge x) (hlo : (lo : ℝ) ≤ x)
    (hnear : directed rm neg = 0#2 → x < (lo + hi) / 2 ∨ x = (lo + hi) / 2 ∧ even lo)
    (hup : directed rm neg = 2#2 → x = lo) (hdown : directed rm neg = 3#2 → x < hi) : roundsTo rep even rm neg le ge lo := by
  refine roundsTo_iff.2 ⟨n.low, fun h w hw => ⟨fun hlt => ?above, fun hlt => ?below⟩, fun h => ?up, fun h => ?down⟩
  case above =>
    have hhw : (hi : ℝ) ≤ w := Rat.cast_le.2 ((n.gap w hw).resolve_left hlt.not_ge)
    refine ⟨(c.ge_iff _).2 ?_, fun hle => ?_⟩
    · push_cast
      rcases hnear h with hx | ⟨hx, -⟩ <;> linarith
    · have hle' := (c.le_iff _).1 hle
      push_cast at hle'
      exact (hnear h).elim (fun hx => by linarith) And.right
  case below =>
    have hwl : (w : ℝ) < lo := Rat.cast_lt.2 hlt
    refine ⟨(c.le_iff _).2 (by push_cast; linarith), fun hge => ?_⟩
    have hge' := (c.ge_iff _).1 hge
    push_cast at hge'
    linarith
  case up =>
    refine ⟨(c.ge_iff _).2 (hup h).le, fun w hw hge => ?_⟩
    have hge' := (c.ge_iff _).1 hge
    rw [hup h] at hge'
    exact Rat.cast_le.1 hge'
  case down =>
    refine ⟨(c.le_iff _).2 hlo, fun w hw hle => (n.gap w hw).resolve_right fun hhw => ?_⟩
    have hle' := (c.le_iff _).1 hle
    have hhw' : (hi : ℝ) ≤ w := Rat.cast_le.2 hhw
    linarith [hdown h]

/-- The upper neighbour is the rounding of a number nearer to it, and toward it. -/
theorem roundsTo_high (n : Neighbours rep lo hi) (c : Cut le ge x) (hhi : x ≤ hi)
    (hnear : directed rm neg = 0#2 → (lo + hi) / 2 < x ∨ x = (lo + hi) / 2 ∧ even hi)
    (hup : directed rm neg = 2#2 → lo < x) (hdown : directed rm neg = 3#2 → x = hi) : roundsTo rep even rm neg le ge hi := by
  refine roundsTo_iff.2 ⟨n.high, fun h w hw => ⟨fun hlt => ?above, fun hlt => ?below⟩, fun h => ?up, fun h => ?down⟩
  case above =>
    have hhw : (hi : ℝ) < w := Rat.cast_lt.2 hlt
    refine ⟨(c.ge_iff _).2 (by push_cast; linarith), fun hle => ?_⟩
    have hle' := (c.le_iff _).1 hle
    push_cast at hle'
    linarith
  case below =>
    have hwl : (w : ℝ) ≤ lo := Rat.cast_le.2 ((n.gap w hw).resolve_right hlt.not_ge)
    refine ⟨(c.le_iff _).2 ?_, fun hge => ?_⟩
    · push_cast
      rcases hnear h with hx | ⟨hx, -⟩ <;> linarith
    · have hge' := (c.ge_iff _).1 hge
      push_cast at hge'
      exact (hnear h).elim (fun hx => by linarith) And.right
  case up =>
    refine ⟨(c.ge_iff _).2 hhi, fun w hw hge => (n.gap w hw).resolve_left fun hwl => ?_⟩
    have hge' := (c.ge_iff _).1 hge
    have hwl' : (w : ℝ) ≤ lo := Rat.cast_le.2 hwl
    linarith [hup h]
  case down =>
    refine ⟨(c.le_iff _).2 (hdown h).ge, fun w hw hle => ?_⟩
    have hle' := (c.le_iff _).1 hle
    rw [hdown h] at hle'
    exact Rat.cast_le.1 hle'

end Neighbours

/-! ## The model's choice between the neighbours of a magnitude -/

/-- What `roundsUp` decides, mode by mode. -/
theorem roundsUp_iff {rm : BitVec 2} {neg odd inexact : Bool} {cmp : Ordering} : roundsUp rm neg odd cmp inexact = true ↔
    rm = 0#2 ∧ (cmp = .gt ∨ cmp = .eq ∧ odd = true) ∨ rm = 2#2 ∧ inexact = true ∧ neg = false ∨
      rm = 3#2 ∧ inexact = true ∧ neg = true := by
  obtain rfl | rfl | rfl | rfl := mode_cases rm <;> simp [roundsUp]

section Magnitude

variable {rep even le ge : ℚ → Prop} {lo hi : ℚ} {y : ℝ} {rm : BitVec 2} {neg odd : Bool}

/-- A sign as a factor. -/
def signed (neg : Bool) (v : ℚ) : ℚ := if neg then -v else v

theorem directed_nearest : ∀ {rm : BitVec 2} {neg : Bool}, directed rm neg = 0#2 → rm = 0#2 := by decide

theorem directed_positive : ∀ {rm : BitVec 2}, (directed rm false = 2#2 → rm = 2#2) ∧
    (directed rm false = 3#2 → rm = 1#2 ∨ rm = 3#2) := by decide

theorem directed_negative : ∀ {rm : BitVec 2}, (directed rm true = 2#2 → rm = 1#2 ∨ rm = 2#2) ∧
    (directed rm true = 3#2 → rm = 3#2) := by decide

/-- Rounding a magnitude between two neighbours by `roundsUp`, and giving it its sign, is the rounding of the signed number. -/
theorem roundsTo_magnitude (n : Neighbours rep lo hi) (hrep : ∀ w, rep w → rep (-w)) (heven : ∀ w, even w → even (-w))
    (hlo : (lo : ℝ) ≤ y) (hhi : y < hi) (c : Cut le ge (if neg then -y else y)) (hevenLo : odd = false → even lo)
    (hevenHi : odd = true → even hi) {up : Bool} (hup : up = roundsUp rm neg odd (cmp y ((lo + hi) / 2)) (decide (y ≠ lo))) :
    roundsTo rep even rm neg le ge (signed neg (if up then hi else lo)) := by
  have hle : y ≠ lo ↔ (lo : ℝ) < y := ⟨fun h => lt_of_le_of_ne hlo h.symm, fun h => h.ne'⟩
  have hchoice : up = true ↔ rm = 0#2 ∧ ((lo + hi : ℝ) / 2 < y ∨ y = (lo + hi) / 2 ∧ odd = true) ∨
      rm = 2#2 ∧ (lo : ℝ) < y ∧ neg = false ∨ rm = 3#2 ∧ (lo : ℝ) < y ∧ neg = true := by
    rw [hup, roundsUp_iff, cmp_eq_gt_iff, cmp_eq_eq_iff, decide_eq_true_iff, hle]
  have hclose (h : ¬ ((lo + hi : ℝ) / 2 < y ∨ y = (lo + hi) / 2 ∧ odd = true)) :
      y < (lo + hi) / 2 ∨ y = (lo + hi) / 2 ∧ even lo := by
    obtain ⟨h1, h2⟩ := not_or.1 h
    rcases lt_or_eq_of_le (not_lt.1 h1) with h3 | h3
    · exact .inl h3
    · exact .inr ⟨h3, hevenLo (Bool.eq_false_iff.2 fun ho => h2 ⟨h3, ho⟩)⟩
  have hfar (h : (lo + hi : ℝ) / 2 < y ∨ y = (lo + hi) / 2 ∧ odd = true) :
      (lo + hi : ℝ) / 2 < y ∨ y = (lo + hi) / 2 ∧ even hi := h.imp_right fun ⟨h1, h2⟩ => ⟨h1, hevenHi h2⟩
  cases up with
  | false =>
    have hno := mt hchoice.2 Bool.false_ne_true
    rw [if_neg Bool.false_ne_true]
    cases neg with
    | false =>
      change roundsTo rep even rm false le ge lo
      change Cut le ge y at c
      refine roundsTo_low n c hlo (fun h => hclose fun h' => hno (.inl ⟨directed_nearest h, h'⟩)) (fun h => ?_) (fun _ => hhi)
      exact le_antisymm (not_lt.1 fun h' => hno (.inr (.inl ⟨directed_positive.1 h, h', rfl⟩))) hlo
    | true =>
      change roundsTo rep even rm true le ge (-lo)
      change Cut le ge (-y) at c
      refine roundsTo_high (n.mirror hrep) c (by push_cast; exact neg_le_neg hlo) (fun h => ?_) (fun _ => ?_) (fun h => ?_)
      · push_cast
        refine (hclose fun h' => hno (.inl ⟨directed_nearest h, h'⟩)).imp (fun h' => ?_) (fun ⟨h', he⟩ => ⟨?_, heven _ he⟩)
        · linarith
        · linarith
      · push_cast
        exact neg_lt_neg hhi
      · have : ¬ (lo : ℝ) < y := fun h' => hno (.inr (.inr ⟨directed_negative.2 h, h', rfl⟩))
        push_cast
        exact congrArg Neg.neg (le_antisymm (not_lt.1 this) hlo)
  | true =>
    have hyes := hchoice.1 rfl
    rw [if_pos rfl]
    cases neg with
    | false =>
      change roundsTo rep even rm false le ge hi
      change Cut le ge y at c
      refine roundsTo_high n c hhi.le (fun h => ?_) (fun h => ?_) (fun h => ?_)
      · have hrm := directed_nearest h
        subst hrm
        exact hfar (by simpa using hyes)
      · have hrm := directed_positive.1 h
        subst hrm
        simpa using hyes
      · rcases directed_positive.2 h with rfl | rfl <;> simp at hyes
    | true =>
      change roundsTo rep even rm true le ge (-hi)
      change Cut le ge (-y) at c
      refine roundsTo_low (n.mirror hrep) c (by push_cast; exact neg_le_neg hhi.le) (fun h => ?_) (fun h => ?_) (fun h => ?_)
      · have hrm := directed_nearest h
        subst hrm
        push_cast
        refine (hfar (by simpa using hyes)).imp (fun h' => ?_) (fun ⟨h', he⟩ => ⟨?_, heven _ he⟩)
        · linarith
        · linarith
      · rcases directed_negative.1 h with rfl | rfl <;> simp at hyes
      · have hrm := directed_negative.2 h
        subst hrm
        push_cast
        exact neg_lt_neg (by simpa using hyes)

end Magnitude

/-! ## Rounding an integer part (`roundShift`) -/

/-- `mant` with `sticky` stands for the real number `y`: it is its integer part, and `sticky` says that there is more. -/
structure Magnitude (mant : Nat) (sticky : Bool) (y : ℝ) : Prop where
  ge    : (mant : ℝ) ≤ y
  lt    : y < mant + 1
  exact : sticky = false ↔ y = mant

theorem Magnitude.nat (m : Nat) : Magnitude m false m := ⟨le_rfl, by simp, by simp⟩

/-- How a number compares with the middle above an integer part, from the model's integers. -/
theorem cmp_middle {mant k : Nat} {sticky : Bool} {y z : ℝ} (h : Magnitude mant sticky y) (hk : sticky = true → 0 < k)
    (hz : y = z * 2 ^ k) : cmp z ((mant / 2 ^ k : Nat) + 1 / 2) =
      if 2 * (mant % 2 ^ k) > 2 ^ k then .gt
      else if 2 * (mant % 2 ^ k) = 2 ^ k then (if sticky then .gt else .eq)
      else .lt := by
  have hpos : (0 : ℝ) < 2 ^ k := by positivity
  have hsplit : (mant : ℝ) = (mant / 2 ^ k : Nat) * 2 ^ k + (mant % 2 ^ k : Nat) := by
    exact_mod_cast (Nat.div_add_mod' mant (2 ^ k)).symm
  set q := mant / 2 ^ k
  set r := mant % 2 ^ k
  have hscale : cmp z ((q : ℝ) + 1 / 2) = cmp (2 * (y - q * 2 ^ k)) (2 ^ k) := by
    have hmono : StrictMono fun w : ℝ => 2 * (w * 2 ^ k - q * 2 ^ k) := fun a b hab => by
      have := mul_lt_mul_of_pos_right hab hpos
      simp only; linarith
    rw [← hmono.cmp_map_eq, hz]
    congr 1
    ring
  rw [hscale]
  have hge := h.ge
  have hlt := h.lt
  split
  case isTrue hr =>
    have : ((2 ^ k : Nat) : ℝ) < (2 * r : Nat) := Nat.cast_lt.2 hr
    push_cast at this
    exact cmp_eq_gt_iff _ _ |>.2 (by linarith)
  case isFalse hr =>
    split
    case isTrue hr =>
      have : ((2 * r : Nat) : ℝ) = (2 ^ k : Nat) := congrArg _ hr
      push_cast at this
      cases sticky with
      | false => exact cmp_eq_eq_iff _ _ |>.2 (by linarith [h.exact.1 rfl])
      | true =>
        have hne : y ≠ mant := fun h' => Bool.noConfusion (h.exact.2 h')
        have := lt_of_le_of_ne hge hne.symm
        exact cmp_eq_gt_iff _ _ |>.2 (by linarith)
    case isFalse hr' =>
      refine cmp_eq_lt_iff _ _ |>.2 ?_
      cases sticky with
      | false =>
        have : ((2 * r : Nat) : ℝ) < (2 ^ k : Nat) := Nat.cast_lt.2 (by omega)
        push_cast at this
        linarith [h.exact.1 rfl]
      | true =>
        obtain ⟨j, rfl⟩ := Nat.exists_eq_add_one.2 (hk rfl)
        have : ((2 * r + 2 : Nat) : ℝ) ≤ (2 ^ (j + 1) : Nat) := Nat.cast_le.2 (by rw [Nat.pow_succ] at *; omega)
        push_cast at this
        linarith

/-- `roundShift` gives the integer below or above `z`, as `roundsUp` decides, and whether `z` is none. -/
theorem roundShift_spec {mant : Nat} {k : ℤ} {sticky : Bool} {y z : ℝ} (rm : BitVec 2) (neg : Bool)
    (h : Magnitude mant sticky y) (hk : sticky = true → 0 < k) (hz : y = z * 2 ^ k) :
    ∃ n : Nat, (n : ℝ) ≤ z ∧ z < n + 1 ∧ roundShift rm neg mant k sticky =
      (if roundsUp rm neg (n % 2 == 1) (cmp z (n + 1 / 2)) (decide (z ≠ n)) then n + 1 else n, decide (z ≠ n)) := by
  cases k with
  | ofNat k =>
    rw [Int.ofNat_eq_natCast, zpow_natCast] at hz
    have hpos : (0 : ℝ) < 2 ^ k := by positivity
    have hsplit : (mant : ℝ) = (mant / 2 ^ k : Nat) * 2 ^ k + (mant % 2 ^ k : Nat) := by
      exact_mod_cast (Nat.div_add_mod' mant (2 ^ k)).symm
    have hr : ((mant % 2 ^ k : Nat) : ℝ) + 1 ≤ 2 ^ k := by exact_mod_cast Nat.mod_lt mant (by positivity)
    have hr0 : (0 : ℝ) ≤ (mant % 2 ^ k : Nat) := Nat.cast_nonneg _
    have hge := h.ge
    have hlt := h.lt
    have hinexact : decide (z ≠ (mant / 2 ^ k : Nat)) = (mant % 2 ^ k != 0 || sticky) := by
      rw [Bool.eq_iff_iff, decide_eq_true_iff, Bool.or_eq_true, bne_iff_ne, ← not_iff_not, not_or, Bool.not_eq_true, not_not,
        not_not, h.exact, ← mul_left_inj' hpos.ne', ← hz]
      constructor
      · intro hy
        have h0 : ((mant % 2 ^ k : Nat) : ℝ) = 0 := by linarith
        exact ⟨by exact_mod_cast h0, by linarith⟩
      · rintro ⟨h0, hy⟩
        rw [hy, hsplit, h0]
        simp
    refine ⟨mant / 2 ^ k, ?_, ?_, ?_⟩
    · exact le_of_mul_le_mul_right (by linarith) hpos
    · exact lt_of_mul_lt_mul_right (by linarith) hpos.le
    · rw [hinexact, cmp_middle h (fun hs => Int.natCast_pos.1 (hk hs)) hz]
      rfl
  | negSucc k =>
    have hs : sticky = false := Bool.eq_false_iff.2 fun hs => absurd (hk hs) (by simp)
    subst hs
    have hzn : z = (mant * 2 ^ (k + 1) : Nat) := by
      rw [h.exact.1 rfl, zpow_negSucc] at hz
      push_cast
      rw [hz]
      field_simp
    refine ⟨mant * 2 ^ (k + 1), hzn.ge, by rw [hzn]; linarith, ?_⟩
    have hlt : cmp z ((mant * 2 ^ (k + 1) : Nat) + 1 / 2) = .lt := (cmp_eq_lt_iff _ _).2 (by rw [hzn]; linarith)
    have hno (odd : Bool) : roundsUp rm neg odd .lt false = false := Bool.eq_false_iff.2 fun h => by simp [roundsUp_iff] at h
    rw [hlt, decide_eq_false (not_not.2 hzn), hno]
    rfl

/-! ## The numbers of a format (R765) -/

section Format

variable {f : FloatFmt} {n : Nat} {e : ℤ}

theorem FloatFmt.holds_neg (w : ℚ) : f.holds w → f.holds (-w) := by
  rintro ⟨m, e, hm, he, rfl⟩
  exact ⟨-m, e, by rwa [abs_neg], he, by push_cast; ring⟩

theorem FloatFmt.holdsEven_neg (w : ℚ) : f.holdsEven w → f.holdsEven (-w) := by
  rintro ⟨m, e, hm, he, rfl⟩
  exact ⟨-m, e, by rwa [mul_neg, abs_neg], he, by push_cast; ring⟩

theorem FloatFmt.holds_mul (hn : n < 2 ^ (f.fb + 1)) (he : f.emin ≤ e) : f.holds (n * 2 ^ e) :=
  ⟨n, e, by rw [Nat.abs_cast]; exact_mod_cast hn, he, by rw [Int.cast_natCast]⟩

theorem FloatFmt.holdsEven_mul (hn : n < 2 ^ (f.fb + 1)) (he : f.emin ≤ e) (h : n % 2 = 0) : f.holdsEven (n * 2 ^ e) := by
  have hhalf : 2 * ((n / 2 : Nat) : ℤ) = n := by omega
  exact ⟨(n / 2 : Nat), e, by rw [hhalf, Nat.abs_cast]; exact_mod_cast hn, he, by rw [hhalf, Int.cast_natCast]⟩

/-- A carry out of the mantissa moves to the next exponent. -/
theorem carry_mul (k : Nat) (e : ℤ) : ((2 ^ (k + 1) : Nat) : ℚ) * 2 ^ e = (2 ^ k : Nat) * 2 ^ (e + 1) := by
  rw [zpow_add_one₀ two_ne_zero]
  push_cast
  ring

/-- A mantissa of the format or the one after the last, at an exponent of the format. -/
theorem FloatFmt.holds_mul_le (hn : n ≤ 2 ^ (f.fb + 1)) (he : f.emin ≤ e) : f.holds (n * 2 ^ e) := by
  rcases Nat.lt_or_eq_of_le hn with h | rfl
  · exact FloatFmt.holds_mul h he
  · rw [carry_mul]
    exact FloatFmt.holds_mul (Nat.pow_lt_pow_succ (by norm_num)) (by omega)

theorem FloatFmt.holdsEven_mul_le (hf : f.Proper) (hn : n ≤ 2 ^ (f.fb + 1)) (he : f.emin ≤ e) (h : n % 2 = 0) :
    f.holdsEven (n * 2 ^ e) := by
  rcases Nat.lt_or_eq_of_le hn with h' | rfl
  · exact FloatFmt.holdsEven_mul h' he h
  · rw [carry_mul]
    refine FloatFmt.holdsEven_mul (Nat.pow_lt_pow_succ (by norm_num)) (by omega) ?_
    exact Nat.even_iff.1 (Nat.even_pow.2 ⟨even_two, by have := hf.fb; omega⟩)

/-- Consecutive mantissas at one exponent are neighbours, when the exponent is the least or the mantissa has all its bits. -/
theorem FloatFmt.neighbours (hn : n < 2 ^ (f.fb + 1)) (he : f.emin ≤ e) (hfull : e = f.emin ∨ 2 ^ f.fb ≤ n) :
    Neighbours f.holds (n * 2 ^ e) ((n + 1 : Nat) * 2 ^ e) where
  low := FloatFmt.holds_mul hn he
  high := FloatFmt.holds_mul_le hn he
  lt := mul_lt_mul_of_pos_right (by exact_mod_cast Nat.lt_succ_self n) (by positivity)
  gap := by
    rintro w ⟨m, k, hm, hk, rfl⟩
    rcases le_or_gt e k with hek | hke
    case inl =>
      -- a multiple of `2 ^ e`
      have hw : (m : ℚ) * 2 ^ k = ((m * 2 ^ (k - e).toNat : ℤ) : ℚ) * 2 ^ e := by
        push_cast
        rw [mul_assoc, ← zpow_natCast, ← zpow_add₀ two_ne_zero, Int.toNat_of_nonneg (by omega), Int.sub_add_cancel]
      rw [hw]
      rcases le_or_gt (m * 2 ^ (k - e).toNat) (n : ℤ) with h | h
      · exact .inl (mul_le_mul_of_nonneg_right (by exact_mod_cast h) (by positivity))
      · exact .inr (mul_le_mul_of_nonneg_right (by exact_mod_cast h) (by positivity))
    case inr =>
      -- a smaller exponent, so a smaller number
      left
      have hfull' : 2 ^ f.fb ≤ n := hfull.resolve_left (by omega)
      calc (m : ℚ) * 2 ^ k ≤ (2 ^ (f.fb + 1) : Nat) * 2 ^ k := by
            refine mul_le_mul_of_nonneg_right ?_ (by positivity)
            exact_mod_cast (le_abs_self m).trans hm.le
        _ = (2 ^ f.fb : Nat) * 2 ^ (k + 1) := carry_mul _ _
        _ ≤ (2 ^ f.fb : Nat) * 2 ^ e := by
            refine mul_le_mul_of_nonneg_left (zpow_le_zpow_right₀ one_le_two (by omega)) (by positivity)
        _ ≤ n * 2 ^ e := mul_le_mul_of_nonneg_right (by exact_mod_cast hfull') (by positivity)

end Format

/-! ## The pattern of a rounded number (R765, R776, R777) -/

section Pack

variable {f : FloatFmt} {rm : BitVec 2} {fs neg inexact tiny : Bool} {q : Nat} {e : ℤ}

/-- What a mantissa below the carry delivers at an exponent. -/
def packNorm (f : FloatFmt) (rm : BitVec 2) (fs neg inexact tiny : Bool) (q : Nat) (e : ℤ) : FRes :=
  if q < 2 ^ f.fb then (if fs then exactRes (withSign f neg 0) else unimplemented)
  else
    let biased := (e - f.emin).toNat + 1
    if 2 ^ f.eb - 1 ≤ biased then { bits := overflowBits f rm neg, cause := causeO ||| causeI }
    else
      { bits := withSign f neg (biased * 2 ^ f.fb + (q - 2 ^ f.fb))
        cause := (if inexact then causeI else 0#6) ||| (if inexact && tiny then causeU else 0#6) }

/-- What a mantissa delivers at an exponent, the carry moved to the exponent. -/
def pack (f : FloatFmt) (rm : BitVec 2) (fs neg inexact tiny : Bool) (q : Nat) (e : ℤ) : FRes :=
  if q = 2 ^ (f.fb + 1) then packNorm f rm fs neg inexact tiny (2 ^ f.fb) (e + 1) else packNorm f rm fs neg inexact tiny q e

/-- The exponent of the last bit of a mantissa of `fb + 1` bits. -/
def topExp (f : FloatFmt) (mant : Nat) (exp : ℤ) : ℤ := exp + (mant.log2 + 1 : Nat) - (f.fb + 1)

/-- The exponent of the last bit that a mantissa keeps in the format. -/
def lastExp (f : FloatFmt) (mant : Nat) (exp : ℤ) : ℤ := max (topExp f mant exp) f.emin

/-- The model's rounding is `roundShift` and then `pack`. -/
theorem roundTo_eq (f : FloatFmt) (rm : BitVec 2) (fs neg : Bool) (mant : Nat) (exp : ℤ) (sticky : Bool) :
    roundTo f rm fs neg mant exp sticky =
      pack f rm fs neg (roundShift rm neg mant (lastExp f mant exp - exp) sticky).2
        (decide (topExp f mant exp < f.emin) &&
          (roundShift rm neg mant (topExp f mant exp - exp) sticky).1 != 2 ^ (f.fb + 1))
        (roundShift rm neg mant (lastExp f mant exp - exp) sticky).1 (lastExp f mant exp) := by
  unfold roundTo pack packNorm lastExp topExp
  simp only [beq_iff_eq]
  split <;> rfl

/-- The three outcomes of a rounded magnitude: below the normalized range, beyond it, and in it. -/
structure Packed (f : FloatFmt) (rm : BitVec 2) (fs neg inexact tiny : Bool) (v : ℚ) (r : FRes) : Prop where
  small : v < f.minNormal → r = if fs then exactRes (withSign f neg 0) else unimplemented
  large : f.overflowAt ≤ v → r = { bits := overflowBits f rm neg, cause := causeO ||| causeI }
  value : f.minNormal ≤ v → v < f.overflowAt → ∃ m e, unpack f r.bits = .num neg m e ∧ 2 ^ f.fb ≤ m ∧ (m : ℚ) * 2 ^ e = v
  width : f.minNormal ≤ v → v < f.overflowAt → r.bits < 2 ^ (f.eb + f.fb + 1)
  cause : f.minNormal ≤ v → v < f.overflowAt →
    r.cause = (if inexact then causeI else 0#6) ||| (if inexact && tiny then causeU else 0#6)

theorem pow_mul_zpow (k : Nat) (e : ℤ) : ((2 ^ k : Nat) : ℚ) * 2 ^ e = 2 ^ (k + e) := by
  rw [zpow_add₀ two_ne_zero, zpow_natCast]
  push_cast
  rfl

theorem minNormal_le_overflowAt (hf : f.Proper) : f.minNormal ≤ f.overflowAt := by
  unfold FloatFmt.minNormal FloatFmt.overflowAt
  refine zpow_le_zpow_right₀ one_le_two ?_
  have : (2 : ℤ) ^ 1 ≤ 2 ^ f.eb := pow_le_pow_right₀ one_le_two (by have := hf.eb; omega)
  omega

theorem minNormal_eq (f : FloatFmt) : f.minNormal = (2 ^ f.fb : Nat) * 2 ^ f.emin := by
  rw [pow_mul_zpow, FloatFmt.minNormal, add_comm]

theorem packNorm_packed (hf : f.Proper) (hq : q < 2 ^ (f.fb + 1)) (he : f.emin ≤ e) (hfull : e = f.emin ∨ 2 ^ f.fb ≤ q) :
    Packed f rm fs neg inexact tiny (q * 2 ^ e) (packNorm f rm fs neg inexact tiny q e) := by
  have hpow : (1 : ℤ) < 2 ^ f.eb := one_lt_pow₀ one_lt_two (by have := hf.eb; omega)
  have hsmall : (q : ℚ) * 2 ^ e < f.minNormal ↔ q < 2 ^ f.fb := by
    rw [minNormal_eq]
    constructor
    · intro h
      by_contra hge
      refine absurd h (not_lt.2 (mul_le_mul (by exact_mod_cast not_lt.1 hge) ?_ (by positivity) (by positivity)))
      exact zpow_le_zpow_right₀ one_le_two he
    · intro h
      rw [hfull.resolve_right (not_le.2 h)]
      exact mul_lt_mul_of_pos_right (by exact_mod_cast h) (by positivity)
  have hlarge (h : 2 ^ f.fb ≤ q) : f.overflowAt ≤ (q : ℚ) * 2 ^ e ↔ f.emin + 2 ^ f.eb - 2 ≤ e := by
    constructor
    · intro hle
      by_contra hlt
      refine absurd hle (not_le.2 ?_)
      calc (q : ℚ) * 2 ^ e < (2 ^ (f.fb + 1) : Nat) * 2 ^ e := mul_lt_mul_of_pos_right (by exact_mod_cast hq) (by positivity)
        _ = 2 ^ ((f.fb + 1 : Nat) + e) := pow_mul_zpow _ _
        _ ≤ f.overflowAt := zpow_le_zpow_right₀ one_le_two (by push_cast; omega)
    · intro hle
      calc f.overflowAt ≤ 2 ^ ((f.fb : Nat) + e) := zpow_le_zpow_right₀ one_le_two (by omega)
        _ = (2 ^ f.fb : Nat) * 2 ^ e := (pow_mul_zpow _ _).symm
        _ ≤ (q : ℚ) * 2 ^ e := mul_le_mul_of_nonneg_right (by exact_mod_cast h) (by positivity)
  rcases lt_or_ge q (2 ^ f.fb) with h | h
  case inl =>
    have hv := hsmall.2 h
    have hr : packNorm f rm fs neg inexact tiny q e = if fs then exactRes (withSign f neg 0) else unimplemented := by
      unfold packNorm
      rw [if_pos h]
    exact ⟨fun _ => hr, fun h' => absurd (hv.trans_le (minNormal_le_overflowAt hf)) h'.not_gt, fun h' => absurd hv h'.not_gt,
      fun h' => absurd hv h'.not_gt, fun h' => absurd hv h'.not_gt⟩
  case inr =>
    have hv := mt hsmall.1 h.not_gt
    have hbound : 2 ^ f.eb - 1 ≤ (e - f.emin).toNat + 1 ↔ f.emin + 2 ^ f.eb - 2 ≤ e := by
      have : ((2 ^ f.eb : Nat) : ℤ) = 2 ^ f.eb := by push_cast; rfl
      omega
    by_cases hover : f.emin + 2 ^ f.eb - 2 ≤ e
    case pos =>
      have hv' := (hlarge h).2 hover
      refine ⟨fun h' => absurd h' hv, fun _ => ?_, fun _ h' => absurd hv' h'.not_ge, fun _ h' => absurd hv' h'.not_ge,
        fun _ h' => absurd hv' h'.not_ge⟩
      unfold packNorm
      rw [if_neg h.not_gt]
      exact if_pos (hbound.2 hover)
    case neg =>
      have hr : packNorm f rm fs neg inexact tiny q e =
          { bits := withSign f neg (((e - f.emin).toNat + 1) * 2 ^ f.fb + (q - 2 ^ f.fb))
            cause := (if inexact then causeI else 0#6) ||| (if inexact && tiny then causeU else 0#6) } := by
        unfold packNorm
        rw [if_neg h.not_gt]
        exact if_neg (mt hbound.1 hover)
      have hE := mt hbound.1 hover
      obtain ⟨hexp, hfrac, hlt⟩ := fields_withSign (f := f) (E := (e - f.emin).toNat + 1) (M := q - 2 ^ f.fb) neg (by omega)
        (by rw [Nat.pow_succ] at hq; omega)
      rw [hr]
      refine ⟨fun h' => absurd h' hv, fun h' => absurd ((hlarge h).1 h') hover, fun _ _ => ?_, fun _ _ => withSign_lt neg hlt,
        fun _ _ => rfl⟩
      refine ⟨q, e, ?_, h, rfl⟩
      show unpack f (withSign f neg _) = _
      rw [unpack_eq, hexp, hfrac, signOf_withSign neg hlt, if_neg (by omega), if_neg (by omega), Nat.add_sub_cancel' h,
        Nat.add_sub_cancel, Int.toNat_of_nonneg (by omega), add_sub_cancel]

theorem pack_packed (hf : f.Proper) (hq : q ≤ 2 ^ (f.fb + 1)) (he : f.emin ≤ e) (hfull : e = f.emin ∨ 2 ^ f.fb ≤ q) :
    Packed f rm fs neg inexact tiny (q * 2 ^ e) (pack f rm fs neg inexact tiny q e) := by
  unfold pack
  split
  case isTrue hc =>
    rw [hc, carry_mul]
    exact packNorm_packed hf (Nat.pow_lt_pow_succ (by norm_num)) (by omega) (.inr le_rfl)
  case isFalse hc => exact packNorm_packed hf (by omega) he hfull

end Pack

/-! ## The model rounds correctly (R768, R776, R777) -/

section RoundTo

variable {f : FloatFmt} {rm : BitVec 2} {fs neg inexact tiny sticky : Bool} {le ge : ℚ → Prop} {mant : Nat} {exp : ℤ} {y : ℝ}

theorem abs_signed {v : ℚ} (hv : 0 ≤ v) : |signed neg v| = v := by
  cases neg
  · exact abs_of_nonneg hv
  · exact (abs_neg v).trans (abs_of_nonneg hv)

theorem cast_signed {v : ℚ} : ((signed neg v : ℚ) : ℝ) = if neg then -(v : ℝ) else v := by
  cases neg
  · rfl
  · exact Rat.cast_neg v

theorem toRat_num (m : Nat) (e : ℤ) : (FVal.num neg m e).toRat = signed neg (m * 2 ^ e) := by
  cases neg <;> simp [FVal.toRat, signed]

/-- A rounded magnitude and what it delivers are a correct rounding. -/
theorem Packed.isRounded {v : ℚ} {x : ℝ} {r : FRes} (p : Packed f rm fs neg inexact tiny v r) (hv : 0 ≤ v)
    (h : roundsTo f.holds f.holdsEven rm neg le ge (signed neg v)) (c : Cut le ge x)
    (hexact : inexact = false ↔ (signed neg v : ℝ) = x)
    (htiny : inexact = true → tiny = true → f.minNormal ≤ v → v = f.minNormal) : isRounded f rm fs neg le ge r := by
  have hboth : le (signed neg v) ∧ ge (signed neg v) ↔ inexact = false := by
    rw [c.le_iff, c.ge_iff, hexact]
    exact ⟨fun h => le_antisymm h.1 h.2, fun h => ⟨h.le, h.ge⟩⟩
  refine ⟨signed neg v, h, ?_⟩
  rw [abs_signed hv, hboth]
  refine ⟨p.small, p.large, fun hmin hmax => ⟨?_, p.width hmin hmax, fun hi => ?_, fun hi => ?_⟩⟩
  · obtain ⟨m, e, hm, hle, hval⟩ := p.value hmin hmax
    exact ⟨m, e, hm, hle, by rw [hm, toRat_num, hval]⟩
  · rw [p.cause hmin hmax, hi, Bool.false_and]
    rfl
  · have hi' := Bool.not_eq_false _ ▸ hi
    rw [p.cause hmin hmax, hi']
    cases htc : tiny with
    | false => exact .inl rfl
    | true => exact .inr ⟨rfl, htiny hi' htc hmin⟩

/-- How large a magnitude is at an exponent. -/
theorem Magnitude.bounds (h : Magnitude mant sticky y) (hm : 0 < mant) :
    (2 : ℝ) ^ (mant.log2 : ℤ) ≤ y ∧ y < 2 ^ ((mant.log2 : ℤ) + 1) := by
  constructor
  · refine le_trans ?_ h.ge
    rw [zpow_natCast]
    exact_mod_cast Nat.log2_self_le hm.ne'
  · refine h.lt.trans_le ?_
    rw [← Nat.cast_one (R := ℤ), ← Nat.cast_add, zpow_natCast]
    exact_mod_cast Nat.lt_log2_self (n := mant)

/-- A rounded magnitude is exact exactly when the integer part was all of it. -/
theorem choice_exact {z : ℝ} {n : Nat} {odd : Bool} (hlt : z < n + 1) :
    z = ((if roundsUp rm neg odd (cmp z (n + 1 / 2)) (decide (z ≠ n)) then n + 1 else n : Nat) : ℝ) ↔ z = n := by
  constructor
  · intro h
    split at h
    · push_cast at h
      exact absurd h hlt.ne
    · exact h
  · intro h
    have hcmp : cmp z (n + 1 / 2) = .lt := (cmp_eq_lt_iff _ _).2 (by rw [h]; linarith)
    have hno : ¬ roundsUp rm neg odd .lt false = true := fun h => by simp [roundsUp_iff] at h
    rw [hcmp, decide_eq_false (not_not.2 h), if_neg hno, h]

theorem cmp_scaled {z : ℝ} (n : Nat) (e : ℤ) :
    cmp (z * 2 ^ e) (((n * 2 ^ e : ℚ) + ((n + 1 : Nat) * 2 ^ e : ℚ) : ℝ) / 2) = cmp z (n + 1 / 2) := by
  have hmono : StrictMono fun w : ℝ => w * 2 ^ e := fun a b hab => mul_lt_mul_of_pos_right hab (by positivity)
  rw [← hmono.cmp_map_eq z]
  congr 1
  push_cast
  ring

/-- `z` is at or above the mantissa `n` and below the next, both of the format at the exponent `e`. -/
structure Cell (f : FloatFmt) (e : ℤ) (z : ℝ) (n : Nat) : Prop where
  low   : (n : ℝ) ≤ z
  high  : z < n + 1
  bound : n < 2 ^ (f.fb + 1)
  least : f.emin ≤ e
  full  : e = f.emin ∨ 2 ^ f.fb ≤ n

/-- What `roundTo` shifts a magnitude to: a cell of the format, of a small mantissa when the magnitude is tiny. -/
theorem Magnitude.exists_cell (rm : BitVec 2) (neg : Bool) (h : Magnitude mant sticky y) (hm : 0 < mant)
    (hs : sticky = true → 2 ^ (f.fb + 1) ≤ mant) : ∃ (n : Nat) (z : ℝ), y * 2 ^ exp = z * 2 ^ lastExp f mant exp ∧
      Cell f (lastExp f mant exp) z n ∧ (topExp f mant exp < f.emin → n < 2 ^ f.fb) ∧
      roundShift rm neg mant (lastExp f mant exp - exp) sticky =
        (if roundsUp rm neg (n % 2 == 1) (cmp z (n + 1 / 2)) (decide (z ≠ n)) then n + 1 else n, decide (z ≠ n)) := by
  obtain ⟨hlow, hhigh⟩ := h.bounds hm
  have htop : topExp f mant exp = exp + mant.log2 - f.fb := by unfold topExp; push_cast; ring
  have hbits (hst : sticky = true) : exp < topExp f mant exp := by
    have := (Nat.pow_lt_pow_iff_right one_lt_two).1 ((hs hst).trans_lt Nat.lt_log2_self)
    omega
  obtain ⟨e, he⟩ : ∃ e, e = lastExp f mant exp := ⟨_, rfl⟩
  have hcases : e = f.emin ∧ topExp f mant exp ≤ e ∨ e = topExp f mant exp ∧ f.emin ≤ e := by unfold lastExp at he; omega
  rw [← he]
  have hpow (i : ℤ) : (2 : ℝ) ^ i * 2 ^ (exp - e) = 2 ^ (i + exp - e) := by
    rw [← zpow_add₀ two_ne_zero, add_sub_assoc]
  obtain ⟨z, hz⟩ : ∃ z : ℝ, z = y * 2 ^ (exp - e) := ⟨_, rfl⟩
  have hyz : y = z * 2 ^ (e - exp) := by
    rw [hz, mul_assoc, ← zpow_add₀ two_ne_zero, sub_add_sub_cancel, sub_self, zpow_zero, mul_one]
  have hzlow : (2 : ℝ) ^ (mant.log2 + exp - e) ≤ z := by
    rw [hz, ← hpow]
    exact mul_le_mul_of_nonneg_right hlow (by positivity)
  have hzhigh : z < 2 ^ (mant.log2 + 1 + exp - e) := by
    rw [hz, ← hpow]
    exact mul_lt_mul_of_pos_right hhigh (by positivity)
  obtain ⟨n, hn, hn1, hshift⟩ := roundShift_spec rm neg h (fun hst => by have := hbits hst; omega) hyz
  have hbelow (j : Nat) (hj : (mant.log2 : ℤ) + 1 + exp - e ≤ j) : n < 2 ^ j := by
    have : (n : ℝ) < (2 : ℝ) ^ (j : ℤ) := (hn.trans_lt hzhigh).trans_le (zpow_le_zpow_right₀ one_le_two hj)
    rw [zpow_natCast] at this
    exact_mod_cast this
  refine ⟨n, z, ?_, ⟨hn, hn1, hbelow _ (by push_cast; omega), by omega, ?_⟩, fun ht => hbelow _ (by omega), hshift⟩
  · rw [hyz, mul_assoc, ← zpow_add₀ two_ne_zero, sub_add_cancel]
  · refine hcases.imp And.left fun ⟨he', _⟩ => Nat.le_of_lt_succ ?_
    have : (2 : ℝ) ^ (f.fb : ℤ) < n + 1 := (zpow_le_zpow_right₀ one_le_two (by omega)).trans_lt (hzlow.trans_lt hn1)
    rw [zpow_natCast] at this
    exact_mod_cast this

/-- The mantissa that `roundsUp` chooses is the rounding. -/
theorem Cell.roundsTo {e : ℤ} {z : ℝ} {n : Nat} {up : Bool} (hf : f.Proper) (h : Cell f e z n)
    (c : Cut le ge (if neg then -(z * 2 ^ e) else z * 2 ^ e))
    (hup : up = roundsUp rm neg (n % 2 == 1) (cmp z (n + 1 / 2)) (decide (z ≠ n))) :
    roundsTo f.holds f.holdsEven rm neg le ge (signed neg ((if up then n + 1 else n : Nat) * 2 ^ e)) := by
  have hinexact : decide (z * 2 ^ e ≠ ((n * 2 ^ e : ℚ) : ℝ)) = decide (z ≠ n) := by
    push_cast
    exact decide_eq_decide.2 (mul_left_injective₀ (by positivity)).ne_iff
  have := roundsTo_magnitude (FloatFmt.neighbours h.bound h.least h.full) FloatFmt.holds_neg FloatFmt.holdsEven_neg
    (y := z * 2 ^ e) (neg := neg) (le := le) (ge := ge) (rm := rm) (odd := n % 2 == 1) (up := up)
    (by push_cast; exact mul_le_mul_of_nonneg_right h.low (by positivity))
    (by push_cast; exact mul_lt_mul_of_pos_right h.high (by positivity)) c
    (fun hodd => FloatFmt.holdsEven_mul_le hf h.bound.le h.least (by simpa using hodd))
    (fun hodd => FloatFmt.holdsEven_mul_le hf h.bound h.least (by simp at hodd; omega))
    (by rw [cmp_scaled, hinexact, hup])
  cases up <;> exact this

/-- `roundTo` rounds the number of sign `neg` and magnitude `y * 2 ^ exp` correctly; what is left of `y` beyond its integer part
may be anything when the integer part has more bits than the format. -/
theorem roundTo_isRounded (hf : f.Proper) (hm : 0 < mant) (h : Magnitude mant sticky y)
    (hs : sticky = true → 2 ^ (f.fb + 1) ≤ mant) (c : Cut le ge (if neg then -(y * 2 ^ exp) else y * 2 ^ exp)) :
    isRounded f rm fs neg le ge (roundTo f rm fs neg mant exp sticky) := by
  obtain ⟨n, z, hval, hcell, htiny, hshift⟩ := h.exists_cell (exp := exp) rm neg hm hs
  have hlast : topExp f mant exp < f.emin → lastExp f mant exp = f.emin := fun h => max_eq_right h.le
  have hexact := choice_exact (rm := rm) (neg := neg) (odd := n % 2 == 1) hcell.high
  rw [hval] at c
  rw [roundTo_eq, hshift]
  obtain ⟨up, hup⟩ : ∃ up, up = roundsUp rm neg (n % 2 == 1) (cmp z (n + 1 / 2)) (decide (z ≠ n)) := ⟨_, rfl⟩
  have hroundsTo := hcell.roundsTo hf c hup
  obtain ⟨-, -, hbound, hleast, hfull⟩ := hcell
  rw [← hup] at hexact ⊢
  dsimp only
  generalize lastExp f mant exp = e at *
  have hq : (if up then n + 1 else n) ≤ 2 ^ (f.fb + 1) := by split <;> omega
  have hqfull : e = f.emin ∨ 2 ^ f.fb ≤ (if up then n + 1 else n) := hfull.imp_right fun h => by split <;> omega
  refine (pack_packed hf hq hleast hqfull).isRounded (by positivity) hroundsTo c ?_ fun _ ht hmin => ?_
  · rw [decide_eq_false_iff_not, not_not, ← hexact, cast_signed, Rat.cast_mul, Rat.cast_natCast, Rat.cast_zpow, Rat.cast_ofNat]
    have hpos : (2 : ℝ) ^ e ≠ 0 := by positivity
    cases neg
    · exact eq_comm.trans (mul_left_inj' hpos).symm
    · exact eq_comm.trans ((mul_left_inj' hpos).symm.trans neg_inj.symm)
  · -- a tiny number rounded into the normalized range is its least one
    have hlt : topExp f mant exp < f.emin := of_decide_eq_true (Bool.and_eq_true _ _ ▸ ht).1
    have hnlt := htiny hlt
    rw [minNormal_eq, hlast hlt] at hmin ⊢
    have hge : 2 ^ f.fb ≤ (if up then n + 1 else n) := by exact_mod_cast le_of_mul_le_mul_right hmin (by positivity)
    rw [show (if up then n + 1 else n) = 2 ^ f.fb from le_antisymm (by split <;> omega) hge]

end RoundTo

/-! ## The exact operations (R768) -/

section Exact

variable {f : FloatFmt} {rm : BitVec 2} {fs neg : Bool}

theorem signed_neg_iff {v : ℚ} (hv : 0 < v) : decide (signed neg v < 0) = neg := by
  cases neg
  · exact decide_eq_false hv.not_gt
  · exact decide_eq_true (neg_lt_zero.2 hv)

theorem signed_ne_zero {v : ℚ} : signed neg v ≠ 0 ↔ v ≠ 0 := by
  cases neg
  · exact Iff.rfl
  · exact neg_ne_zero

theorem toRat_ne_zero {m : Nat} {e : ℤ} : (FVal.num neg m e).toRat ≠ 0 ↔ 0 < m := by
  rw [toRat_num, signed_ne_zero, mul_ne_zero_iff, Nat.cast_ne_zero, Nat.pos_iff_ne_zero, and_iff_left (by positivity)]

theorem toRat_pos {m : Nat} {e : ℤ} : 0 < (FVal.num neg m e).toRat ↔ 0 < m ∧ neg = false := by
  rw [toRat_num]
  have hpow : (0 : ℚ) < 2 ^ e := by positivity
  cases neg
  · simp [signed, hpow]
  · simp [signed, mul_nonneg, hpow.le]

/-- The rounding of a rational number given by its sign and magnitude. -/
theorem roundTo_rat_isRounded (hf : f.Proper) {mant : Nat} {exp : ℤ} {sticky : Bool} {v : ℚ} {y : ℝ} (hm : 0 < mant)
    (h : Magnitude mant sticky y) (hs : sticky = true → 2 ^ (f.fb + 1) ≤ mant) (hv : y * 2 ^ exp = v) {a : ℚ}
    (ha : a = signed neg v) :
    isRounded f rm fs (decide (a < 0)) (· ≤ a) (a ≤ ·) (roundTo f rm fs neg mant exp sticky) := by
  have hpos : 0 < v := by
    have : (0 : ℝ) < y * 2 ^ exp := mul_pos ((Nat.cast_pos.2 hm).trans_le h.ge) (by positivity)
    rw [hv] at this
    exact_mod_cast this
  subst ha
  rw [signed_neg_iff hpos]
  refine roundTo_isRounded hf hm h hs ?_
  rw [hv, ← cast_signed]
  exact Cut.rat _

theorem roundTo_exact_isRounded (hf : f.Proper) {mant : Nat} {exp : ℤ} (hm : 0 < mant) {a : ℚ}
    (ha : a = signed neg (mant * 2 ^ exp)) :
    isRounded f rm fs (decide (a < 0)) (· ≤ a) (a ≤ ·) (roundTo f rm fs neg mant exp false) :=
  roundTo_rat_isRounded hf hm (Magnitude.nat mant) (fun h => Bool.noConfusion h) (by push_cast; rfl) ha

theorem roundExact_isRounded (hf : f.Proper) {mant : Nat} {exp : ℤ} (hm : 0 < mant) {a : ℚ}
    (ha : a = signed neg (mant * 2 ^ exp)) :
    isRounded f rm fs (decide (a < 0)) (· ≤ a) (a ≤ ·) (roundExact f rm fs neg mant exp) := by
  unfold roundExact
  rw [if_neg hm.ne']
  exact roundTo_exact_isRounded hf hm ha

theorem signed_natAbs (k : ℤ) : (k : ℚ) = signed (decide (k < 0)) k.natAbs := by
  rcases lt_or_ge k 0 with h | h
  · rw [decide_eq_true h]
    show (k : ℚ) = -((k.natAbs : ℕ) : ℚ)
    rw [Nat.cast_natAbs, abs_of_neg h]
    push_cast
    ring
  · rw [decide_eq_false h.not_gt]
    show (k : ℚ) = ((k.natAbs : ℕ) : ℚ)
    rw [Nat.cast_natAbs, abs_of_nonneg h]

theorem signed_mul (v w : ℚ) : signed neg v * w = signed neg (v * w) := by
  cases neg
  · rfl
  · exact neg_mul v w

theorem signed_xor_mul {p q : Bool} (v w : ℚ) : signed p v * signed q w = signed (p ^^ q) (v * w) := by
  cases p <;> cases q <;> simp [signed]

theorem signed_xor_div {p q : Bool} (v w : ℚ) : signed p v / signed q w = signed (p ^^ q) (v / w) := by
  cases p <;> cases q <;> simp [signed, neg_div, div_neg]

theorem addVal_isRounded (hf : f.Proper) {n n' : Bool} {m m' : Nat} {e e' : ℤ} {a b : ℚ} (ha : a = (FVal.num n m e).toRat)
    (hb : b = (FVal.num n' m' e').toRat) (h : a + b ≠ 0) :
    isRounded f rm fs (decide (a + b < 0)) (· ≤ a + b) (a + b ≤ ·) (addVal f rm fs (.num n m e) (.num n' m' e')) := by
  have hsum : a + b = ((scaled n m e (min e e') + scaled n' m' e' (min e e') : ℤ) : ℚ) * 2 ^ min e e' := by
    rw [ha, hb, ← scaled_mul (min_le_left e e'), ← scaled_mul (min_le_right e e')]
    push_cast
    ring
  unfold addVal
  dsimp only
  generalize scaled n m e (min e e') + scaled n' m' e' (min e e') = v at hsum
  have hv : v ≠ 0 := by
    rintro rfl
    exact h (by rw [hsum]; simp)
  rw [if_neg hv]
  exact roundTo_exact_isRounded hf (Int.natAbs_pos.2 hv) (by rw [hsum, ← signed_mul, ← signed_natAbs])

theorem mulVal_isRounded (hf : f.Proper) {n n' : Bool} {m m' : Nat} {e e' : ℤ} {a b : ℚ} (ha : a = (FVal.num n m e).toRat)
    (hb : b = (FVal.num n' m' e').toRat) (h : a * b ≠ 0) :
    isRounded f rm fs (decide (a * b < 0)) (· ≤ a * b) (a * b ≤ ·) (mulVal f rm fs (.num n m e) (.num n' m' e')) := by
  subst ha hb
  obtain ⟨hm, hm'⟩ := mul_ne_zero_iff.1 h
  refine roundExact_isRounded hf (Nat.mul_pos (toRat_ne_zero.1 hm) (toRat_ne_zero.1 hm')) ?_
  rw [toRat_num, toRat_num, signed_xor_mul, zpow_add₀ two_ne_zero]
  push_cast
  congr 1
  ring

theorem toFormat_isRounded (hf : f.Proper) {n : Bool} {m : Nat} {e : ℤ} {a : ℚ} (ha : a = (FVal.num n m e).toRat) (h : a ≠ 0) :
    isRounded f rm fs (decide (a < 0)) (· ≤ a) (a ≤ ·) (toFormat f rm fs (.num n m e)) := by
  subst ha
  exact roundExact_isRounded hf (toRat_ne_zero.1 h) (toRat_num m e)

theorem ofIntRounded_isRounded (hf : f.Proper) {k : ℤ} (h : k ≠ 0) :
    isRounded f rm true (decide (k < 0)) (· ≤ (k : ℚ)) ((k : ℚ) ≤ ·) (ofIntRounded f rm k) := by
  have := roundExact_isRounded (rm := rm) (fs := true) hf (Int.natAbs_pos.2 h)
    (show (k : ℚ) = signed (decide (k < 0)) (k.natAbs * 2 ^ (0 : ℤ)) by rw [zpow_zero, mul_one, ← signed_natAbs])
  simp only [Int.cast_lt_zero] at this
  exact this

end Exact

/-! ## Quotients and roots (R833, R834, R855) -/

section Quotient

variable {f : FloatFmt} {rm : BitVec 2} {fs : Bool}

/-- The quotient of two integers, with whether there is a remainder. -/
theorem Magnitude.div (a : Nat) {b : Nat} (hb : 0 < b) : Magnitude (a / b) (a % b != 0) ((a : ℝ) / b) := by
  have hpos : (0 : ℝ) < b := Nat.cast_pos.2 hb
  refine ⟨?_, ?_, ?_⟩
  · exact Nat.cast_div_le
  · rw [div_lt_iff₀' hpos]
    exact_mod_cast Nat.lt_mul_div_succ a hb
  · rw [bne_eq_false_iff_eq, div_eq_iff hpos.ne']
    have hsplit := Nat.div_add_mod' a b
    norm_cast
    omega

/-- What a pattern's number may be. -/
theorem unpack_num_lt {x m : Nat} {n : Bool} {e : ℤ} (h : unpack f x = .num n m e) : m < 2 ^ (f.fb + 1) := by
  have hmod : x % 2 ^ f.fb < 2 ^ f.fb := Nat.mod_lt _ (by positivity)
  rw [unpack_eq] at h
  rw [Nat.pow_succ]
  split at h
  · split at h <;> cases h
  · split at h
    · cases h; omega
    · cases h; omega

theorem divVal_isRounded (hf : f.Proper) {n n' : Bool} {m m' : Nat} {e e' : ℤ} {a b : ℚ} (ha : a = (FVal.num n m e).toRat)
    (hb : b = (FVal.num n' m' e').toRat) (hm' : m' < 2 ^ (f.fb + 1)) (ha0 : a ≠ 0) (hb0 : b ≠ 0) :
    isRounded f rm fs (decide (a / b < 0)) (· ≤ a / b) (a / b ≤ ·) (divVal f rm fs (.num n m e) (.num n' m' e')) := by
  subst ha hb
  have hmpos := toRat_ne_zero.1 ha0
  have hmpos' := toRat_ne_zero.1 hb0
  have hlarge : 2 ^ (f.fb + 1) ≤ m * 2 ^ (2 * f.fb + 10) / m' := by
    rw [Nat.le_div_iff_mul_le hmpos']
    calc 2 ^ (f.fb + 1) * m' ≤ 2 ^ (f.fb + 1) * 2 ^ (f.fb + 1) := Nat.mul_le_mul_left _ hm'.le
      _ = 2 ^ (2 * f.fb + 2) := by rw [← Nat.pow_add]; congr 1; ring
      _ ≤ 2 ^ (2 * f.fb + 10) := Nat.pow_le_pow_right (by norm_num) (by omega)
      _ ≤ m * 2 ^ (2 * f.fb + 10) := Nat.le_mul_of_pos_left _ hmpos
  unfold divVal
  dsimp only
  rw [if_neg hmpos'.ne', if_neg hmpos.ne']
  refine roundTo_rat_isRounded hf (lt_of_lt_of_le (by positivity) hlarge) (Magnitude.div _ hmpos') (fun _ => hlarge)
    (v := m * 2 ^ e / (m' * 2 ^ e'))
    ?_ (by rw [toRat_num, toRat_num, signed_xor_div])
  have : (m' : ℝ) ≠ 0 := Nat.cast_ne_zero.2 hmpos'.ne'
  rw [zpow_sub₀ two_ne_zero, zpow_sub₀ two_ne_zero, zpow_natCast]
  push_cast
  field_simp

/-- The integer square root, bit by bit. -/
theorem isqrtBits_spec (x : Nat) : ∀ n acc, acc * acc ≤ x → x < (acc + 2 ^ n) * (acc + 2 ^ n) →
    isqrtBits x n acc * isqrtBits x n acc ≤ x ∧ x < (isqrtBits x n acc + 1) * (isqrtBits x n acc + 1)
  | 0, acc, hle, hlt => ⟨hle, hlt⟩
  | n + 1, acc, hle, hlt => by
    unfold isqrtBits
    have hdouble : acc + 2 ^ n + 2 ^ n = acc + 2 ^ (n + 1) := by rw [Nat.pow_succ]; omega
    split
    case isTrue h => exact isqrtBits_spec x n _ h (by rwa [hdouble])
    case isFalse h => exact isqrtBits_spec x n _ hle (not_le.1 h)

theorem isqrt_spec {x : Nat} (h : x < 2 ^ 256) : isqrt x * isqrt x ≤ x ∧ x < (isqrt x + 1) * (isqrt x + 1) :=
  isqrtBits_spec x 128 0 (Nat.zero_le x) (by rwa [Nat.zero_add, ← Nat.pow_add])

/-- The integer part of a square root, with whether the root is no integer. -/
theorem Magnitude.sqrt {A : ℝ} {r : Nat} {sticky : Bool} (hle : ((r * r : Nat) : ℝ) ≤ A)
    (hlt : A < ((r + 1) * (r + 1) : Nat)) (hst : sticky = false ↔ ((r * r : Nat) : ℝ) = A) : Magnitude r sticky (√A) := by
  push_cast at hle hlt hst
  have hr : (0 : ℝ) ≤ r := Nat.cast_nonneg r
  have hA : 0 ≤ A := (mul_nonneg hr hr).trans hle
  refine ⟨Real.le_sqrt_of_sq_le (by rwa [sq]), ?_, ?_⟩
  · rwa [Real.sqrt_lt hA (by linarith), sq]
  · rw [hst, Real.sqrt_eq_iff_mul_self_eq hA hr, eq_comm]

/-- The rational numbers below and above a square root. -/
theorem Cut.sqrt {a : ℚ} (ha : 0 ≤ a) : Cut (fun q => q < 0 ∨ q * q ≤ a) (fun q => 0 ≤ q ∧ a ≤ q * q) (√(a : ℝ)) := by
  have ha' : (0 : ℝ) ≤ a := Rat.cast_nonneg.2 ha
  constructor <;> intro q
  · rcases lt_or_ge q 0 with hq | hq
    · have : (q : ℝ) < 0 := Rat.cast_lt_zero.2 hq
      exact iff_of_true (.inl hq) (this.le.trans (Real.sqrt_nonneg _))
    · rw [Real.le_sqrt (Rat.cast_nonneg.2 hq) ha', or_iff_right hq.not_gt, sq]
      exact_mod_cast Iff.rfl
  · rw [Real.sqrt_le_iff, sq]
    exact_mod_cast Iff.rfl

/-- The even exponent leaves the value. -/
theorem evenExp_spec (m : Nat) (e : ℤ) : ((evenExp m e).1 : ℚ) * 2 ^ (evenExp m e).2 = m * 2 ^ e ∧
    2 * ((evenExp m e).2 / 2) = (evenExp m e).2 ∧ m ≤ (evenExp m e).1 ∧ (evenExp m e).1 ≤ 2 * m := by
  unfold evenExp
  split
  case isTrue h => exact ⟨rfl, by dsimp only; omega, le_rfl, by dsimp only; omega⟩
  case isFalse h =>
    refine ⟨?_, by dsimp only; omega, by dsimp only; omega, le_rfl⟩
    dsimp only
    rw [zpow_sub_one₀ two_ne_zero]
    push_cast
    ring

end Quotient

section Roots

variable {f : FloatFmt} {rm : BitVec 2} {fs : Bool}

/-- The rational numbers below and above a reciprocal square root. -/
theorem Cut.rsqrt {a : ℚ} (ha : 0 < a) :
    Cut (fun q => q < 0 ∨ q * q * a ≤ 1) (fun q => 0 ≤ q ∧ 1 ≤ q * q * a) (√((1 / a : ℚ) : ℝ)) := by
  have h := Cut.sqrt (one_div_pos.2 ha).le
  simp only [le_div_iff₀ ha, div_le_iff₀ ha] at h
  exact h

theorem sqrt_mul_zpow (A : ℝ) (j : ℤ) : √A * 2 ^ j = √(A * 2 ^ (2 * j)) := by
  have hpow : (2 : ℝ) ^ (2 * j) = (2 ^ j) ^ 2 := by rw [mul_comm, zpow_mul]; norm_cast
  rw [hpow, Real.sqrt_mul' A (by positivity), Real.sqrt_sq (by positivity)]

/-- A bound of the integer part of a square root. -/
theorem le_root {c r x : Nat} (h : c * c ≤ x) (hlt : x < (r + 1) * (r + 1)) : c ≤ r :=
  Nat.le_of_lt_succ (Nat.mul_self_lt_mul_self_iff.1 (h.trans_lt hlt))

/-- The rounding of a square root given by its integer part. -/
theorem roundTo_root_isRounded (hf : f.Proper) {r : Nat} {sticky : Bool} {A : ℝ} {exp : ℤ} {v : ℚ} {le ge : ℚ → Prop}
    (h : Magnitude r sticky √A) (hlarge : 2 ^ (f.fb + 1) ≤ r) (c : Cut le ge (√(v : ℝ))) (hv : A * 2 ^ (2 * exp) = v) :
    isRounded f rm fs false le ge (roundTo f rm fs false r exp sticky) := by
  refine roundTo_isRounded hf (lt_of_lt_of_le (by positivity) hlarge) h (fun _ => hlarge) ?_
  rw [sqrt_mul_zpow, hv]
  exact c

theorem sqrtVal_isRounded (hf : f.Proper) (hfb : f.fb ≤ 52) {n : Bool} {m : Nat} {e : ℤ} {a : ℚ} (ha : a = (FVal.num n m e).toRat)
    (hm : m < 2 ^ (f.fb + 1)) (hpos : 0 < a) :
    isRounded f rm fs false (fun q => q < 0 ∨ q * q ≤ a) (fun q => 0 ≤ q ∧ a ≤ q * q) (sqrtVal f rm fs (.num n m e)) := by
  obtain ⟨hm0, rfl⟩ := toRat_pos.1 (ha ▸ hpos)
  have hspec := evenExp_spec m e
  have hval : a = m * 2 ^ e := ha.trans (toRat_num m e)
  unfold sqrtVal
  dsimp only
  rw [if_neg hm0.ne', if_neg Bool.false_ne_true]
  generalize evenExp m e = p at hspec ⊢
  obtain ⟨m', e'⟩ := p
  obtain ⟨hme, heven, hmle, hmge⟩ := hspec
  dsimp only at hme heven hmle hmge ⊢
  have hx : m' * 2 ^ (2 * (f.fb + 5)) < 2 ^ 256 := by
    calc m' * 2 ^ (2 * (f.fb + 5)) < 2 ^ (f.fb + 2) * 2 ^ (2 * (f.fb + 5)) :=
          Nat.mul_lt_mul_of_pos_right (by rw [Nat.pow_succ]; omega) (by positivity)
      _ = 2 ^ (f.fb + 2 + 2 * (f.fb + 5)) := (Nat.pow_add _ _ _).symm
      _ ≤ 2 ^ 256 := Nat.pow_le_pow_right (by norm_num) (by omega)
  obtain ⟨hle, hlt⟩ := isqrt_spec hx
  have hlarge : 2 ^ (f.fb + 5) ≤ isqrt (m' * 2 ^ (2 * (f.fb + 5))) := by
    refine le_root ?_ hlt
    rw [← Nat.pow_add, ← Nat.two_mul]
    exact Nat.le_mul_of_pos_left _ (by omega)
  refine roundTo_root_isRounded (v := a) (A := (m' * 2 ^ (2 * (f.fb + 5)) : Nat)) hf
    (Magnitude.sqrt (by exact_mod_cast hle) (by exact_mod_cast hlt) ?_)
    ((Nat.pow_le_pow_right (by norm_num) (by omega)).trans hlarge) (Cut.sqrt hpos.le) ?_
  · rw [bne_eq_false_iff_eq, Nat.cast_inj]
  · have hexp : 2 * (e' / 2 - ((f.fb + 5 : Nat) : ℤ)) = e' - (2 * (f.fb + 5) : Nat) := by push_cast; omega
    rw [hval, ← hme, hexp, zpow_sub₀ two_ne_zero, zpow_natCast]
    push_cast
    field_simp

theorem rsqrtVal_isRounded (hf : f.Proper) (hfb : f.fb ≤ 52) (hfb' : 4 ≤ f.fb) {n : Bool} {m : Nat} {e : ℤ} {a : ℚ}
    (ha : a = (FVal.num n m e).toRat) (hm : m < 2 ^ (f.fb + 1)) (hpos : 0 < a) :
    isRounded f rm fs false (fun q => q < 0 ∨ q * q * a ≤ 1) (fun q => 0 ≤ q ∧ 1 ≤ q * q * a) (rsqrtVal f rm fs (.num n m e)) := by
  obtain ⟨hm0, rfl⟩ := toRat_pos.1 (ha ▸ hpos)
  have hspec := evenExp_spec m e
  have hval : a = m * 2 ^ e := ha.trans (toRat_num m e)
  unfold rsqrtVal
  dsimp only
  rw [if_neg hm0.ne', if_neg Bool.false_ne_true]
  generalize evenExp m e = p at hspec ⊢
  obtain ⟨m', e'⟩ := p
  obtain ⟨hme, heven, hmle, hmge⟩ := hspec
  dsimp only at hme heven hmle hmge ⊢
  have hm0' : 0 < m' := by omega
  have hx : 2 ^ (2 * (2 * f.fb)) / m' < 2 ^ 256 :=
    (Nat.div_le_self _ _).trans_lt (Nat.pow_lt_pow_right (by norm_num) (by omega))
  obtain ⟨hle, hlt⟩ := isqrt_spec hx
  have hlarge : 2 ^ (f.fb + 1) ≤ isqrt (2 ^ (2 * (2 * f.fb)) / m') := by
    refine le_root ?_ hlt
    rw [Nat.le_div_iff_mul_le hm0']
    calc 2 ^ (f.fb + 1) * 2 ^ (f.fb + 1) * m' ≤ 2 ^ (f.fb + 1) * 2 ^ (f.fb + 1) * 2 ^ (f.fb + 2) :=
          Nat.mul_le_mul_left _ (by rw [Nat.pow_succ 2 (f.fb + 1)]; omega)
      _ = 2 ^ (f.fb + 1 + (f.fb + 1) + (f.fb + 2)) := by
          rw [Nat.pow_add 2 (f.fb + 1 + (f.fb + 1)), Nat.pow_add 2 (f.fb + 1) (f.fb + 1)]
      _ ≤ 2 ^ (2 * (2 * f.fb)) := Nat.pow_le_pow_right (by norm_num) (by omega)
  have hmreal : (0 : ℝ) < m' := Nat.cast_pos.2 hm0'
  obtain ⟨hdivle, hdivlt, -⟩ := Magnitude.div (2 ^ (2 * (2 * f.fb))) hm0'
  refine roundTo_root_isRounded (v := 1 / a) (A := (2 ^ (2 * (2 * f.fb)) : Nat) / m') hf
    (Magnitude.sqrt ((Nat.cast_le.2 hle).trans hdivle) (hdivlt.trans_le ?_) ?_) hlarge (Cut.rsqrt hpos) ?_
  · exact_mod_cast hlt
  · rw [bne_eq_false_iff_eq, eq_div_iff hmreal.ne']
    norm_cast
  · have hexp : 2 * (-(e' / 2) - ((2 * f.fb : Nat) : ℤ)) = -e' - (2 * (2 * f.fb) : Nat) := by push_cast; omega
    rw [hval, ← hme, hexp, zpow_sub₀ two_ne_zero, zpow_natCast, zpow_neg]
    push_cast
    field_simp

end Roots

/-! ## Overflow (R776) -/

section Overflow

variable {f : FloatFmt} {rm : BitVec 2}

theorem infBits_spec (f : FloatFmt) (q : Bool) : infBits f q < 2 ^ (f.eb + f.fb + 1) ∧ unpack f (infBits f q) = .inf q := by
  have hpow : 0 < 2 ^ f.eb := by positivity
  obtain ⟨hE, hM, hlt⟩ := fields_withSign (f := f) (E := 2 ^ f.eb - 1) (M := 0) q (by omega) (by positivity)
  refine ⟨withSign_lt q hlt, ?_⟩
  show unpack f (withSign f q ((2 ^ f.eb - 1) * 2 ^ f.fb + 0)) = _
  rw [unpack_eq, hE, hM, if_pos rfl, if_pos rfl, signOf_withSign q hlt]

/-- The pattern before an infinity is the largest finite number. -/
theorem largest_spec (hf : f.Proper) (q : Bool) : infBits f q - 1 < 2 ^ (f.eb + f.fb + 1) ∧
    unpack f (infBits f q - 1) = .num q (2 ^ (f.fb + 1) - 1) (f.emin + 2 ^ f.eb - 3) := by
  have heb : 2 ^ 2 ≤ 2 ^ f.eb := Nat.pow_le_pow_right (by norm_num) hf.eb
  have hfb : 0 < 2 ^ f.fb := by positivity
  have hsplit : (2 ^ f.eb - 1) * 2 ^ f.fb - 1 = (2 ^ f.eb - 2) * 2 ^ f.fb + (2 ^ f.fb - 1) := by
    rw [show 2 ^ f.eb - 1 = 2 ^ f.eb - 2 + 1 by omega, Nat.add_one_mul]
    omega
  have hpat : infBits f q - 1 = withSign f q ((2 ^ f.eb - 2) * 2 ^ f.fb + (2 ^ f.fb - 1)) := by
    rw [← hsplit]
    exact Nat.add_sub_assoc (Nat.mul_pos (by omega) hfb) _
  obtain ⟨hE, hM, hlt⟩ := fields_withSign (f := f) (E := 2 ^ f.eb - 2) (M := 2 ^ f.fb - 1) q (by omega) (by omega)
  rw [hpat]
  refine ⟨withSign_lt q hlt, ?_⟩
  rw [unpack_eq, hE, hM, signOf_withSign q hlt, if_neg (by omega), if_neg (by omega)]
  have hcast : ((2 ^ f.eb : Nat) : ℤ) = 2 ^ f.eb := by push_cast; rfl
  congr 1
  · rw [Nat.pow_succ]; omega
  · omega

theorem overflowBits_spec (hf : f.Proper) (q : Bool) : overflowBits f rm q < 2 ^ (f.eb + f.fb + 1) ∧
    unpack f (overflowBits f rm q) = if rm = 0#2 ∨ rm = 2#2 ∧ q = false ∨ rm = 3#2 ∧ q = true then .inf q
      else .num q (2 ^ (f.fb + 1) - 1) (f.emin + 2 ^ f.eb - 3) := by
  have hbits : overflowBits f rm q =
      if rm = 0#2 ∨ rm = 2#2 ∧ q = false ∨ rm = 3#2 ∧ q = true then infBits f q else infBits f q - 1 := by
    unfold overflowBits
    obtain rfl | rfl | rfl | rfl := mode_cases rm <;> cases q <;> rfl
  rw [hbits]
  split
  · exact infBits_spec f q
  · exact largest_spec hf q

end Overflow

/-! ## Conversion to an integer (R780) -/

section ToInteger

variable {rm : BitVec 2}

theorem isInt_neg (w : ℚ) : isInt w → isInt (-w) := by
  rintro ⟨k, rfl⟩
  exact ⟨-k, by push_cast; rfl⟩

theorem isEvenInt_neg (w : ℚ) : isEvenInt w → isEvenInt (-w) := by
  rintro ⟨k, rfl⟩
  exact ⟨-k, by push_cast; ring⟩

theorem isEvenInt_nat {k : Nat} (h : k % 2 = 0) : isEvenInt k := ⟨(k / 2 : Nat), by norm_cast; omega⟩

theorem isInt_neighbours (k : Nat) : Neighbours isInt k (k + 1 : Nat) where
  low := ⟨k, rfl⟩
  high := ⟨(k + 1 : Nat), rfl⟩
  lt := Nat.cast_lt.2 (Nat.lt_succ_self k)
  gap := by
    rintro w ⟨j, rfl⟩
    rcases le_or_gt j (k : ℤ) with h | h
    · exact .inl (by exact_mod_cast h)
    · exact .inr (by exact_mod_cast h)

/-- The conversion to an integer rounds correctly. -/
theorem toIntRounded_spec (rm : BitVec 2) (n : Bool) (m : Nat) (e : ℤ) {a : ℚ} (ha : a = (FVal.num n m e).toRat) :
    roundsTo isInt isEvenInt rm n (· ≤ a) (a ≤ ·) (toIntRounded rm n m e).1 ∧
      ((toIntRounded rm n m e).2 = false ↔ ((toIntRounded rm n m e).1 : ℚ) = a) := by
  have hz : (m : ℝ) = (m * 2 ^ e : ℝ) * 2 ^ (-e) := by
    rw [mul_assoc, ← zpow_add₀ two_ne_zero, add_neg_cancel, zpow_zero, mul_one]
  obtain ⟨k, hk, hk1, hshift⟩ := roundShift_spec rm n (Magnitude.nat m) (fun h => Bool.noConfusion h) hz
  have hexact := choice_exact (rm := rm) (neg := n) (odd := k % 2 == 1) hk1
  unfold toIntRounded
  rw [hshift]
  dsimp only
  obtain ⟨z, hzdef⟩ : ∃ z : ℝ, z = m * 2 ^ e := ⟨_, rfl⟩
  rw [← hzdef] at hk hk1 hexact ⊢
  obtain ⟨up, hup⟩ : ∃ up, up = roundsUp rm n (k % 2 == 1) (cmp z (k + 1 / 2)) (decide (z ≠ k)) := ⟨_, rfl⟩
  rw [← hup] at hexact ⊢
  have hval : (a : ℝ) = if n then -z else z := by
    rw [ha, toRat_num, cast_signed, hzdef]
    push_cast
    rfl
  have hint : (((if n then -((if up then k + 1 else k : Nat) : ℤ) else (if up then k + 1 else k : Nat) : ℤ)) : ℚ) =
      signed n (if up then k + 1 else k : Nat) := by
    cases n
    · exact Int.cast_natCast _
    · exact (Int.cast_neg _).trans (congrArg Neg.neg (Int.cast_natCast _))
  rw [hint]
  constructor
  · have hmid : ((k : ℚ) + ((k + 1 : Nat) : ℚ) : ℝ) / 2 = (k : ℝ) + 1 / 2 := by push_cast; ring
    have := roundsTo_magnitude (isInt_neighbours k) isInt_neg isEvenInt_neg
      (y := z) (neg := n) (le := (· ≤ a)) (ge := (a ≤ ·)) (rm := rm) (odd := k % 2 == 1) (up := up)
      (by rwa [Rat.cast_natCast]) (by push_cast; exact hk1) (by rw [← hval]; exact Cut.rat a)
      (fun hodd => isEvenInt_nat (by simpa using hodd)) (fun hodd => isEvenInt_nat (by simp at hodd; omega))
      (by rw [hmid, Rat.cast_natCast, hup])
    cases up <;> exact this
  · rw [decide_eq_false_iff_not, not_not, ← hexact, ← Rat.cast_inj (α := ℝ), cast_signed, hval, Rat.cast_natCast]
    cases n
    · exact eq_comm
    · exact eq_comm.trans neg_inj.symm

/-- A conversion to an integer, in range and out of it. -/
theorem toFixed_spec {w : Nat} (n : Bool) (m : Nat) (e : ℤ) {a : ℚ} (ha : a = (FVal.num n m e).toRat) :
    ∃ k : ℤ, roundsTo isInt isEvenInt rm n (· ≤ a) (a ≤ ·) k ∧
      (-(2 ^ (w - 1) : ℤ) ≤ k ∧ k < 2 ^ (w - 1) →
        toFixed w none rm (.num n m e) = { bits := (BitVec.ofInt w k).toNat, cause := if (k : ℚ) = a then 0#6 else causeI }) ∧
      (¬ (-(2 ^ (w - 1) : ℤ) ≤ k ∧ k < 2 ^ (w - 1)) → toFixed w none rm (.num n m e) = unimplemented) := by
  obtain ⟨hround, hexact⟩ := toIntRounded_spec rm n m e ha
  rw [toFixed_num]
  refine ⟨(toIntRounded rm n m e).1, hround, fun hr => ?_, fun hr => if_neg (mt inRange_none_iff.1 hr)⟩
  rw [if_pos (inRange_none_iff.2 hr)]
  congr 1
  simp only [← hexact, ← Bool.not_eq_true, ite_not]

end ToInteger

/-! ## O60 -/

theorem fmt_cases {f : FloatFmt} (h : f ∈ [fmtS, fmtD]) : f.Proper ∧ 4 ≤ f.fb ∧ f.fb ≤ 52 := by
  rcases List.mem_pair.1 h with rfl | rfl
  · exact ⟨fmtOf_proper false, by decide, by decide⟩
  · exact ⟨fmtOf_proper true, by decide, by decide⟩

/-- Settles O60: the rounding of each operation, `roundTo` given the magnitude of its exact result. -/
theorem fpRounding : Obligations.FpRounding := by
  intro f g rm fl x y n n' m m' e e' a b hfmt hgmt hx hy ha hb
  obtain ⟨hf, hfb4, hfb⟩ := fmt_cases hfmt
  obtain ⟨hg, -⟩ := fmt_cases hgmt
  have hm := unpack_num_lt hx
  have hm' := unpack_num_lt hy
  rw [hx] at ha
  rw [hy] at hb
  rw [hx, hy]
  refine ⟨addVal_isRounded hf ha hb, mulVal_isRounded hf ha hb, divVal_isRounded hf ha hb hm', fun ha0 => ?reciprocal,
    overflowBits_spec hf, sqrtVal_isRounded hf hfb ha hm, rsqrtVal_isRounded hf hfb hfb4 ha hm, toFormat_isRounded hg ha,
    fun k hk _ => ofIntRounded_isRounded hg hk, fun w _ => toFixed_spec n m e ha⟩
  case reciprocal =>
    have hone : (1 : ℚ) = (FVal.num false 1 0).toRat := by simp [FVal.toRat]
    have := divVal_isRounded (rm := rm) (fs := fl) hf hone ha hm one_ne_zero ha0
    simp only [one_div_neg] at this
    exact this

end Sys2Proof.Machine
end
